-- ==== Sys2Proof/Word.lean ====
section
/-! DEFINITION. The word types of the model. -/

namespace Sys2Proof

/-- A byte of memory or of a message. -/
abbrev Byte := BitVec 8
/-- A 32-bit register or field. -/
abbrev W32 := BitVec 32
/-- A T64 value, a device address or a 64-bit operand (R9, R115). -/
abbrev W64 := BitVec 64

end Sys2Proof
end

