-- ==== Sys2Proof/Syntax.lean ====
section
/-! DEFINITION. The commands of the block: one constructor per row of opcode_table.json, with the operands that
arrive from outside the device. Data that the host, a sensor, a peer or a measuring circuit supplies is an operand;
everything the device decides for itself it takes from its own state. -/

namespace Sys2Proof

/-- How the host answers a PCIe read (R99, R143). -/
inductive PcieReply where
  | data (bytes : List Byte)
  | unsupported
  | aborted
  | poisoned
  | timeout
  deriving DecidableEq, Repr

/-- What the host answers for one byte of T3 at the moment of the read (R123, R138, R142, R143). -/
inductive HostByte where
  | ok (b : Byte)
  | poisoned
  | late
  deriving DecidableEq, Repr

/-- The host bytes a step reads, by IOVA. A byte that is not listed is answered with Unsupported Request. -/
abbrev HostView := List (Nat × HostByte)

/-- The function an access comes through (R482). -/
inductive Via where
  | pf0
  | vf (n : Nat)
  deriving DecidableEq, Repr

/-- A mailbox: that of GLB, or that of a context window, reached through the PF0 view or a VF (R482, R489). -/
inductive Mbx where
  | glb
  | ctx (n : Nat) (via : Via)
  deriving DecidableEq, Repr

/-- The resets of R110 that reach every function. -/
inductive HostResetKind where
  | perst
  | hot
  | linkDown
  deriving DecidableEq, Repr

/-- A self-timed island: the register block number of Table 18-1 and the unit index within the block (R462). -/
structure Island where
  blk : Nat
  unit : Nat
  deriving DecidableEq, Repr

/-- A source or unit that a mismatch or hard fault names (R364, R366): physical column, or the VXU. -/
inductive FaultSite where
  | column (j : Nat)
  | vxu
  deriving DecidableEq, Repr

/-- The outcome of the checks of one operation: the kind of R371, the column or VXU, and for a parity error of the operand
path the granule in transit (R139). -/
structure CheckFault where
  kind : Nat
  site : FaultSite
  addr : Nat
  deriving DecidableEq, Repr

/-- A PTP message as received (R160 to R163). Fields that a message type does not carry are 0. -/
structure PtpMsg where
  clockId : BitVec 64
  portNum : BitVec 16
  seqId : BitVec 16
  twoStep : Bool
  correction : BitVec 64
  seconds : BitVec 48
  nanos : BitVec 32
  reqId : BitVec 64
  reqPort : BitVec 16
  gmId : BitVec 64
  clockQuality : BitVec 32
  timeSource : BitVec 8
  utcOffset : BitVec 16
  utcValid : Bool
  steps : BitVec 16
  prio1 : BitVec 8
  prio2 : BitVec 8
  logInterval : BitVec 8
  deriving DecidableEq, Repr

/-- A CSI-2 packet (R184 to R186): short packets are the frame start and frame end rows. -/
structure CsiPacket where
  vc : Nat
  dt : Nat
  headerBad : Bool
  crcBad : Bool
  payload : List Byte
  deriving DecidableEq, Repr

/-- An RTP packet of a stream entry (R190 to R192), after UDP matching on port and SSRC. -/
structure RtpPacket where
  port : Nat
  udpPort : Nat
  ssrc : BitVec 32
  seqExt : BitVec 32
  rtpTime : BitVec 32
  marker : Bool
  ext : Option (Nat × BitVec 64)
  segs : List (Nat × Nat × List Byte)
  deriving DecidableEq, Repr

/-- The supplies and conditions of cause 0x0F (Table 16-3). -/
inductive OutOfRange where
  | vddCore
  | vddSram
  | vddAon
  | refclk
  | junction
  deriving DecidableEq, Repr

/-- A remote memory operation of CLASS 3 (R418). -/
inductive PeerOp where
  | put (bytes : List Byte)
  | get (len : Nat)
  | atomicAdd (w64 : Bool) (v : BitVec 64)
  | atomicMax (w64 sgn : Bool) (v : BitVec 64)
  deriving DecidableEq, Repr

/-- What an acknowledgement returns (R418, R423). -/
inductive PeerAck where
  | done (bytes : List Byte)
  | refused
  | poison (addr : Nat)
  | tier (failed : Bool) (tier : Nat) (addr : Nat)
  deriving DecidableEq, Repr

/-- The identity frame payload of Table 15-4. -/
structure Identity where
  devId : Nat
  weight : Nat
  topo : Nat
  width : Nat
  members : BitVec 16
  totalW : Nat
  witness : Bool
  sleepEn : Bool
  port : Nat
  laneMap : BitVec 4
  reach : BitVec 16
  deriving DecidableEq, Repr

/-- A quiet token (R426): the lap, its leader and the mark. -/
structure QuietTok where
  leader : Nat
  commit : Bool
  veto : Bool
  deriving DecidableEq, Repr

/-- A CLASS 9 message (R457, R458). -/
inductive SafetyMsg where
  | outTime (channel : Nat) (prom t : BitVec 64)
  | frameBytes (channel : Nat) (prom : BitVec 64) (bytes : List Byte)
  | mirrorSlot (stream slot : Nat) (bytes : List Byte)
  | consumed (stream slot : Nat)
  deriving DecidableEq, Repr

/-- One remote place query (R343, R344), under the requester's own tag. -/
structure RemoteQuery where
  indexId : BitVec 32
  shard : Nat
  requester : Nat
  tag : Nat
  cbCrc : BitVec 32
  qform : Nat
  k : Nat
  ef : Nat
  xmax : Nat
  nprobe : Nat
  body : List Byte
  deriving DecidableEq, Repr

/-- One result of a query: distance, global ID, tag. -/
structure Hit where
  dist : Nat
  gid : Nat
  tag : Nat
  deriving DecidableEq, Repr

/-- A shard's reply to one query (R344): its epoch, its list and TRUNC, or a refusal, for CB_CRC or for another reason. -/
inductive ShardReply where
  | list (epoch : BitVec 32) (hits : List Hit) (trunc : Bool)
  | refused (cb : Bool)
  deriving DecidableEq, Repr

/-- The boot image as the CMC reads it from the flash: image bytes of copies A and B and the workbook files (R520). -/
structure Flash where
  imageA : List Byte
  imageB : List Byte
  files : List (Nat × List Byte)
  deriving DecidableEq, Repr

/-- The commands, in the order of opcode_table.json. -/
inductive Instr where
  -- contexts and queues
  | submissionDoorbell (ctx off size : Nat) (v : W32)
  | completionDoorbell (ctx off size : Nat) (v : W32)
  | descriptorFetch (ctx : Nat) (r : PcieReply)
  | msixModerationTimer (ctx : Nat)
  -- opcodes of Table 03-6; `req` names a request that DESCRIPTOR_FETCH handed on
  | loadWb (req : Nat) (first second : HostView)
  | unloadWb (req : Nat)
  | admitEntry (req : Nat)
  | revoke (req : Nat)
  | run (req : Nat)
  | copy (req : Nat) (h : HostView)
  | solve (req : Nat) (h : HostView)
  | search (req : Nat) (h : HostView)
  | insert (req : Nat) (h : HostView)
  | delete (req : Nat) (h : HostView)
  | publishEpoch (req : Nat)
  | mapCommit (req : Nat)
  | windowQuery (req : Nat)
  | counterDump (req : Nat)
  | streamAttach (req : Nat)
  | streamDetach (req : Nat)
  -- aborts, purges, resets
  | ctxAbort (ctx : Nat)
  | abortDone (ctx : Nat)
  | partitionPurge (parts : BitVec 16)
  | devicePurge
  | purgeDone (part : Option Nat)
  | functionLevelReset (fn : Nat)
  | hostReset (kind : HostResetKind)
  | orphanQuiesceDone (fn : Nat)
  -- registers and mailboxes
  | ctxUpdate (ctx : Nat) (via : Via)
  | glbUpdate (blocks : BitVec 18)
  | blockStrobeApply (block : Nat)
  | registerWrite (via : Via) (off size : Nat) (v : W32)
  | annRdDataRead (via : Via)
  | deviceIdRead (m : Mbx)
  | tbRead (m : Mbx) (n : Nat)
  | syncInStampRead (m : Mbx) (n : Nat)
  | tbOffsetRead (m : Mbx) (n : Nat)
  | trigEdgeRead (m : Mbx) (t : Nat)
  | tbSet (m : Mbx) (n : Nat) (v : W64)
  | tbStep (m : Mbx) (n : Nat) (v : W64)
  | tbPreset (m : Mbx) (n : Nat) (v : W64)
  | trigWindowWrite (m : Mbx) (t : Nat) (start stop : W64)
  | gmFilterWrite (m : Mbx) (slot : Nat) (id : BitVec 64) (port : BitVec 16)
  | i3cTransfer (m : Mbx) (p : Nat) (d0 d2 d3 : W32)
  | i3cTransferDone (p : Nat) (nack : Bool) (bytes : List Byte)
  | i3cResultRead (m : Mbx) (p : Nat)
  | flagSnapshotRead (m : Mbx) (n : Nat)
  | counterRead (m : Mbx) (n : Nat)
  | counterWrite (m : Mbx) (n : Nat) (v : W64)
  | mbRegisterRead (m : Mbx) (off : Nat)
  -- calendar unit
  | entryRelease (slot : Nat)
  | runEligible (run : Nat)
  | aperiodicRelease (req : Nat)
  | runComplete (run : Nat)
  | deadlineWatchdogExpiry (run : Nat)
  | orbitBoundary (part : Nat)
  | readmissionDone
  | pwrCapHostWrite (level : BitVec 2)
  -- wear, sparing, maintenance
  | rateMonitorBelowFloor (i : Island)
  | unitBelowFloor1ms (i : Island)
  | canarySample (i : Island) (measured predicted : Nat)
  | wearWindowEnd
  | canaryStall (i : Island)
  | eclipseStep (part : Nat)
  | scrubStep (part tier granules : Nat)
  | selfTestStep (part : Nat) (failed : Bool) (reproduced : List Island)
  -- memory
  | moverStep (tmv : Nat)
  | t2BudgetExpiry (run addr : Nat)
  | t3BudgetExpiry (tag : Nat)
  | t3ReadCompletion (tag : Nat) (r : PcieReply)
  -- sequencer: stream q of array a runs its next instruction
  | nop (a q : Nat)
  | endRun (a q : Nat)
  | yield (a q : Nat)
  | br (a q : Nat)
  | brFlag (a q : Nat)
  | brAcmp (a q : Nat)
  | loop (a q : Nat)
  | checkpoint (a q : Nat)
  | rollback (a q : Nat)
  | stamp (a q : Nat)
  | event (a q : Nat)
  | fence (a q : Nat)
  | aset (a q : Nat)
  | aadd (a q : Nat)
  | asub (a q : Nat)
  | aaddi (a q : Nat)
  | amuli (a q : Nat)
  | aand (a q : Nat)
  | aor (a q : Nat)
  | ashift (a q : Nat)
  | alc (a q : Nat)
  | ald (a q : Nat) (h : HostView)
  | ast (a q : Nat)
  | flagRead (a q : Nat)
  | mma (a q : Nat)
  | accLd (a q : Nat)
  | accSt (a q : Nat)
  | vfp (a q : Nat)
  | vint (a q : Nat)
  | vcmp (a q : Nat)
  | vsel (a q : Nat)
  | vcvt (a q : Nat)
  | vreq (a q : Nat)
  | vred (a q : Nat)
  | vmov (a q : Nat)
  | move (a q : Nat) (h : HostView)
  | put (a q : Nat)
  | get (a q : Nat)
  | atomicAdd (a q : Nat)
  | atomicMax (a q : Nat)
  | flagSet (a q : Nat)
  | waitFlag (a q : Nat)
  | waitFlags (a q : Nat)
  | barrier (a q : Nat)
  | flagWaitSatisfied (a q : Nat)
  | barrierRelease (tree : Nat)
  | seqOperationComplete (a q idx : Nat) (fault : Option CheckFault)
  -- vision and map tasks
  | rwuBand (u : Nat) (ue : Bool)
  | pyrBand (u : Nat) (ue : Bool)
  | fduBand (u : Nat) (ue : Bool)
  | sduBand (u : Nat) (ue : Bool)
  | ofuBand (u : Nat) (ue : Bool)
  | renderLm (island : Nat) (ue : Bool)
  | renderVox (island : Nat) (ue : Bool)
  | liftVox (island : Nat) (ue : Bool)
  | liftFeat (island : Nat) (ue : Bool)
  -- lattice and search
  | slxWave (group : Nat) (h : HostView) (faults : List (Nat × Nat))
  | pseWalkerStep (walker : Nat) (h : HostView) (ue : List (Nat × Nat))
  | shardWaitExpiry (run : Nat)
  | indexChangeApply (slot : Nat) (h : HostView)
  | indexEpochRetire (slot : Nat)
  | indexRebuildStep (slot : Nat)
  | pseIndexRebuild (slot : Nat)
  | mapCommitApply
  | mapEpochRetire
  | mapRebuildStep
  | mapJournalClr
  -- Orrery
  | propagationStep (track : Nat)
  | visualCorrection (run track src hdr : Nat) (inputs : List (Nat × Nat)) (storeUe : Bool) (rollbackNs : Nat)
  | speculativeFrameStart (track run seg : Nat)
  | poseOutput (run track start : Nat) (jobs : List Nat) (storeUe : Bool)
  | sourceExtrapTimeout (track src : Nat)
  | coastTimeout (track : Nat)
  | windowQueryServe (req : Nat)
  -- time and signal chain
  | trigPulse (t : Nat)
  | syncInEdge (rising : Bool)
  | sgcSync
  | sgcGridOutput (lane : Nat) (bits : List Bool)
  | rxSync (slot : Nat) (m : PtpMsg)
  | rxFollowUp (slot : Nat) (m : PtpMsg)
  | rxAnnounce (slot : Nat) (m : PtpMsg)
  | rxDelayReq (slot : Nat) (m : PtpMsg)
  | rxDelayResp (slot : Nat) (m : PtpMsg)
  | rxPdelayReq (slot : Nat) (m : PtpMsg)
  | rxPdelayResp (slot : Nat) (m : PtpMsg)
  | rxPdelayRespFollowUp (slot : Nat) (m : PtpMsg)
  | rxPtpDropped (port : Nat)
  | ptpSyncTxTimer (slot : Nat)
  | ptpAnnounceTxTimer (slot : Nat)
  | ptpDelayReqTxTimer (slot : Nat)
  | syncTimeout (slot : Nat)
  | announceTimeout (slot : Nat)
  -- ingest
  | csiLp11Detect (p : Nat)
  | csiDiscoveryDone (p : Nat) (ident : Option (BitVec 48 × Byte × Byte))
  | csiFrameStart (p vc : Nat)
  | csiPacket (p : Nat) (k : CsiPacket)
  | csiFrameEnd (p vc : Nat)
  | csiStrobeEdge (p : Nat) (rising : Bool)
  | csiLinkLossTimeout (p : Nat)
  | streamLossTimeout (stream : Nat)
  | ethStreamPacket (k : RtpPacket)
  | ethLinkDown (e : Nat)
  | spiDrdyEdge (i : Nat) (rising : Bool)
  | spiPollTimer (i : Nat)
  | spiTransactionDone (i : Nat) (bytes : List Byte)
  | encoderEdge (i : Nat) (a b : Bool)
  | encoderIndex (i : Nat)
  | encoderLatchTimer (i : Nat)
  | encoderFault (i : Nat)
  | sdiClockLoss (c : Nat)
  | sdiDataStuck (c : Nat)
  | sdiRecovery (c : Nat)
  | slotCloseTimeout (stream : Nat)
  -- safety
  | twinPoseCompare (channel : Nat)
  | safeStateReleaseFrame (channel : Nat)
  | safePulseEdge
  | safeReadbackCheck (a b : Bool)
  | safeClrEdge (rising : Bool)
  | clearanceTestDone (passed : Bool)
  | xcmpPartnerTimeout (channel : Nat)
  | safetyFlit (src : Nat) (m : SafetyMsg)
  | supplyOutOfRange (c : OutOfRange)
  | safLockstepMismatch
  | cfgParityScan (off : Nat)
  -- annals
  | annalsRecordWrite
  | pwrFailFall
  | powerFailFinalRecord
  | powerRestored
  | getInfo
  | read (off count : Nat)
  | readSpareMap
  | cmcUnresponsive
  -- power, boot, fuses
  | porNAssert
  | porNRelease (fuseEn : Bool)
  | supplyPowerGood (flash : Flash)
  | supplyGoodTimeout
  | pwrReqIdle
  | pwrReqStandby
  | standbyWake (flash : Flash)
  | domainPowerUpDone (d : Nat) (failed : List Island)
  | thermalSample (tj : Int)
  | thermalHwRaise
  | thermalHwLower
  | fuseProgram
  | fuseProgramDone (readback : W32)
  | trstNReset
  | jtagChallenge (signed : Bool)
  -- counters
  | pmcFreeze (freeze : Bool)
  | counterDumpTimer (ctx : Nat)
  -- peer link
  | peerMemoryRequest (src off tag : Nat) (op : PeerOp)
  | peerAcknowledgement (tag : Nat) (a : PeerAck)
  | flagRelay (src flag : Nat)
  | searchQuery (q : RemoteQuery)
  | searchReply (tag shard : Nat) (r : ShardReply)
  | identityFrame (port : Nat) (i : Identity)
  | portTrained (port : Nat) (laneMap : BitVec 4)
  | replayRequest (port : Nat) (seq : BitVec 12)
  | portNoFlitTimeout (port : Nat)
  | laneLockLoss (port lane : Nat)
  | groupStateTimer
  | heal
  | quietVoteTimer
  | quietToken (t : QuietTok)
  | vetoMessage
  | wakePattern (port : Nat)
  | plkSleepWake
  -- rows added last in the table
  | leapRelease (slot : Nat)
  | pcieCompletionTimeout (tag : Option Nat) (ctx : Nat)
  | pcieLinkUp
  | ethFrameDropped (e : Nat)
  | cmcCapRequest (level : BitVec 2)
  deriving DecidableEq, Repr

end Sys2Proof
end

