-- ==== Sys2Proof/Machine/Util.lean ====
section
/-! DEFINITION. Lists, sparse tables in one canonical form, little-endian bytes, signed numbers, checksums. -/

namespace Sys2Proof.Machine

/-! ### Sparse tables

A table from Nat to α as a list of pairs with strictly rising keys, in which no entry equals the value that an
unlisted key reads as. Equal tables are equal lists. -/

abbrev SMap (α : Type) := List (Nat × α)

/-- The value of key `k`; an unlisted key reads `d`. -/
def SMap.read {α : Type} (d : α) (m : SMap α) (k : Nat) : α :=
  match m with
  | [] => d
  | (k', v) :: r => if k' = k then v else SMap.read d r k

/-- Remove key `k`. -/
def SMap.erase {α : Type} (m : SMap α) (k : Nat) : SMap α :=
  m.filter (fun p => decide (p.1 ≠ k))

/-- Put `v` at key `k` of a list with rising keys. -/
def SMap.put {α : Type} (m : SMap α) (k : Nat) (v : α) : SMap α :=
  match m with
  | [] => [(k, v)]
  | (k', v') :: r =>
    if k < k' then (k, v) :: (k', v') :: r
    else if k = k' then (k, v) :: r
    else (k', v') :: SMap.put r k v

/-- Write `v` at `k`: the entry goes away when `v` is what an unlisted key reads as. -/
def SMap.write {α : Type} [DecidableEq α] (d : α) (m : SMap α) (k : Nat) (v : α) : SMap α :=
  if v = d then SMap.erase m k else SMap.put m k v

/-- Keys of a list of pairs rise strictly from above `lo`. -/
def SMap.risingFrom {α : Type} (lo : Option Nat) (m : SMap α) : Bool :=
  match m with
  | [] => true
  | (k, _) :: r => (match lo with | none => true | some l => decide (l < k)) && SMap.risingFrom (some k) r

/-- The canonical form with the same unlisted value `d` everywhere. -/
def SMap.canonical {α : Type} [DecidableEq α] (d : α) (m : SMap α) : Bool :=
  SMap.risingFrom none m && m.all (fun p => decide (p.2 ≠ d))

/-! ### Lists -/

/-- Replace element `i` by `f` of it. -/
def modifyAt {α : Type} (l : List α) (i : Nat) (f : α → α) : List α :=
  match l, i with
  | [], _ => []
  | x :: r, 0 => f x :: r
  | x :: r, n + 1 => x :: modifyAt r n f

/-- Insert `x` in front of the first element that does not come before it (`before y x`). -/
def insertOrd {α : Type} (before : α → α → Bool) (x : α) (l : List α) : List α :=
  match l with
  | [] => [x]
  | y :: r => if before x y then x :: y :: r else y :: insertOrd before x r

/-- Stable sort: an element stands after every earlier element that is not after it. -/
def sortBy {α : Type} (before : α → α → Bool) (l : List α) : List α :=
  l.foldl (fun acc x => insertOrd before x acc) []

/-- The first element that no other comes before. -/
def minBy {α : Type} (before : α → α → Bool) (l : List α) : Option α :=
  l.foldl (fun b x => match b with | none => some x | some y => if before x y then some x else some y) none

/-- The numbers 0 to n − 1 for which `p` holds. -/
def below (n : Nat) (p : Nat → Bool) : List Nat := (List.range n).filter p

def sumBy {α : Type} (f : α → Nat) (l : List α) : Nat := l.foldl (fun a x => a + f x) 0

def maxBy {α : Type} (f : α → Nat) (l : List α) : Nat := l.foldl (fun a x => max a (f x)) 0

/-- Drop duplicates, keeping first occurrences. -/
def dedup {α : Type} [DecidableEq α] (l : List α) : List α :=
  l.foldl (fun acc x => if x ∈ acc then acc else acc ++ [x]) []

/-! ### Bits and bytes -/

/-- Bits hi to lo of a number. -/
def bitsOf (v hi lo : Nat) : Nat := (v / 2 ^ lo) % 2 ^ (hi + 1 - lo)

/-- Bit `i` of a number. -/
def bitOf (v i : Nat) : Bool := decide ((v / 2 ^ i) % 2 = 1)

/-- `v` with bits hi to lo replaced by `x`. -/
def putBits (v hi lo x : Nat) : Nat :=
  v - bitsOf v hi lo * 2 ^ lo + (x % 2 ^ (hi + 1 - lo)) * 2 ^ lo

def b2n (b : Bool) : Nat := if b then 1 else 0

/-- Number of ones among bits 0 to n − 1. -/
def popcount (v n : Nat) : Nat := (below n (bitOf v)).length

/-- The indices of the ones among bits 0 to n − 1. -/
def onesOf (v n : Nat) : List Nat := below n (bitOf v)

/-- Two's complement value of the low `w` bits. -/
def toSigned (w v : Nat) : Int :=
  let x := v % 2 ^ w
  if 2 * x < 2 ^ w then (x : Int) else (x : Int) - (2 ^ w : Nat)

/-- The low `w` bits of an integer in two's complement. -/
def ofSigned (w : Nat) (x : Int) : Nat := (x % (2 ^ w : Nat)).toNat

/-- Clamp to the range of a signed number of `w` bits. -/
def satSigned (w : Nat) (x : Int) : Int :=
  let m : Int := (2 ^ (w - 1) : Nat)
  if x > m - 1 then m - 1 else if x < -m then -m else x

/-- Clamp to the range of an unsigned number of `w` bits. -/
def satUnsigned (w : Nat) (x : Int) : Int :=
  if x < 0 then 0 else if x > (2 ^ w : Nat) - 1 then (2 ^ w : Nat) - 1 else x

/-- Little-endian value of bytes (R6). -/
def leNat (bs : List Byte) : Nat := bs.foldr (fun b a => b.toNat + 256 * a) 0

/-- `n` little-endian bytes of a number (R6). -/
def leBytes (n v : Nat) : List Byte :=
  match n with
  | 0 => []
  | m + 1 => BitVec.ofNat 8 v :: leBytes m (v / 256)

/-- Bytes `off` to `off + n − 1` of a list; bytes past its end read 0. -/
def slice (bs : List Byte) (off n : Nat) : List Byte :=
  let t := (bs.drop off).take n
  t ++ List.replicate (n - t.length) 0

/-- `n`-byte little-endian field at byte `off`. -/
def fieldAt (bs : List Byte) (off n : Nat) : Nat := leNat (slice bs off n)

/-- `bs` with the bytes of `x` put at `off`; short lists are filled with zeros up to there. -/
def putSlice (bs : List Byte) (off : Nat) (x : List Byte) : List Byte :=
  let pre := bs.take off
  pre ++ List.replicate (off - pre.length) 0 ++ x ++ bs.drop (off + x.length)

/-- Round up to a multiple of `m`. -/
def roundUp (x m : Nat) : Nat := if m = 0 then x else ((x + m - 1) / m) * m

/-- Quotient rounded up. -/
def ceilDiv (x y : Nat) : Nat := if y = 0 then 0 else (x + y - 1) / y

/-- Base-2 logarithm of a power of two. -/
def log2Nat (n : Nat) : Nat := Nat.log2 n

/-- `n` is a power of two. -/
def isPow2 (n : Nat) : Bool := decide (n ≠ 0 ∧ 2 ^ Nat.log2 n = n)

/-- Floor of the square root of a number below 2^128 (a bit at a time from the top). -/
def isqrtAux (n : Nat) (k : Nat) (r : Nat) : Nat :=
  match k with
  | 0 => r
  | j + 1 => let t := r + 2 ^ j; isqrtAux n j (if t * t ≤ n then t else r)

def isqrt (n : Nat) : Nat := isqrtAux n (Nat.log2 n / 2 + 1) 0

/-! ### Checksums -/

/-- One byte of a reflected CRC of width `w` with reflected polynomial `p`. -/
def crcByte (p : Nat) (c b : Nat) : Nat :=
  (List.range 8).foldl (fun c _ => if c % 2 = 1 then Nat.xor (c / 2) p else c / 2) (Nat.xor c b)

/-- CRC-32C (Castagnoli): reflected polynomial 0x82F63B78, initial value and final XOR all ones. -/
def crc32c (bs : List Byte) : Nat :=
  Nat.xor (bs.foldl (fun c b => crcByte 0x82F63B78 c b.toNat) 0xFFFFFFFF) 0xFFFFFFFF

end Sys2Proof.Machine
end

