-- ==== Sys2Proof/Config.lean ====
section
/-! DEFINITION. The values that the spec leaves open. Each is a constant without a body, applied to a counter of the
state that every use advances, or to the operands: nothing can be proved of its value (DESIGN CHOICE, safe, log entry 7). -/

namespace Sys2Proof.Config

/-- VXU results that no rule states bit by bit, by the function and the lane's operands: EXP2, LOG2, TANH and SIGMOID, of
which R361 gives only a 2 ulp bound; shifts by 32 or more; conversions between integer formats; the bits of a lane above a
narrow result. The same for the same operands (R368). -/
opaque vxuWord : Nat → List Nat → BitVec 32
/-- Contents that the spec calls undefined (R203, R233, R314, R376, R394, R397, R406). -/
opaque undefByte : Nat → BitVec 8
/-- Coefficients of a preset decimation filter (R211 gives only the window and its attenuation). -/
opaque firTap : Nat → Nat → BitVec 24
/-- Coefficients of the resampler's polyphase kernel at a phase that the modulator's own clock decides (R213): the number
of the output since reset, the tap. -/
opaque kernelTap : Nat → Nat → BitVec 24
/-- Rate that the servo of R161 sets. -/
opaque servoRate : Nat → BitVec 32
/-- Numbers of the Orrery's FP32 arithmetic, whose order of operations R247 leaves open: the operation, everything it
works on, the number of the result. The same on every island and device for the same inputs (R247). -/
opaque orrery : Nat → List Nat → Nat → BitVec 32
/-- Numbers of the vision engines whose arithmetic no rule states bit by bit: the operation, everything it works on, the
number of the result. The same on every unit and device for the same inputs (R222). -/
opaque vision : Nat → List Nat → Nat → BitVec 32
/-- Bytes of the annals header region, whose layout no rule states (R472). -/
opaque headerByte : Nat → BitVec 8
/-- Timing of the physical layers and other measured figures that a frame carries. -/
opaque measured : Nat → BitVec 64
/-- An outcome of a check that physical trim values decide (R525). -/
opaque trimWord : Nat → BitVec 32

/-- Choices of place search that rest on a NaN, of which no rule states the result, by what they are made from. -/
opaque placeWord : List Nat → BitVec 32

/-- Reserve time in ns that scrubbing and self-test need (R67), which rests on rates that no rule states. -/
opaque hardMin : Nat → BitVec 24

/-- Longest step in ns of a maintenance request (R57), which no rule states: opcode, length of its block, cap level. -/
opaque maintStep : Nat → Nat → Nat → BitVec 32

/-- Resource ID of the unit of that step, by opcode and length. -/
opaque maintUnit : Nat → Nat → BitVec 12

/-- Row repair resources that a DRAM stack reports at boot (Table 17-1). -/
opaque dramSpares : Nat → BitVec 16

/-- Safe-state cause of a reported fault for which Table 16-3 has no row, by its STATUS and SUBCODE. -/
opaque safCause : Nat → Nat → BitVec 8

end Sys2Proof.Config
end

