-- ==== Sys2Proof/Machine/RegMap.lean ====
section
/-! DEFINITION. The register map of the TSV-4824: the place (BAR0 offset of PF0), strides, fields, access
types and stated reset values of every register of R480 to R482 and of the register tables of each chapter.
Written from the field tables of the spec; the context window registers stand at their PF0 global view offsets (R82). -/

namespace Sys2Proof.Machine

/-- Access types of Table 00-2 (R11). -/
inductive Acc where
  | rw | ro | w1c | wm | sh | mb
  deriving DecidableEq, Repr

/-- A field of a register: offset of the register with indices 0, the strides of its two indices, its top and bottom bit. -/
structure Fld where
  base : Nat
  s1 : Nat
  s2 : Nat
  hi : Nat
  lo : Nat
  deriving DecidableEq, Repr

/-- BAR0 offset of the register of `f` at indices `i`, `j`. -/
def Fld.off (f : Fld) (i j : Nat) : Nat := f.base + f.s1 * i + f.s2 * j

/-- A field with its access type and its stated reset value. -/
structure FldRow where
  hi : Nat
  lo : Nat
  acc : Acc
  rst : Nat
  deriving DecidableEq, Repr

/-- A register: its place, the counts of its two indices, its fields. -/
structure RegRow where
  name : String
  base : Nat
  s1 : Nat
  n1 : Nat
  s2 : Nat
  n2 : Nat
  flds : List FldRow
  deriving DecidableEq, Repr

namespace R

def CAL_STATUS.reg : Fld := ⟨0x10000, 0x0, 0x0, 31, 0⟩
def CAL_STATUS.LEAP_CNT : Fld := ⟨0x10000, 0x0, 0x0, 26, 16⟩
def CAL_STATUS.CAP_CHG : Fld := ⟨0x10000, 0x0, 0x0, 7, 7⟩
def CAL_STATUS.SHARE_ERR : Fld := ⟨0x10000, 0x0, 0x0, 6, 6⟩
def CAL_STATUS.READMIT_PEND : Fld := ⟨0x10000, 0x0, 0x0, 5, 5⟩
def CAL_STATUS.READMIT : Fld := ⟨0x10000, 0x0, 0x0, 4, 4⟩
def CAL_STATUS.CAP_PEND : Fld := ⟨0x10000, 0x0, 0x0, 3, 2⟩
def CAL_STATUS.CAP_NOW : Fld := ⟨0x10000, 0x0, 0x0, 1, 0⟩
def CAL_BASE_PWR.reg : Fld := ⟨0x10004, 0x0, 0x0, 31, 0⟩
def CAL_BASE_PWR.BASE3 : Fld := ⟨0x10004, 0x0, 0x0, 31, 24⟩
def CAL_BASE_PWR.BASE2 : Fld := ⟨0x10004, 0x0, 0x0, 23, 16⟩
def CAL_BASE_PWR.BASE1 : Fld := ⟨0x10004, 0x0, 0x0, 15, 8⟩
def CAL_BASE_PWR.BASE0 : Fld := ⟨0x10004, 0x0, 0x0, 7, 0⟩
def CAL_PCFG.reg : Fld := ⟨0x10100, 0x40, 0x0, 31, 0⟩
def CAL_PCFG.AGE_LIMIT : Fld := ⟨0x10100, 0x40, 0x0, 25, 16⟩
def CAL_PCFG.RESERVE : Fld := ⟨0x10100, 0x40, 0x0, 9, 0⟩
def CAL_PENERGY.reg : Fld := ⟨0x10104, 0x40, 0x0, 31, 0⟩
def CAL_PENERGY.SHARE : Fld := ⟨0x10104, 0x40, 0x0, 10, 0⟩
def CAL_PSTAT.reg : Fld := ⟨0x10108, 0x40, 0x0, 31, 0⟩
def CAL_PSTAT.RES_RAISED : Fld := ⟨0x10108, 0x40, 0x0, 20, 20⟩
def CAL_PSTAT.ENTRIES : Fld := ⟨0x10108, 0x40, 0x0, 10, 0⟩
def CTX_CAL.reg : Fld := ⟨0x200060, 0x400, 0x0, 31, 0⟩
def CTX_CAL.SAFETY : Fld := ⟨0x200060, 0x400, 0x0, 8, 8⟩
def CTX_CAL.PRIO : Fld := ⟨0x200060, 0x400, 0x0, 3, 0⟩
def CTX_CTRL.reg : Fld := ⟨0x200000, 0x400, 0x0, 31, 0⟩
def CTX_CTRL.TB : Fld := ⟨0x200000, 0x400, 0x0, 5, 4⟩
def CTX_CTRL.ATTACH_EN : Fld := ⟨0x200000, 0x400, 0x0, 3, 3⟩
def CTX_CTRL.SEQ_CHK : Fld := ⟨0x200000, 0x400, 0x0, 2, 2⟩
def CTX_CTRL.CHK_EN : Fld := ⟨0x200000, 0x400, 0x0, 1, 1⟩
def CTX_CTRL.EN : Fld := ⟨0x200000, 0x400, 0x0, 0, 0⟩
def CTX_STATUS.reg : Fld := ⟨0x200004, 0x400, 0x0, 31, 0⟩
def CTX_STATUS.INFLIGHT : Fld := ⟨0x200004, 0x400, 0x0, 25, 16⟩
def CTX_STATUS.HOST_LOST : Fld := ⟨0x200004, 0x400, 0x0, 6, 6⟩
def CTX_STATUS.CQ_OVF : Fld := ⟨0x200004, 0x400, 0x0, 5, 5⟩
def CTX_STATUS.ORPHAN : Fld := ⟨0x200004, 0x400, 0x0, 4, 4⟩
def CTX_STATUS.CQ_FULL : Fld := ⟨0x200004, 0x400, 0x0, 3, 3⟩
def CTX_STATUS.ABORT_DONE : Fld := ⟨0x200004, 0x400, 0x0, 2, 2⟩
def CTX_STATUS.FETCH_STOP : Fld := ⟨0x200004, 0x400, 0x0, 1, 1⟩
def CTX_STATUS.ENABLED : Fld := ⟨0x200004, 0x400, 0x0, 0, 0⟩
def CTX_ERR.reg : Fld := ⟨0x200008, 0x400, 0x0, 31, 0⟩
def CTX_ERR.FETCH_ERR : Fld := ⟨0x200008, 0x400, 0x0, 4, 4⟩
def CTX_ERR.ABORT_DENIED : Fld := ⟨0x200008, 0x400, 0x0, 3, 3⟩
def CTX_ERR.DB_DISABLED : Fld := ⟨0x200008, 0x400, 0x0, 2, 2⟩
def CTX_ERR.DB_RANGE : Fld := ⟨0x200008, 0x400, 0x0, 1, 1⟩
def CTX_ERR.DB_SIZE : Fld := ⟨0x200008, 0x400, 0x0, 0, 0⟩
def CTX_ABORT.reg : Fld := ⟨0x20000C, 0x400, 0x0, 31, 0⟩
def CTX_ABORT.ABORT : Fld := ⟨0x20000C, 0x400, 0x0, 0, 0⟩
def SQ_BASE_LO.reg : Fld := ⟨0x200010, 0x400, 0x0, 31, 0⟩
def SQ_BASE_LO.ADDR : Fld := ⟨0x200010, 0x400, 0x0, 31, 12⟩
def SQ_BASE_HI.reg : Fld := ⟨0x200014, 0x400, 0x0, 31, 0⟩
def SQ_BASE_HI.ADDR : Fld := ⟨0x200014, 0x400, 0x0, 31, 0⟩
def SQ_CFG.reg : Fld := ⟨0x200018, 0x400, 0x0, 31, 0⟩
def SQ_CFG.LOG2 : Fld := ⟨0x200018, 0x400, 0x0, 4, 0⟩
def SQ_HEAD.reg : Fld := ⟨0x20001C, 0x400, 0x0, 31, 0⟩
def SQ_HEAD.HEAD : Fld := ⟨0x20001C, 0x400, 0x0, 15, 0⟩
def CQ_BASE_LO.reg : Fld := ⟨0x200020, 0x400, 0x0, 31, 0⟩
def CQ_BASE_LO.ADDR : Fld := ⟨0x200020, 0x400, 0x0, 31, 12⟩
def CQ_BASE_HI.reg : Fld := ⟨0x200024, 0x400, 0x0, 31, 0⟩
def CQ_BASE_HI.ADDR : Fld := ⟨0x200024, 0x400, 0x0, 31, 0⟩
def CQ_CFG.reg : Fld := ⟨0x200028, 0x400, 0x0, 31, 0⟩
def CQ_CFG.LOG2 : Fld := ⟨0x200028, 0x400, 0x0, 4, 0⟩
def CQ_TAIL.reg : Fld := ⟨0x20002C, 0x400, 0x0, 31, 0⟩
def CQ_TAIL.PHASE : Fld := ⟨0x20002C, 0x400, 0x0, 16, 16⟩
def CQ_TAIL.TAIL : Fld := ⟨0x20002C, 0x400, 0x0, 15, 0⟩
def CTX_MSIX.reg : Fld := ⟨0x200030, 0x400, 0x0, 31, 0⟩
def CTX_MSIX.IRQ_EN : Fld := ⟨0x200030, 0x400, 0x0, 31, 31⟩
def CTX_MSIX.TIMER : Fld := ⟨0x200030, 0x400, 0x0, 27, 16⟩
def CTX_MSIX.COUNT : Fld := ⟨0x200030, 0x400, 0x0, 15, 8⟩
def CTX_MSIX.VEC : Fld := ⟨0x200030, 0x400, 0x0, 5, 0⟩
def CTX_CQ_LOST.reg : Fld := ⟨0x200034, 0x400, 0x0, 31, 0⟩
def CTX_CQ_LOST.LOST : Fld := ⟨0x200034, 0x400, 0x0, 31, 0⟩
def CTX_FUNC.reg : Fld := ⟨0x200038, 0x400, 0x0, 31, 0⟩
def CTX_FUNC.VALID : Fld := ⟨0x200038, 0x400, 0x0, 31, 31⟩
def CTX_FUNC.FUNC : Fld := ⟨0x200038, 0x400, 0x0, 10, 6⟩
def CTX_FUNC.SLOT : Fld := ⟨0x200038, 0x400, 0x0, 5, 0⟩
def GLB_PURGE.reg : Fld := ⟨0x100, 0x0, 0x0, 31, 0⟩
def GLB_PURGE.DEVICE : Fld := ⟨0x100, 0x0, 0x0, 31, 31⟩
def GLB_PURGE.PART : Fld := ⟨0x100, 0x0, 0x0, 15, 0⟩
def GLB_PURGE_STAT.reg : Fld := ⟨0x104, 0x0, 0x0, 31, 0⟩
def GLB_PURGE_STAT.DENIED : Fld := ⟨0x104, 0x0, 0x0, 31, 31⟩
def GLB_PURGE_STAT.DEV_BUSY : Fld := ⟨0x104, 0x0, 0x0, 16, 16⟩
def GLB_PURGE_STAT.BUSY : Fld := ⟨0x104, 0x0, 0x0, 15, 0⟩
def MEM_STATUS.reg : Fld := ⟨0x70000, 0x0, 0x0, 31, 0⟩
def MEM_STATUS.TWIN_MISMATCH : Fld := ⟨0x70000, 0x0, 0x0, 5, 5⟩
def MEM_STATUS.TWIN_REPAIR : Fld := ⟨0x70000, 0x0, 0x0, 4, 4⟩
def MEM_STATUS.LT_FAIL : Fld := ⟨0x70000, 0x0, 0x0, 3, 3⟩
def MEM_STATUS.LT_LATE : Fld := ⟨0x70000, 0x0, 0x0, 2, 2⟩
def MEM_STATUS.UE_SEEN : Fld := ⟨0x70000, 0x0, 0x0, 1, 1⟩
def MEM_STATUS.CE_SEEN : Fld := ⟨0x70000, 0x0, 0x0, 0, 0⟩
def MEM_T3_BUDGET.reg : Fld := ⟨0x70004, 0x0, 0x0, 31, 0⟩
def MEM_T3_BUDGET.BUDGET_US : Fld := ⟨0x70004, 0x0, 0x0, 15, 0⟩
def MEM_ECC_T0.reg : Fld := ⟨0x70010, 0x0, 0x0, 31, 0⟩
def MEM_ECC_T0.UE : Fld := ⟨0x70010, 0x0, 0x0, 31, 16⟩
def MEM_ECC_T0.CE : Fld := ⟨0x70010, 0x0, 0x0, 15, 0⟩
def MEM_ECC_T1.reg : Fld := ⟨0x70014, 0x0, 0x0, 31, 0⟩
def MEM_ECC_T1.UE : Fld := ⟨0x70014, 0x0, 0x0, 31, 16⟩
def MEM_ECC_T1.CE : Fld := ⟨0x70014, 0x0, 0x0, 15, 0⟩
def MEM_ECC_T2.reg : Fld := ⟨0x70018, 0x0, 0x0, 31, 0⟩
def MEM_ECC_T2.UE : Fld := ⟨0x70018, 0x0, 0x0, 31, 16⟩
def MEM_ECC_T2.CE : Fld := ⟨0x70018, 0x0, 0x0, 15, 0⟩
def MEM_SCRUB_T01.reg : Fld := ⟨0x70020, 0x0, 0x0, 31, 0⟩
def MEM_SCRUB_T01.T1_PASSES : Fld := ⟨0x70020, 0x0, 0x0, 31, 16⟩
def MEM_SCRUB_T01.T0_PASSES : Fld := ⟨0x70020, 0x0, 0x0, 15, 0⟩
def MEM_SCRUB_T2.reg : Fld := ⟨0x70024, 0x0, 0x0, 31, 0⟩
def MEM_SCRUB_T2.SAFE_PASSES : Fld := ⟨0x70024, 0x0, 0x0, 31, 16⟩
def MEM_SCRUB_T2.FULL_PASSES : Fld := ⟨0x70024, 0x0, 0x0, 15, 0⟩
def MEM_ERR_LOG.reg : Fld := ⟨0x70030, 0x0, 0x0, 127, 0⟩
def MEM_ERR_LOG.TIME : Fld := ⟨0x70030, 0x0, 0x0, 127, 64⟩
def MEM_ERR_LOG.KIND : Fld := ⟨0x70030, 0x0, 0x0, 55, 52⟩
def MEM_ERR_LOG.TIER : Fld := ⟨0x70030, 0x0, 0x0, 51, 48⟩
def MEM_ERR_LOG.ADDR : Fld := ⟨0x70030, 0x0, 0x0, 47, 0⟩
def CTX_T3W_DA.reg : Fld := ⟨0x200080, 0x400, 0x10, 31, 0⟩
def CTX_T3W_DA.DA : Fld := ⟨0x200080, 0x400, 0x10, 31, 0⟩
def CTX_T3W_CFG.reg : Fld := ⟨0x200084, 0x400, 0x10, 31, 0⟩
def CTX_T3W_CFG.VALID : Fld := ⟨0x200084, 0x400, 0x10, 31, 31⟩
def CTX_T3W_CFG.WR : Fld := ⟨0x200084, 0x400, 0x10, 30, 30⟩
def CTX_T3W_CFG.RD : Fld := ⟨0x200084, 0x400, 0x10, 29, 29⟩
def CTX_T3W_CFG.SIZE : Fld := ⟨0x200084, 0x400, 0x10, 23, 0⟩
def CTX_T3W_IOVA_LO.reg : Fld := ⟨0x200088, 0x400, 0x10, 31, 0⟩
def CTX_T3W_IOVA_LO.IOVA : Fld := ⟨0x200088, 0x400, 0x10, 31, 12⟩
def CTX_T3W_IOVA_HI.reg : Fld := ⟨0x20008C, 0x400, 0x10, 31, 0⟩
def CTX_T3W_IOVA_HI.IOVA : Fld := ⟨0x20008C, 0x400, 0x10, 31, 0⟩
def TB_CFG.reg : Fld := ⟨0x20000, 0x40, 0x0, 31, 0⟩
def TB_CFG.EN : Fld := ⟨0x20000, 0x40, 0x0, 31, 31⟩
def TB_CFG.AUTO_SW : Fld := ⟨0x20000, 0x40, 0x0, 30, 30⟩
def TB_CFG.FORCE_SW : Fld := ⟨0x20000, 0x40, 0x0, 29, 29⟩
def TB_CFG.SW_THRESH : Fld := ⟨0x20000, 0x40, 0x0, 23, 16⟩
def TB_CFG.SHD_EN : Fld := ⟨0x20000, 0x40, 0x0, 11, 11⟩
def TB_CFG.SHD_SLOT : Fld := ⟨0x20000, 0x40, 0x0, 10, 8⟩
def TB_CFG.PRI_EN : Fld := ⟨0x20000, 0x40, 0x0, 7, 7⟩
def TB_CFG.PRI_SLOT : Fld := ⟨0x20000, 0x40, 0x0, 6, 4⟩
def TB_STATUS.reg : Fld := ⟨0x20004, 0x40, 0x0, 31, 0⟩
def TB_STATUS.IN_USE : Fld := ⟨0x20004, 0x40, 0x0, 7, 7⟩
def TB_STATUS.SHD_QUAL : Fld := ⟨0x20004, 0x40, 0x0, 6, 6⟩
def TB_STATUS.ACTIVE : Fld := ⟨0x20004, 0x40, 0x0, 5, 5⟩
def TB_STATUS.DISAGREE : Fld := ⟨0x20004, 0x40, 0x0, 4, 4⟩
def TB_STATUS.WR_DENIED : Fld := ⟨0x20004, 0x40, 0x0, 3, 3⟩
def TB_STATUS.STATE : Fld := ⟨0x20004, 0x40, 0x0, 1, 0⟩
def TB_RATE.reg : Fld := ⟨0x20008, 0x40, 0x0, 31, 0⟩
def TB_RATE.RATE : Fld := ⟨0x20008, 0x40, 0x0, 31, 0⟩
def PTP_SLOT.reg : Fld := ⟨0x20100, 0x10, 0x0, 31, 0⟩
def PTP_SLOT.EN : Fld := ⟨0x20100, 0x10, 0x0, 31, 31⟩
def PTP_SLOT.ROLE : Fld := ⟨0x20100, 0x10, 0x0, 30, 30⟩
def PTP_SLOT.PORT : Fld := ⟨0x20100, 0x10, 0x0, 29, 29⟩
def PTP_SLOT.ONE_STEP : Fld := ⟨0x20100, 0x10, 0x0, 28, 28⟩
def PTP_SLOT.PROFILE : Fld := ⟨0x20100, 0x10, 0x0, 27, 26⟩
def PTP_SLOT.TRANSPORT : Fld := ⟨0x20100, 0x10, 0x0, 25, 24⟩
def PTP_SLOT.DOMAIN : Fld := ⟨0x20100, 0x10, 0x0, 23, 16⟩
def PTP_SLOT.LOG_SYNC : Fld := ⟨0x20100, 0x10, 0x0, 11, 8⟩
def PTP_SLOT.TX_BASE : Fld := ⟨0x20100, 0x10, 0x0, 5, 4⟩
def PTP_SLOT_ANN.reg : Fld := ⟨0x20104, 0x10, 0x0, 31, 0⟩
def PTP_SLOT_ANN.LOG_ANN : Fld := ⟨0x20104, 0x10, 0x0, 31, 28⟩
def PTP_SLOT_ANN.ANN_TIMEOUT : Fld := ⟨0x20104, 0x10, 0x0, 27, 24⟩
def PTP_SLOT_ANN.LOG_DELAY : Fld := ⟨0x20104, 0x10, 0x0, 23, 20⟩
def PTP_SLOT_ANN.PRIORITY1 : Fld := ⟨0x20104, 0x10, 0x0, 15, 8⟩
def PTP_SLOT_ANN.PRIORITY2 : Fld := ⟨0x20104, 0x10, 0x0, 7, 0⟩
def TIM_UTC.reg : Fld := ⟨0x20180, 0x0, 0x0, 31, 0⟩
def TIM_UTC.UTC_VALID : Fld := ⟨0x20180, 0x0, 0x0, 16, 16⟩
def TIM_UTC.UTC_OFFSET : Fld := ⟨0x20180, 0x0, 0x0, 15, 0⟩
def TRIG_CTRL.reg : Fld := ⟨0x20400, 0x10, 0x0, 31, 0⟩
def TRIG_CTRL.ARM : Fld := ⟨0x20400, 0x10, 0x0, 31, 31⟩
def TRIG_CTRL.POL : Fld := ⟨0x20400, 0x10, 0x0, 30, 30⟩
def TRIG_CTRL.BASE : Fld := ⟨0x20400, 0x10, 0x0, 29, 28⟩
def TRIG_CTRL.WIDTH : Fld := ⟨0x20400, 0x10, 0x0, 23, 0⟩
def TRIG_PERIOD.reg : Fld := ⟨0x20404, 0x10, 0x0, 31, 0⟩
def TRIG_PERIOD.PERIOD : Fld := ⟨0x20404, 0x10, 0x0, 31, 0⟩
def TRIG_STAT.reg : Fld := ⟨0x20408, 0x10, 0x0, 31, 0⟩
def TRIG_STAT.ACTIVE : Fld := ⟨0x20408, 0x10, 0x0, 31, 31⟩
def TRIG_STAT.PARAM_ERR : Fld := ⟨0x20408, 0x10, 0x0, 3, 3⟩
def TRIG_STAT.ORDER_ERR : Fld := ⟨0x20408, 0x10, 0x0, 2, 2⟩
def TRIG_STAT.STRETCHED : Fld := ⟨0x20408, 0x10, 0x0, 1, 1⟩
def TRIG_STAT.SKIPPED : Fld := ⟨0x20408, 0x10, 0x0, 0, 0⟩
def SYNC_CFG.reg : Fld := ⟨0x20600, 0x0, 0x0, 31, 0⟩
def SYNC_CFG.EN : Fld := ⟨0x20600, 0x0, 0x0, 31, 31⟩
def SYNC_CFG.EDGE : Fld := ⟨0x20600, 0x0, 0x0, 30, 30⟩
def SYNC_CFG.LOAD : Fld := ⟨0x20600, 0x0, 0x0, 29, 26⟩
def SYNC_CFG.SGC_RESET : Fld := ⟨0x20600, 0x0, 0x0, 25, 25⟩
def TIM_SCHED.reg : Fld := ⟨0x20700, 0x0, 0x0, 31, 0⟩
def TIM_SCHED.BASEk : Fld := ⟨0x20700, 0x0, 0x0, 31, 0⟩
def ING_STATUS.reg : Fld := ⟨0x30000, 0x0, 0x0, 31, 0⟩
def ING_STATUS.IMG_STREAMS : Fld := ⟨0x30000, 0x0, 0x0, 28, 24⟩
def ING_STATUS.PIX_RATE : Fld := ⟨0x30000, 0x0, 0x0, 11, 0⟩
def CSI_CFG.reg : Fld := ⟨0x30100, 0x20, 0x0, 31, 0⟩
def CSI_CFG.EN : Fld := ⟨0x30100, 0x20, 0x0, 31, 31⟩
def CSI_CFG.PHY : Fld := ⟨0x30100, 0x20, 0x0, 30, 30⟩
def CSI_CFG.LANES : Fld := ⟨0x30100, 0x20, 0x0, 29, 28⟩
def CSI_CFG.STB_EN : Fld := ⟨0x30100, 0x20, 0x0, 27, 27⟩
def CSI_CFG.STB_EDGE : Fld := ⟨0x30100, 0x20, 0x0, 26, 26⟩
def CSI_CFG.TRIG_EN : Fld := ⟨0x30100, 0x20, 0x0, 25, 25⟩
def CSI_CFG.TRIG_SEL : Fld := ⟨0x30100, 0x20, 0x0, 23, 20⟩
def CSI_CFG.I3C_MODE : Fld := ⟨0x30100, 0x20, 0x0, 15, 14⟩
def CSI_STAT.reg : Fld := ⟨0x30104, 0x20, 0x0, 31, 0⟩
def CSI_STAT.LINK : Fld := ⟨0x30104, 0x20, 0x0, 31, 31⟩
def CSI_STAT.IDENT : Fld := ⟨0x30104, 0x20, 0x0, 30, 30⟩
def CSI_STAT.I2C_ONLY : Fld := ⟨0x30104, 0x20, 0x0, 29, 29⟩
def CSI_STAT.OTHER_DT : Fld := ⟨0x30104, 0x20, 0x0, 23, 16⟩
def CSI_STAT.HDR_ERR : Fld := ⟨0x30104, 0x20, 0x0, 15, 8⟩
def CSI_STAT.CRC_ERR : Fld := ⟨0x30104, 0x20, 0x0, 7, 0⟩
def ETH_SM_CFG.reg : Fld := ⟨0x30400, 0x8, 0x0, 31, 0⟩
def ETH_SM_CFG.EN : Fld := ⟨0x30400, 0x8, 0x0, 31, 31⟩
def ETH_SM_CFG.PORT : Fld := ⟨0x30400, 0x8, 0x0, 30, 30⟩
def ETH_SM_CFG.FORMAT : Fld := ⟨0x30400, 0x8, 0x0, 29, 29⟩
def ETH_SM_CFG.SSRC_ANY : Fld := ⟨0x30400, 0x8, 0x0, 28, 28⟩
def ETH_SM_CFG.EXT_ID : Fld := ⟨0x30400, 0x8, 0x0, 27, 24⟩
def ETH_SM_CFG.SLOT : Fld := ⟨0x30400, 0x8, 0x0, 23, 21⟩
def ETH_SM_CFG.SPREAD : Fld := ⟨0x30400, 0x8, 0x0, 20, 16⟩
def ETH_SM_CFG.UDP_PORT : Fld := ⟨0x30400, 0x8, 0x0, 15, 0⟩
def ETH_SM_SSRC.reg : Fld := ⟨0x30404, 0x8, 0x0, 31, 0⟩
def ETH_SM_SSRC.SSRC : Fld := ⟨0x30404, 0x8, 0x0, 31, 0⟩
def ETH_MAC_LO.reg : Fld := ⟨0x30600, 0x40, 0x0, 31, 0⟩
def ETH_MAC_LO.MAC : Fld := ⟨0x30600, 0x40, 0x0, 31, 0⟩
def ETH_MAC_HI.reg : Fld := ⟨0x30604, 0x40, 0x0, 31, 0⟩
def ETH_MAC_HI.MAC : Fld := ⟨0x30604, 0x40, 0x0, 15, 0⟩
def ETH_IP4.reg : Fld := ⟨0x30608, 0x40, 0x0, 31, 0⟩
def ETH_IP4.ADDR : Fld := ⟨0x30608, 0x40, 0x0, 31, 0⟩
def ETH_IP6_0.reg : Fld := ⟨0x3060C, 0x40, 0x0, 31, 0⟩
def ETH_IP6_0.ADDR : Fld := ⟨0x3060C, 0x40, 0x0, 31, 0⟩
def ETH_IP6_1.reg : Fld := ⟨0x30610, 0x40, 0x0, 31, 0⟩
def ETH_IP6_1.ADDR : Fld := ⟨0x30610, 0x40, 0x0, 31, 0⟩
def ETH_IP6_2.reg : Fld := ⟨0x30614, 0x40, 0x0, 31, 0⟩
def ETH_IP6_2.ADDR : Fld := ⟨0x30614, 0x40, 0x0, 31, 0⟩
def ETH_IP6_3.reg : Fld := ⟨0x30618, 0x40, 0x0, 31, 0⟩
def ETH_IP6_3.ADDR : Fld := ⟨0x30618, 0x40, 0x0, 31, 0⟩
def SPI_CFG.reg : Fld := ⟨0x30800, 0x20, 0x0, 31, 0⟩
def SPI_CFG.EN : Fld := ⟨0x30800, 0x20, 0x0, 31, 31⟩
def SPI_CFG.POLLED : Fld := ⟨0x30800, 0x20, 0x0, 30, 30⟩
def SPI_CFG.MODE : Fld := ⟨0x30800, 0x20, 0x0, 29, 28⟩
def SPI_CFG.DRDY_EDGE : Fld := ⟨0x30800, 0x20, 0x0, 27, 27⟩
def SPI_CFG.CS_DLY : Fld := ⟨0x30800, 0x20, 0x0, 23, 16⟩
def SPI_CFG.DIV : Fld := ⟨0x30800, 0x20, 0x0, 7, 0⟩
def ENC_CFG.reg : Fld := ⟨0x30A00, 0x10, 0x0, 31, 0⟩
def ENC_CFG.EN : Fld := ⟨0x30A00, 0x10, 0x0, 31, 31⟩
def ENC_CFG.INDEX_EN : Fld := ⟨0x30A00, 0x10, 0x0, 30, 30⟩
def ENC_CFG.DIR : Fld := ⟨0x30A00, 0x10, 0x0, 29, 29⟩
def ENC_CFG.FLT_POL : Fld := ⟨0x30A00, 0x10, 0x0, 28, 28⟩
def ENC_CFG.FILTER : Fld := ⟨0x30A00, 0x10, 0x0, 15, 8⟩
def SDI_CFG.reg : Fld := ⟨0x30C00, 0x10, 0x0, 31, 0⟩
def SDI_CFG.EN : Fld := ⟨0x30C00, 0x10, 0x0, 31, 31⟩
def SDI_CFG.CLK_OUT : Fld := ⟨0x30C00, 0x10, 0x0, 30, 30⟩
def SDI_CFG.EDGE : Fld := ⟨0x30C00, 0x10, 0x0, 29, 29⟩
def SDI_CFG.FREQ : Fld := ⟨0x30C00, 0x10, 0x0, 7, 0⟩
def SDI_STAT.reg : Fld := ⟨0x30C04, 0x10, 0x0, 31, 0⟩
def SDI_STAT.RECOVERING : Fld := ⟨0x30C04, 0x10, 0x0, 2, 2⟩
def SDI_STAT.STUCK : Fld := ⟨0x30C04, 0x10, 0x0, 1, 1⟩
def SDI_STAT.CLK_LOSS : Fld := ⟨0x30C04, 0x10, 0x0, 0, 0⟩
def SGC_LANE_CFG.reg : Fld := ⟨0x40000, 0x40, 0x0, 31, 0⟩
def SGC_LANE_CFG.EN : Fld := ⟨0x40000, 0x40, 0x0, 31, 31⟩
def SGC_LANE_CFG.CUSTOM : Fld := ⟨0x40000, 0x40, 0x0, 30, 30⟩
def SGC_LANE_CFG.PRESET : Fld := ⟨0x40000, 0x40, 0x0, 29, 28⟩
def SGC_LANE_CFG.CIC4 : Fld := ⟨0x40000, 0x40, 0x0, 27, 27⟩
def SGC_LANE_CFG.FDEC_M1 : Fld := ⟨0x40000, 0x40, 0x0, 23, 20⟩
def SGC_LANE_CFG.SYNC_EN : Fld := ⟨0x40000, 0x40, 0x0, 16, 16⟩
def SGC_LANE_CFG.DEC : Fld := ⟨0x40000, 0x40, 0x0, 8, 0⟩
def SGC_LANE_TAPS.reg : Fld := ⟨0x40004, 0x40, 0x0, 31, 0⟩
def SGC_LANE_TAPS.NTAPS : Fld := ⟨0x40004, 0x40, 0x0, 8, 0⟩
def SGC_GRID_PERIOD.reg : Fld := ⟨0x40008, 0x40, 0x0, 31, 0⟩
def SGC_GRID_PERIOD.PERIOD : Fld := ⟨0x40008, 0x40, 0x0, 31, 0⟩
def SGC_GRID_OFFSET.reg : Fld := ⟨0x4000C, 0x40, 0x0, 31, 0⟩
def SGC_GRID_OFFSET.OFFSET : Fld := ⟨0x4000C, 0x40, 0x0, 31, 0⟩
def SGC_LANE_STAT.reg : Fld := ⟨0x40010, 0x40, 0x0, 31, 0⟩
def SGC_LANE_STAT.ACTIVE : Fld := ⟨0x40010, 0x40, 0x0, 31, 31⟩
def SGC_LANE_STAT.PARAM_ERR : Fld := ⟨0x40010, 0x40, 0x0, 30, 30⟩
def SGC_LANE_STAT.CLIPPED : Fld := ⟨0x40010, 0x40, 0x0, 29, 29⟩
def SGC_LANE_STAT.SETTLING : Fld := ⟨0x40010, 0x40, 0x0, 28, 28⟩
def SGC_LANE_STAT.SETTLE_N : Fld := ⟨0x40010, 0x40, 0x0, 7, 0⟩
def SGC_LANE_DELAY.reg : Fld := ⟨0x40014, 0x40, 0x0, 31, 0⟩
def SGC_LANE_DELAY.DELAY : Fld := ⟨0x40014, 0x40, 0x0, 31, 0⟩
def SGC_SYNC.reg : Fld := ⟨0x40800, 0x0, 0x0, 31, 0⟩
def SGC_SYNC.GO : Fld := ⟨0x40800, 0x0, 0x0, 31, 31⟩
def SGC_SYNC.COUNT : Fld := ⟨0x40800, 0x0, 0x0, 15, 0⟩
def SGC_COEF.reg : Fld := ⟨0x44000, 0x800, 0x4, 31, 0⟩
def SGC_COEF.COEF : Fld := ⟨0x44000, 0x800, 0x4, 23, 0⟩
def VIS_STATUS.reg : Fld := ⟨0x50000, 0x0, 0x0, 31, 0⟩
def VIS_STATUS.BUSY : Fld := ⟨0x50000, 0x0, 0x0, 27, 0⟩
def VIS_ERR_LOG.reg : Fld := ⟨0x50040, 0x0, 0x0, 127, 0⟩
def VIS_ERR_LOG.TIME : Fld := ⟨0x50040, 0x0, 0x0, 127, 64⟩
def VIS_ERR_LOG.UNIT : Fld := ⟨0x50040, 0x0, 0x0, 63, 56⟩
def VIS_ERR_LOG.KIND : Fld := ⟨0x50040, 0x0, 0x0, 55, 52⟩
def VIS_ERR_LOG.ADDR : Fld := ⟨0x50040, 0x0, 0x0, 47, 0⟩
def VIS_UNIT_STAT.reg : Fld := ⟨0x50100, 0x10, 0x0, 31, 0⟩
def VIS_UNIT_STAT.BANDS : Fld := ⟨0x50100, 0x10, 0x0, 31, 16⟩
def VIS_UNIT_STAT.PART : Fld := ⟨0x50100, 0x10, 0x0, 11, 8⟩
def VIS_UNIT_STAT.ECC_UE : Fld := ⟨0x50100, 0x10, 0x0, 3, 3⟩
def VIS_UNIT_STAT.ECC_CE : Fld := ⟨0x50100, 0x10, 0x0, 2, 2⟩
def VIS_UNIT_STAT.POISON_IN : Fld := ⟨0x50100, 0x10, 0x0, 1, 1⟩
def VIS_UNIT_STAT.STOPPED : Fld := ⟨0x50100, 0x10, 0x0, 0, 0⟩
def FTE_STATUS.reg : Fld := ⟨0x60000, 0x0, 0x0, 31, 0⟩
def FTE_STATUS.BUSY : Fld := ⟨0x60000, 0x0, 0x0, 3, 0⟩
def FTE_ERR_LOG.reg : Fld := ⟨0x60040, 0x0, 0x0, 127, 0⟩
def FTE_ERR_LOG.TIME : Fld := ⟨0x60040, 0x0, 0x0, 127, 64⟩
def FTE_ERR_LOG.TRACK : Fld := ⟨0x60040, 0x0, 0x0, 63, 56⟩
def FTE_ERR_LOG.KIND : Fld := ⟨0x60040, 0x0, 0x0, 55, 52⟩
def FTE_ERR_LOG.ADDR : Fld := ⟨0x60040, 0x0, 0x0, 47, 0⟩
def FTE_TRACK_STAT.reg : Fld := ⟨0x60100, 0x10, 0x0, 31, 0⟩
def FTE_TRACK_STAT.VALID : Fld := ⟨0x60100, 0x10, 0x0, 31, 31⟩
def FTE_TRACK_STAT.COMET_OFF : Fld := ⟨0x60100, 0x10, 0x0, 30, 30⟩
def FTE_TRACK_STAT.STATE : Fld := ⟨0x60100, 0x10, 0x0, 29, 28⟩
def FTE_TRACK_STAT.PART : Fld := ⟨0x60100, 0x10, 0x0, 27, 24⟩
def FTE_TRACK_STAT.CONF : Fld := ⟨0x60100, 0x10, 0x0, 23, 16⟩
def FTE_TRACK_STAT.OLD : Fld := ⟨0x60100, 0x10, 0x0, 15, 0⟩
def FTE_TRACK_MASK.reg : Fld := ⟨0x60104, 0x10, 0x0, 31, 0⟩
def FTE_TRACK_MASK.MASK : Fld := ⟨0x60104, 0x10, 0x0, 31, 0⟩
def MAP_STATUS.reg : Fld := ⟨0x60800, 0x0, 0x0, 31, 0⟩
def MAP_STATUS.VALID : Fld := ⟨0x60800, 0x0, 0x0, 31, 31⟩
def MAP_STATUS.AUTH : Fld := ⟨0x60800, 0x0, 0x0, 30, 30⟩
def MAP_STATUS.COMMIT_BUSY : Fld := ⟨0x60800, 0x0, 0x0, 29, 29⟩
def MAP_STATUS.REBUILD : Fld := ⟨0x60800, 0x0, 0x0, 28, 28⟩
def MAP_STATUS.JOURNAL_FULL : Fld := ⟨0x60800, 0x0, 0x0, 27, 27⟩
def MAP_STATUS.CAP_WARN : Fld := ⟨0x60800, 0x0, 0x0, 26, 26⟩
def MAP_STATUS.PART : Fld := ⟨0x60800, 0x0, 0x0, 19, 16⟩
def MAP_STATUS.SHARD : Fld := ⟨0x60800, 0x0, 0x0, 15, 12⟩
def MAP_EPOCH.reg : Fld := ⟨0x60804, 0x0, 0x0, 31, 0⟩
def MAP_EPOCH.EPOCH : Fld := ⟨0x60804, 0x0, 0x0, 31, 0⟩
def MAP_RETIRED.reg : Fld := ⟨0x60808, 0x0, 0x0, 31, 0⟩
def MAP_RETIRED.RETIRED : Fld := ⟨0x60808, 0x0, 0x0, 31, 0⟩
def MAP_KF_USED.reg : Fld := ⟨0x6080C, 0x0, 0x0, 31, 0⟩
def MAP_KF_USED.USED : Fld := ⟨0x6080C, 0x0, 0x0, 20, 0⟩
def MAP_LM_USED.reg : Fld := ⟨0x60810, 0x0, 0x0, 31, 0⟩
def MAP_LM_USED.USED : Fld := ⟨0x60810, 0x0, 0x0, 26, 0⟩
def MAP_VOX_USED.reg : Fld := ⟨0x60814, 0x0, 0x0, 31, 0⟩
def MAP_VOX_USED.LIVE : Fld := ⟨0x60814, 0x0, 0x0, 28, 0⟩
def MAP_VOX_TAB.reg : Fld := ⟨0x60818, 0x0, 0x0, 31, 0⟩
def MAP_VOX_TAB.SHADOW_LOG2 : Fld := ⟨0x60818, 0x0, 0x0, 12, 8⟩
def MAP_VOX_TAB.TAB_LOG2 : Fld := ⟨0x60818, 0x0, 0x0, 4, 0⟩
def MAP_JOURNAL.reg : Fld := ⟨0x6081C, 0x0, 0x0, 31, 0⟩
def MAP_JOURNAL.CLR : Fld := ⟨0x6081C, 0x0, 0x0, 31, 31⟩
def MAP_JOURNAL.ENTRIES : Fld := ⟨0x6081C, 0x0, 0x0, 23, 0⟩
def SLX_STATUS.reg : Fld := ⟨0x90000, 0x0, 0x0, 31, 0⟩
def SLX_STATUS.BUSY : Fld := ⟨0x90000, 0x0, 0x0, 15, 0⟩
def SLX_ERR_LOG.reg : Fld := ⟨0x90040, 0x0, 0x0, 127, 0⟩
def SLX_ERR_LOG.TIME : Fld := ⟨0x90040, 0x0, 0x0, 127, 64⟩
def SLX_ERR_LOG.CORE : Fld := ⟨0x90040, 0x0, 0x0, 63, 56⟩
def SLX_ERR_LOG.KIND : Fld := ⟨0x90040, 0x0, 0x0, 55, 52⟩
def SLX_ERR_LOG.ADDR : Fld := ⟨0x90040, 0x0, 0x0, 47, 0⟩
def SLX_GROUP_STAT.reg : Fld := ⟨0x90100, 0x10, 0x0, 31, 0⟩
def SLX_GROUP_STAT.WAVES : Fld := ⟨0x90100, 0x10, 0x0, 31, 16⟩
def SLX_GROUP_STAT.PART : Fld := ⟨0x90100, 0x10, 0x0, 15, 12⟩
def SLX_GROUP_STAT.QUADS : Fld := ⟨0x90100, 0x10, 0x0, 11, 9⟩
def SLX_GROUP_STAT.CORES : Fld := ⟨0x90100, 0x10, 0x0, 8, 4⟩
def SLX_GROUP_STAT.RESIDUE : Fld := ⟨0x90100, 0x10, 0x0, 3, 3⟩
def SLX_GROUP_STAT.ECC_UE : Fld := ⟨0x90100, 0x10, 0x0, 2, 2⟩
def SLX_GROUP_STAT.ECC_CE : Fld := ⟨0x90100, 0x10, 0x0, 1, 1⟩
def SLX_GROUP_STAT.NAN : Fld := ⟨0x90100, 0x10, 0x0, 0, 0⟩
def SLX_FAILS.reg : Fld := ⟨0x90104, 0x10, 0x0, 31, 0⟩
def SLX_FAILS.FAILS : Fld := ⟨0x90104, 0x10, 0x0, 31, 0⟩
def SLX_TAU.reg : Fld := ⟨0x90400, 0x4, 0x0, 31, 0⟩
def SLX_TAU.TAU : Fld := ⟨0x90400, 0x4, 0x0, 31, 0⟩
def PSE_STATUS.reg : Fld := ⟨0xA0000, 0x0, 0x0, 31, 0⟩
def PSE_STATUS.BUSY : Fld := ⟨0xA0000, 0x0, 0x0, 7, 0⟩
def PSE_ERR_LOG.reg : Fld := ⟨0xA0040, 0x0, 0x0, 127, 0⟩
def PSE_ERR_LOG.TIME : Fld := ⟨0xA0040, 0x0, 0x0, 127, 64⟩
def PSE_ERR_LOG.WALKER : Fld := ⟨0xA0040, 0x0, 0x0, 63, 56⟩
def PSE_ERR_LOG.KIND : Fld := ⟨0xA0040, 0x0, 0x0, 55, 52⟩
def PSE_ERR_LOG.ADDR : Fld := ⟨0xA0040, 0x0, 0x0, 47, 0⟩
def PSE_WALKER_STAT.reg : Fld := ⟨0xA0100, 0x10, 0x0, 31, 0⟩
def PSE_WALKER_STAT.QUERIES : Fld := ⟨0xA0100, 0x10, 0x0, 31, 16⟩
def PSE_WALKER_STAT.PART : Fld := ⟨0xA0100, 0x10, 0x0, 15, 12⟩
def PSE_WALKER_STAT.INFLIGHT : Fld := ⟨0xA0100, 0x10, 0x0, 11, 6⟩
def PSE_WALKER_STAT.ECC_UE : Fld := ⟨0xA0100, 0x10, 0x0, 2, 2⟩
def PSE_WALKER_STAT.ECC_CE : Fld := ⟨0xA0100, 0x10, 0x0, 1, 1⟩
def PSE_WALKER_STAT.POISON_IN : Fld := ⟨0xA0100, 0x10, 0x0, 0, 0⟩
def PSE_INDEX_STAT.reg : Fld := ⟨0xA0400, 0x20, 0x0, 31, 0⟩
def PSE_INDEX_STAT.VALID : Fld := ⟨0xA0400, 0x20, 0x0, 31, 31⟩
def PSE_INDEX_STAT.KIND : Fld := ⟨0xA0400, 0x20, 0x0, 30, 30⟩
def PSE_INDEX_STAT.REBUILD : Fld := ⟨0xA0400, 0x20, 0x0, 29, 29⟩
def PSE_INDEX_STAT.PUB_PEND : Fld := ⟨0xA0400, 0x20, 0x0, 28, 28⟩
def PSE_INDEX_STAT.CAP_WARN : Fld := ⟨0xA0400, 0x20, 0x0, 27, 27⟩
def PSE_INDEX_STAT.CB_MISMATCH : Fld := ⟨0xA0400, 0x20, 0x0, 26, 26⟩
def PSE_INDEX_STAT.PART : Fld := ⟨0xA0400, 0x20, 0x0, 23, 20⟩
def PSE_INDEX_STAT.SHARD : Fld := ⟨0xA0400, 0x20, 0x0, 19, 16⟩
def PSE_INDEX_STAT.SHARDS : Fld := ⟨0xA0400, 0x20, 0x0, 15, 0⟩
def PSE_INDEX_ID.reg : Fld := ⟨0xA0404, 0x20, 0x0, 31, 0⟩
def PSE_INDEX_ID.INDEX_ID : Fld := ⟨0xA0404, 0x20, 0x0, 31, 0⟩
def PSE_INDEX_EPOCH.reg : Fld := ⟨0xA0408, 0x20, 0x0, 31, 0⟩
def PSE_INDEX_EPOCH.EPOCH : Fld := ⟨0xA0408, 0x20, 0x0, 31, 0⟩
def PSE_INDEX_LIVE.reg : Fld := ⟨0xA040C, 0x20, 0x0, 31, 0⟩
def PSE_INDEX_LIVE.LIVE : Fld := ⟨0xA040C, 0x20, 0x0, 28, 0⟩
def PSE_INDEX_FRESH.reg : Fld := ⟨0xA0410, 0x20, 0x0, 31, 0⟩
def PSE_INDEX_FRESH.FRESH : Fld := ⟨0xA0410, 0x20, 0x0, 15, 0⟩
def PSE_INDEX_CTL.reg : Fld := ⟨0xA0414, 0x20, 0x0, 31, 0⟩
def PSE_INDEX_CTL.REBUILD : Fld := ⟨0xA0414, 0x20, 0x0, 31, 31⟩
def PSE_INDEX_CTL.FRESH_PCT : Fld := ⟨0xA0414, 0x20, 0x0, 15, 8⟩
def PSE_INDEX_CTL.TOMB_PCT : Fld := ⟨0xA0414, 0x20, 0x0, 7, 0⟩
def TA_STATUS.reg : Fld := ⟨0x80000, 0x4000, 0x0, 31, 0⟩
def TA_STATUS.BUSY : Fld := ⟨0x80000, 0x4000, 0x0, 15, 12⟩
def TA_STATUS.SPARES_FREE : Fld := ⟨0x80000, 0x4000, 0x0, 9, 8⟩
def TA_STATUS.DUP : Fld := ⟨0x80000, 0x4000, 0x0, 3, 3⟩
def TA_STATUS.RESIDUE : Fld := ⟨0x80000, 0x4000, 0x0, 2, 2⟩
def TA_STATUS.PATH_PARITY : Fld := ⟨0x80000, 0x4000, 0x0, 1, 1⟩
def TA_STATUS.SAT : Fld := ⟨0x80000, 0x4000, 0x0, 0, 0⟩
def TA_SLICE_STAT.reg : Fld := ⟨0x80010, 0x4000, 0x4, 31, 0⟩
def TA_SLICE_STAT.PART : Fld := ⟨0x80010, 0x4000, 0x4, 27, 24⟩
def TA_SLICE_STAT.WIDTH : Fld := ⟨0x80010, 0x4000, 0x4, 19, 16⟩
def TA_SLICE_STAT.VXU_FAULTS : Fld := ⟨0x80010, 0x4000, 0x4, 15, 0⟩
def TA_ERR_LOG.reg : Fld := ⟨0x80040, 0x4000, 0x0, 127, 0⟩
def TA_ERR_LOG.TIME : Fld := ⟨0x80040, 0x4000, 0x0, 127, 64⟩
def TA_ERR_LOG.COLUMN : Fld := ⟨0x80040, 0x4000, 0x0, 63, 58⟩
def TA_ERR_LOG.SLICE : Fld := ⟨0x80040, 0x4000, 0x0, 57, 56⟩
def TA_ERR_LOG.KIND : Fld := ⟨0x80040, 0x4000, 0x0, 55, 52⟩
def TA_ERR_LOG.ADDR : Fld := ⟨0x80040, 0x4000, 0x0, 47, 0⟩
def TA_COL_STAT.reg : Fld := ⟨0x80100, 0x4000, 0x4, 31, 0⟩
def TA_COL_STAT.ROLE : Fld := ⟨0x80100, 0x4000, 0x4, 31, 30⟩
def TA_COL_STAT.LOGICAL : Fld := ⟨0x80100, 0x4000, 0x4, 20, 16⟩
def TA_COL_STAT.FAULTS : Fld := ⟨0x80100, 0x4000, 0x4, 15, 0⟩
def SEQ_STREAM_STAT.reg : Fld := ⟨0x80200, 0x4000, 0x10, 31, 0⟩
def SEQ_STREAM_STAT.PART : Fld := ⟨0x80200, 0x4000, 0x10, 31, 28⟩
def SEQ_STREAM_STAT.RUNS : Fld := ⟨0x80200, 0x4000, 0x10, 20, 16⟩
def SEQ_STREAM_STAT.SPEC : Fld := ⟨0x80200, 0x4000, 0x10, 14, 12⟩
def SEQ_STREAM_STAT.STATE : Fld := ⟨0x80200, 0x4000, 0x10, 2, 0⟩
def SEQ_ERR_LOG.reg : Fld := ⟨0x80280, 0x4000, 0x0, 127, 0⟩
def SEQ_ERR_LOG.TIME : Fld := ⟨0x80280, 0x4000, 0x0, 127, 64⟩
def SEQ_ERR_LOG.KIND : Fld := ⟨0x80280, 0x4000, 0x0, 63, 60⟩
def SEQ_ERR_LOG.STREAM : Fld := ⟨0x80280, 0x4000, 0x0, 59, 58⟩
def SEQ_ERR_LOG.ADDR : Fld := ⟨0x80280, 0x4000, 0x0, 47, 0⟩
def PLK_PORT_CFG.reg : Fld := ⟨0xB0000, 0x20, 0x0, 31, 0⟩
def PLK_PORT_CFG.EN : Fld := ⟨0xB0000, 0x20, 0x0, 31, 31⟩
def PLK_PORT_CFG.FWD : Fld := ⟨0xB0000, 0x20, 0x0, 27, 24⟩
def PLK_PORT_STAT.reg : Fld := ⟨0xB0004, 0x20, 0x0, 31, 0⟩
def PLK_PORT_STAT.STATE : Fld := ⟨0xB0004, 0x20, 0x0, 31, 29⟩
def PLK_PORT_STAT.DOWN_CAUSE : Fld := ⟨0xB0004, 0x20, 0x0, 28, 25⟩
def PLK_PORT_STAT.SPARE_USED : Fld := ⟨0xB0004, 0x20, 0x0, 24, 24⟩
def PLK_PORT_STAT.NEIGHBOUR : Fld := ⟨0xB0004, 0x20, 0x0, 23, 20⟩
def PLK_PORT_STAT.LANE_MAP : Fld := ⟨0xB0004, 0x20, 0x0, 19, 16⟩
def PLK_PORT_STAT.REPLAYS : Fld := ⟨0xB0004, 0x20, 0x0, 15, 0⟩
def PLK_GROUP.reg : Fld := ⟨0xB0100, 0x0, 0x0, 31, 0⟩
def PLK_GROUP.MEMBERS : Fld := ⟨0xB0100, 0x0, 0x0, 31, 16⟩
def PLK_GROUP.TOPO : Fld := ⟨0xB0100, 0x0, 0x0, 15, 14⟩
def PLK_GROUP.WIDTH_M1 : Fld := ⟨0xB0100, 0x0, 0x0, 11, 8⟩
def PLK_GROUP.TOTAL_W : Fld := ⟨0xB0100, 0x0, 0x0, 7, 0⟩
def PLK_GSTAT.reg : Fld := ⟨0xB0104, 0x0, 0x0, 31, 0⟩
def PLK_GSTAT.REACH : Fld := ⟨0xB0104, 0x0, 0x0, 31, 16⟩
def PLK_GSTAT.DEV_ID : Fld := ⟨0xB0104, 0x0, 0x0, 15, 12⟩
def PLK_GSTAT.WEIGHT : Fld := ⟨0xB0104, 0x0, 0x0, 11, 8⟩
def PLK_GSTAT.AUTH : Fld := ⟨0xB0104, 0x0, 0x0, 7, 7⟩
def PLK_GSTAT.WIT_SEEN : Fld := ⟨0xB0104, 0x0, 0x0, 6, 6⟩
def PLK_GSTAT.QUIET : Fld := ⟨0xB0104, 0x0, 0x0, 5, 5⟩
def PLK_GSTAT.WIT_CONFLICT : Fld := ⟨0xB0104, 0x0, 0x0, 4, 4⟩
def PLK_GSTAT.RELAY_ERR : Fld := ⟨0xB0104, 0x0, 0x0, 3, 3⟩
def PLK_GSTAT.GROUP_ERR : Fld := ⟨0xB0104, 0x0, 0x0, 2, 2⟩
def PLK_WITNESS.reg : Fld := ⟨0xB0108, 0x0, 0x0, 31, 0⟩
def PLK_WITNESS.HOLD : Fld := ⟨0xB0108, 0x0, 0x0, 0, 0⟩
def PLK_SLEEP.reg : Fld := ⟨0xB010C, 0x0, 0x0, 31, 0⟩
def PLK_SLEEP.EN : Fld := ⟨0xB010C, 0x0, 0x0, 31, 31⟩
def PLK_SLEEP.WAKE : Fld := ⟨0xB010C, 0x0, 0x0, 30, 30⟩
def PLK_SLEEP.QUIET_US : Fld := ⟨0xB010C, 0x0, 0x0, 15, 0⟩
def PLK_PWIN_BASE.reg : Fld := ⟨0xB0200, 0x10, 0x0, 31, 0⟩
def PLK_PWIN_BASE.DA : Fld := ⟨0xB0200, 0x10, 0x0, 31, 0⟩
def PLK_PWIN_CFG.reg : Fld := ⟨0xB0204, 0x10, 0x0, 31, 0⟩
def PLK_PWIN_CFG.VALID : Fld := ⟨0xB0204, 0x10, 0x0, 31, 31⟩
def PLK_PWIN_CFG.SIZE : Fld := ⟨0xB0204, 0x10, 0x0, 23, 0⟩
def PLK_PWIN_PEERS.reg : Fld := ⟨0xB0208, 0x10, 0x0, 31, 0⟩
def PLK_PWIN_PEERS.RD : Fld := ⟨0xB0208, 0x10, 0x0, 31, 16⟩
def PLK_PWIN_PEERS.WR : Fld := ⟨0xB0208, 0x10, 0x0, 15, 0⟩
def PLK_PWIN_FLAGS.reg : Fld := ⟨0xB020C, 0x10, 0x0, 31, 0⟩
def PLK_PWIN_FLAGS.FIRST : Fld := ⟨0xB020C, 0x10, 0x0, 27, 16⟩
def PLK_PWIN_FLAGS.COUNT : Fld := ⟨0xB020C, 0x10, 0x0, 12, 0⟩
def PLK_RELAY.reg : Fld := ⟨0xB0400, 0x4, 0x0, 31, 0⟩
def PLK_RELAY.EN : Fld := ⟨0xB0400, 0x4, 0x0, 31, 31⟩
def PLK_RELAY.DEV : Fld := ⟨0xB0400, 0x4, 0x0, 27, 24⟩
def PLK_RELAY.LOCAL : Fld := ⟨0xB0400, 0x4, 0x0, 23, 12⟩
def PLK_RELAY.REMOTE : Fld := ⟨0xB0400, 0x4, 0x0, 11, 0⟩
def SAF_STATUS.reg : Fld := ⟨0xC0000, 0x0, 0x0, 31, 0⟩
def SAF_STATUS.SAFE : Fld := ⟨0xC0000, 0x0, 0x0, 31, 31⟩
def SAF_STATUS.DEV_SAFE : Fld := ⟨0xC0000, 0x0, 0x0, 30, 30⟩
def SAF_STATUS.OPER : Fld := ⟨0xC0000, 0x0, 0x0, 29, 29⟩
def SAF_STATUS.CLR_BUSY : Fld := ⟨0xC0000, 0x0, 0x0, 28, 28⟩
def SAF_STATUS.CLR_FAIL : Fld := ⟨0xC0000, 0x0, 0x0, 27, 27⟩
def SAF_STATUS.CLR_IGNORED : Fld := ⟨0xC0000, 0x0, 0x0, 26, 26⟩
def SAF_STATUS.WR_DENIED : Fld := ⟨0xC0000, 0x0, 0x0, 25, 25⟩
def SAF_STATUS.PULSE : Fld := ⟨0xC0000, 0x0, 0x0, 24, 24⟩
def SAF_STATUS.PART : Fld := ⟨0xC0000, 0x0, 0x0, 19, 16⟩
def SAF_STATUS.FAULTS : Fld := ⟨0xC0000, 0x0, 0x0, 15, 8⟩
def SAF_STATUS.CAUSE : Fld := ⟨0xC0000, 0x0, 0x0, 7, 0⟩
def SAF_FIRST.reg : Fld := ⟨0xC0010, 0x0, 0x0, 127, 0⟩
def SAF_FIRST.TIME : Fld := ⟨0xC0010, 0x0, 0x0, 127, 64⟩
def SAF_FIRST.CAUSE : Fld := ⟨0xC0010, 0x0, 0x0, 63, 56⟩
def SAF_FIRST.CHANNEL : Fld := ⟨0xC0010, 0x0, 0x0, 55, 52⟩
def SAF_FIRST.DEVICE : Fld := ⟨0xC0010, 0x0, 0x0, 51, 51⟩
def SAF_FIRST.ADDR : Fld := ⟨0xC0010, 0x0, 0x0, 47, 0⟩
def SAF_LAST.reg : Fld := ⟨0xC0020, 0x0, 0x0, 127, 0⟩
def SAF_LAST.TIME : Fld := ⟨0xC0020, 0x0, 0x0, 127, 64⟩
def SAF_LAST.CAUSE : Fld := ⟨0xC0020, 0x0, 0x0, 63, 56⟩
def SAF_LAST.CHANNEL : Fld := ⟨0xC0020, 0x0, 0x0, 55, 52⟩
def SAF_LAST.DEVICE : Fld := ⟨0xC0020, 0x0, 0x0, 51, 51⟩
def SAF_LAST.ADDR : Fld := ⟨0xC0020, 0x0, 0x0, 47, 0⟩
def SAF_CHAN_STAT.reg : Fld := ⟨0xC0100, 0x10, 0x0, 31, 0⟩
def SAF_CHAN_STAT.VALID : Fld := ⟨0xC0100, 0x10, 0x0, 31, 31⟩
def SAF_CHAN_STAT.XCMP : Fld := ⟨0xC0100, 0x10, 0x0, 30, 30⟩
def SAF_CHAN_STAT.DEGRADED : Fld := ⟨0xC0100, 0x10, 0x0, 29, 29⟩
def SAF_CHAN_STAT.STOP : Fld := ⟨0xC0100, 0x10, 0x0, 28, 28⟩
def SAF_CHAN_STAT.CONF : Fld := ⟨0xC0100, 0x10, 0x0, 23, 16⟩
def SAF_CHAN_STAT.FRAMES : Fld := ⟨0xC0100, 0x10, 0x0, 15, 0⟩
def SAF_CHAN_SEQ.reg : Fld := ⟨0xC0104, 0x10, 0x0, 31, 0⟩
def SAF_CHAN_SEQ.SEQ : Fld := ⟨0xC0104, 0x10, 0x0, 31, 0⟩
def SPR_STATUS.reg : Fld := ⟨0xD0000, 0x0, 0x0, 31, 0⟩
def SPR_STATUS.FENCED : Fld := ⟨0xD0000, 0x0, 0x0, 23, 16⟩
def SPR_STATUS.PENDING : Fld := ⟨0xD0000, 0x0, 0x0, 15, 8⟩
def SPR_STATUS.RETIRED : Fld := ⟨0xD0000, 0x0, 0x0, 1, 1⟩
def SPR_STATUS.WARN : Fld := ⟨0xD0000, 0x0, 0x0, 0, 0⟩
def SPR_THRESH.reg : Fld := ⟨0xD0004, 0x0, 0x0, 31, 0⟩
def SPR_THRESH.ROW_CE : Fld := ⟨0xD0004, 0x0, 0x0, 31, 24⟩
def SPR_THRESH.ECL : Fld := ⟨0xD0004, 0x0, 0x0, 15, 8⟩
def SPR_THRESH.WARN : Fld := ⟨0xD0004, 0x0, 0x0, 7, 0⟩
def SPR_POOL.reg : Fld := ⟨0xD0100, 0x40, 0x4, 31, 0⟩
def SPR_POOL.SIZE : Fld := ⟨0xD0100, 0x40, 0x4, 31, 16⟩
def SPR_POOL.USED : Fld := ⟨0xD0100, 0x40, 0x4, 15, 0⟩
def ANN_STATUS.reg : Fld := ⟨0xE0000, 0x0, 0x0, 31, 0⟩
def ANN_STATUS.BOOT : Fld := ⟨0xE0000, 0x0, 0x0, 31, 16⟩
def ANN_STATUS.PF_DONE : Fld := ⟨0xE0000, 0x0, 0x0, 3, 3⟩
def ANN_STATUS.LOST : Fld := ⟨0xE0000, 0x0, 0x0, 2, 2⟩
def ANN_STATUS.FF_FULL : Fld := ⟨0xE0000, 0x0, 0x0, 1, 1⟩
def ANN_STATUS.HDR_ERR : Fld := ⟨0xE0000, 0x0, 0x0, 0, 0⟩
def ANN_RD_ADDR.reg : Fld := ⟨0xE0010, 0x0, 0x0, 31, 0⟩
def ANN_RD_ADDR.ADDR : Fld := ⟨0xE0010, 0x0, 0x0, 25, 2⟩
def ANN_RD_DATA.reg : Fld := ⟨0xE0014, 0x0, 0x0, 31, 0⟩
def ANN_RD_DATA.DATA : Fld := ⟨0xE0014, 0x0, 0x0, 31, 0⟩
def ANN_MCTP.reg : Fld := ⟨0xE0018, 0x0, 0x0, 31, 0⟩
def ANN_MCTP.IANA : Fld := ⟨0xE0018, 0x0, 0x0, 31, 0⟩
def GLB_ID.reg : Fld := ⟨0x0, 0x0, 0x0, 31, 0⟩
def GLB_ID.PART : Fld := ⟨0x0, 0x0, 0x0, 31, 16⟩
def GLB_ID.REV : Fld := ⟨0x0, 0x0, 0x0, 15, 8⟩
def GLB_ID.PLOG2 : Fld := ⟨0x0, 0x0, 0x0, 7, 4⟩
def GLB_ID.SAFE_PART : Fld := ⟨0x0, 0x0, 0x0, 3, 0⟩
def GLB_STATUS.reg : Fld := ⟨0x4, 0x0, 0x0, 31, 0⟩
def GLB_STATUS.CFG_FAULT : Fld := ⟨0x4, 0x0, 0x0, 2, 2⟩
def GLB_STATUS.ACC_ERR : Fld := ⟨0x4, 0x0, 0x0, 1, 1⟩
def MBX_SEL.reg : Fld := ⟨0x10, 0x0, 0x0, 31, 0⟩
def MBX_SEL.SEL : Fld := ⟨0x10, 0x0, 0x0, 31, 0⟩
def CMBX_SEL.reg : Fld := ⟨0x200100, 0x400, 0x0, 31, 0⟩
def CMBX_SEL.SEL : Fld := ⟨0x200100, 0x400, 0x0, 31, 0⟩
def MBX_DATA0.reg : Fld := ⟨0x14, 0x0, 0x0, 31, 0⟩
def MBX_DATA0.DATA : Fld := ⟨0x14, 0x0, 0x0, 31, 0⟩
def CMBX_DATA0.reg : Fld := ⟨0x200104, 0x400, 0x0, 31, 0⟩
def CMBX_DATA0.DATA : Fld := ⟨0x200104, 0x400, 0x0, 31, 0⟩
def MBX_DATA1.reg : Fld := ⟨0x18, 0x0, 0x0, 31, 0⟩
def MBX_DATA1.DATA : Fld := ⟨0x18, 0x0, 0x0, 31, 0⟩
def CMBX_DATA1.reg : Fld := ⟨0x200108, 0x400, 0x0, 31, 0⟩
def CMBX_DATA1.DATA : Fld := ⟨0x200108, 0x400, 0x0, 31, 0⟩
def MBX_DATA2.reg : Fld := ⟨0x1C, 0x0, 0x0, 31, 0⟩
def MBX_DATA2.DATA : Fld := ⟨0x1C, 0x0, 0x0, 31, 0⟩
def CMBX_DATA2.reg : Fld := ⟨0x20010C, 0x400, 0x0, 31, 0⟩
def CMBX_DATA2.DATA : Fld := ⟨0x20010C, 0x400, 0x0, 31, 0⟩
def MBX_DATA3.reg : Fld := ⟨0x20, 0x0, 0x0, 31, 0⟩
def MBX_DATA3.DATA : Fld := ⟨0x20, 0x0, 0x0, 31, 0⟩
def CMBX_DATA3.reg : Fld := ⟨0x200110, 0x400, 0x0, 31, 0⟩
def CMBX_DATA3.DATA : Fld := ⟨0x200110, 0x400, 0x0, 31, 0⟩
def MBX_VALID.reg : Fld := ⟨0x24, 0x0, 0x0, 31, 0⟩
def MBX_VALID.ERR : Fld := ⟨0x24, 0x0, 0x0, 7, 4⟩
def MBX_VALID.BUSY : Fld := ⟨0x24, 0x0, 0x0, 1, 1⟩
def MBX_VALID.VALID : Fld := ⟨0x24, 0x0, 0x0, 0, 0⟩
def CMBX_VALID.reg : Fld := ⟨0x200114, 0x400, 0x0, 31, 0⟩
def CMBX_VALID.ERR : Fld := ⟨0x200114, 0x400, 0x0, 7, 4⟩
def CMBX_VALID.BUSY : Fld := ⟨0x200114, 0x400, 0x0, 1, 1⟩
def CMBX_VALID.VALID : Fld := ⟨0x200114, 0x400, 0x0, 0, 0⟩
def GLB_UPDATE.reg : Fld := ⟨0x40, 0x0, 0x0, 31, 0⟩
def GLB_UPDATE.BLOCKS : Fld := ⟨0x40, 0x0, 0x0, 17, 0⟩
def GLB_UPD_STAT.reg : Fld := ⟨0x44, 0x0, 0x0, 31, 0⟩
def GLB_UPD_STAT.BUSY : Fld := ⟨0x44, 0x0, 0x0, 17, 0⟩
def GLB_PEND.reg : Fld := ⟨0x48, 0x0, 0x0, 31, 0⟩
def GLB_PEND.PEND : Fld := ⟨0x48, 0x0, 0x0, 17, 0⟩
def GLB_TICK.reg : Fld := ⟨0x50, 0x0, 0x0, 31, 0⟩
def GLB_TICK.TICK : Fld := ⟨0x50, 0x0, 0x0, 31, 0⟩
def GLB_CFG_LOG.reg : Fld := ⟨0x60, 0x0, 0x0, 127, 0⟩
def GLB_CFG_LOG.TIME : Fld := ⟨0x60, 0x0, 0x0, 127, 64⟩
def GLB_CFG_LOG.COUNT : Fld := ⟨0x60, 0x0, 0x0, 63, 48⟩
def GLB_CFG_LOG.OFFSET : Fld := ⟨0x60, 0x0, 0x0, 21, 0⟩
def GLB_SWFLAG.reg : Fld := ⟨0x70, 0x0, 0x0, 31, 0⟩
def GLB_SWFLAG.MASK : Fld := ⟨0x70, 0x0, 0x0, 31, 16⟩
def GLB_SWFLAG.FLAGS : Fld := ⟨0x70, 0x0, 0x0, 15, 0⟩
def GLB_SCRATCH.reg : Fld := ⟨0x74, 0x0, 0x0, 31, 0⟩
def GLB_SCRATCH.DATA : Fld := ⟨0x74, 0x0, 0x0, 31, 0⟩
def CTX_UPDATE.reg : Fld := ⟨0x20003C, 0x400, 0x0, 31, 0⟩
def CTX_UPDATE.GO : Fld := ⟨0x20003C, 0x400, 0x0, 0, 0⟩
def PMC_CTRL.reg : Fld := ⟨0xF0000, 0x0, 0x0, 31, 0⟩
def PMC_CTRL.FREEZE : Fld := ⟨0xF0000, 0x0, 0x0, 0, 0⟩
def PMC_CTR_CFG.reg : Fld := ⟨0xF0100, 0x20, 0x0, 31, 0⟩
def PMC_CTR_CFG.EN : Fld := ⟨0xF0100, 0x20, 0x0, 31, 31⟩
def PMC_CTR_CFG.OWN_EN : Fld := ⟨0xF0100, 0x20, 0x0, 30, 30⟩
def PMC_CTR_CFG.MST_EN : Fld := ⟨0xF0100, 0x20, 0x0, 29, 29⟩
def PMC_CTR_CFG.ADR_EN : Fld := ⟨0xF0100, 0x20, 0x0, 28, 28⟩
def PMC_CTR_CFG.PRIV : Fld := ⟨0xF0100, 0x20, 0x0, 27, 24⟩
def PMC_CTR_CFG.CLASS : Fld := ⟨0xF0100, 0x20, 0x0, 23, 20⟩
def PMC_CTR_CFG.EVENT : Fld := ⟨0xF0100, 0x20, 0x0, 19, 12⟩
def PMC_CTR_CFG.OWNER : Fld := ⟨0xF0100, 0x20, 0x0, 10, 0⟩
def PMC_CTR_MST.reg : Fld := ⟨0xF0104, 0x20, 0x0, 31, 0⟩
def PMC_CTR_MST.MST_BLK : Fld := ⟨0xF0104, 0x20, 0x0, 20, 16⟩
def PMC_CTR_MST.MST_MASK : Fld := ⟨0xF0104, 0x20, 0x0, 13, 8⟩
def PMC_CTR_MST.MST_UNIT : Fld := ⟨0xF0104, 0x20, 0x0, 5, 0⟩
def PMC_CTR_ALO.reg : Fld := ⟨0xF0108, 0x20, 0x0, 31, 0⟩
def PMC_CTR_ALO.ADDR : Fld := ⟨0xF0108, 0x20, 0x0, 31, 0⟩
def PMC_CTR_AHI.reg : Fld := ⟨0xF010C, 0x20, 0x0, 31, 0⟩
def PMC_CTR_AHI.ADDR : Fld := ⟨0xF010C, 0x20, 0x0, 31, 0⟩
def PMC_CTR_PERIOD.reg : Fld := ⟨0xF0110, 0x20, 0x0, 31, 0⟩
def PMC_CTR_PERIOD.PERIOD : Fld := ⟨0xF0110, 0x20, 0x0, 31, 0⟩
def CTX_CNT.reg : Fld := ⟨0x200040, 0x400, 0x0, 31, 0⟩
def CTX_CNT.USER_EN : Fld := ⟨0x200040, 0x400, 0x0, 31, 31⟩
def CTX_CNT.NOWN : Fld := ⟨0x200040, 0x400, 0x0, 7, 0⟩
def PWR_CFG.reg : Fld := ⟨0x100000, 0x0, 0x0, 31, 0⟩
def PWR_CFG.TRIM_EN : Fld := ⟨0x100000, 0x0, 0x0, 31, 31⟩
def PWR_CFG.T2_RET : Fld := ⟨0x100000, 0x0, 0x0, 30, 30⟩
def PWR_CFG.IO_OFF : Fld := ⟨0x100000, 0x0, 0x0, 29, 27⟩
def PWR_CFG.REQ : Fld := ⟨0x100000, 0x0, 0x0, 1, 0⟩
def PWR_CAP.reg : Fld := ⟨0x100004, 0x0, 0x0, 31, 0⟩
def PWR_CAP.EFF : Fld := ⟨0x100004, 0x0, 0x0, 13, 12⟩
def PWR_CAP.HW : Fld := ⟨0x100004, 0x0, 0x0, 11, 10⟩
def PWR_CAP.CMC : Fld := ⟨0x100004, 0x0, 0x0, 9, 8⟩
def PWR_CAP.HOST : Fld := ⟨0x100004, 0x0, 0x0, 1, 0⟩
def PWR_STAT.reg : Fld := ⟨0x100008, 0x0, 0x0, 31, 0⟩
def PWR_STAT.BOOT_STEP : Fld := ⟨0x100008, 0x0, 0x0, 31, 28⟩
def PWR_STAT.BOOT_ERR : Fld := ⟨0x100008, 0x0, 0x0, 27, 24⟩
def PWR_STAT.REQ_ERR : Fld := ⟨0x100008, 0x0, 0x0, 23, 23⟩
def PWR_STAT.STATE : Fld := ⟨0x100008, 0x0, 0x0, 2, 0⟩
def PWR_THERM.reg : Fld := ⟨0x10000C, 0x0, 0x0, 31, 0⟩
def PWR_THERM.TJ_MAX : Fld := ⟨0x10000C, 0x0, 0x0, 31, 24⟩
def PWR_THERM.THERM_HI : Fld := ⟨0x10000C, 0x0, 0x0, 23, 16⟩
def PWR_THERM.TRIPPED : Fld := ⟨0x10000C, 0x0, 0x0, 0, 0⟩
def PWR_DOM_LO.reg : Fld := ⟨0x100010, 0x0, 0x0, 31, 0⟩
def PWR_DOM_LO.ON : Fld := ⟨0x100010, 0x0, 0x0, 31, 0⟩
def PWR_DOM_HI.reg : Fld := ⟨0x100014, 0x0, 0x0, 31, 0⟩
def PWR_DOM_HI.ON : Fld := ⟨0x100014, 0x0, 0x0, 31, 0⟩
def FUS_STATUS.reg : Fld := ⟨0x110000, 0x0, 0x0, 31, 0⟩
def FUS_STATUS.FUSING : Fld := ⟨0x110000, 0x0, 0x0, 31, 31⟩
def FUS_STATUS.INT_LOCK : Fld := ⟨0x110000, 0x0, 0x0, 30, 30⟩
def FUS_STATUS.MFG_LOCK : Fld := ⟨0x110000, 0x0, 0x0, 29, 29⟩
def FUS_STATUS.MAP_ERR : Fld := ⟨0x110000, 0x0, 0x0, 28, 28⟩
def FUS_STATUS.UNSECURE : Fld := ⟨0x110000, 0x0, 0x0, 27, 27⟩
def FUS_STATUS.SPARES_USED : Fld := ⟨0x110000, 0x0, 0x0, 13, 8⟩
def FUS_PROG_ADDR.reg : Fld := ⟨0x110010, 0x0, 0x0, 31, 0⟩
def FUS_PROG_ADDR.WORD : Fld := ⟨0x110010, 0x0, 0x0, 7, 0⟩
def FUS_PROG_DATA.reg : Fld := ⟨0x110014, 0x0, 0x0, 31, 0⟩
def FUS_PROG_DATA.DATA : Fld := ⟨0x110014, 0x0, 0x0, 31, 0⟩
def FUS_PROG_CTRL.reg : Fld := ⟨0x110018, 0x0, 0x0, 31, 0⟩
def FUS_PROG_CTRL.GO : Fld := ⟨0x110018, 0x0, 0x0, 31, 31⟩
def FUS_PROG_CTRL.BUSY : Fld := ⟨0x110018, 0x0, 0x0, 30, 30⟩
def FUS_PROG_CTRL.DONE : Fld := ⟨0x110018, 0x0, 0x0, 29, 29⟩
def FUS_PROG_CTRL.REMAP : Fld := ⟨0x110018, 0x0, 0x0, 28, 28⟩
def FUS_PROG_CTRL.ERR : Fld := ⟨0x110018, 0x0, 0x0, 1, 0⟩
def FUS_WORD.reg : Fld := ⟨0x111000, 0x4, 0x0, 31, 0⟩
def FUS_WORD.VALUE : Fld := ⟨0x111000, 0x4, 0x0, 31, 0⟩

end R

def regRows0 : List RegRow := [
  ⟨"CAL_STATUS", 0x10000, 0x0, 1, 0x0, 1, [⟨26, 16, .ro, 0⟩, ⟨7, 7, .ro, 0⟩, ⟨6, 6, .w1c, 0⟩, ⟨5, 5, .ro, 0⟩, ⟨4, 4, .ro, 0⟩, ⟨3, 2, .ro, 0⟩, ⟨1, 0, .ro, 0⟩]⟩,
  ⟨"CAL_BASE_PWR", 0x10004, 0x0, 1, 0x0, 1, [⟨31, 24, .ro, 0⟩, ⟨23, 16, .ro, 0⟩, ⟨15, 8, .ro, 0⟩, ⟨7, 0, .ro, 0⟩]⟩,
  ⟨"CAL_PCFG", 0x10100, 0x40, 16, 0x0, 1, [⟨25, 16, .rw, 0x32⟩, ⟨9, 0, .rw, 0x15⟩]⟩,
  ⟨"CAL_PENERGY", 0x10104, 0x40, 16, 0x0, 1, [⟨10, 0, .rw, 0⟩]⟩,
  ⟨"CAL_PSTAT", 0x10108, 0x40, 16, 0x0, 1, [⟨20, 20, .ro, 0⟩, ⟨10, 0, .ro, 0⟩]⟩,
  ⟨"CTX_CAL", 0x200060, 0x400, 2048, 0x0, 1, [⟨8, 8, .ro, 0⟩, ⟨3, 0, .rw, 0⟩]⟩,
  ⟨"CTX_CTRL", 0x200000, 0x400, 2048, 0x0, 1, [⟨5, 4, .rw, 0⟩, ⟨3, 3, .rw, 0⟩, ⟨2, 2, .rw, 0⟩, ⟨1, 1, .rw, 0⟩, ⟨0, 0, .rw, 0⟩]⟩,
  ⟨"CTX_STATUS", 0x200004, 0x400, 2048, 0x0, 1, [⟨25, 16, .sh, 0⟩, ⟨6, 6, .sh, 0⟩, ⟨5, 5, .w1c, 0⟩, ⟨4, 4, .w1c, 0⟩, ⟨3, 3, .sh, 0⟩, ⟨2, 2, .sh, 0⟩, ⟨1, 1, .sh, 0⟩, ⟨0, 0, .sh, 0⟩]⟩,
  ⟨"CTX_ERR", 0x200008, 0x400, 2048, 0x0, 1, [⟨4, 4, .w1c, 0⟩, ⟨3, 3, .w1c, 0⟩, ⟨2, 2, .w1c, 0⟩, ⟨1, 1, .w1c, 0⟩, ⟨0, 0, .w1c, 0⟩]⟩,
  ⟨"CTX_ABORT", 0x20000C, 0x400, 2048, 0x0, 1, [⟨0, 0, .rw, 0⟩]⟩,
  ⟨"SQ_BASE_LO", 0x200010, 0x400, 2048, 0x0, 1, [⟨31, 12, .rw, 0⟩]⟩,
  ⟨"SQ_BASE_HI", 0x200014, 0x400, 2048, 0x0, 1, [⟨31, 0, .rw, 0⟩]⟩,
  ⟨"SQ_CFG", 0x200018, 0x400, 2048, 0x0, 1, [⟨4, 0, .rw, 0x6⟩]⟩,
  ⟨"SQ_HEAD", 0x20001C, 0x400, 2048, 0x0, 1, [⟨15, 0, .sh, 0⟩]⟩,
  ⟨"CQ_BASE_LO", 0x200020, 0x400, 2048, 0x0, 1, [⟨31, 12, .rw, 0⟩]⟩,
  ⟨"CQ_BASE_HI", 0x200024, 0x400, 2048, 0x0, 1, [⟨31, 0, .rw, 0⟩]⟩,
  ⟨"CQ_CFG", 0x200028, 0x400, 2048, 0x0, 1, [⟨4, 0, .rw, 0x6⟩]⟩,
  ⟨"CQ_TAIL", 0x20002C, 0x400, 2048, 0x0, 1, [⟨16, 16, .sh, 0x1⟩, ⟨15, 0, .sh, 0⟩]⟩,
  ⟨"CTX_MSIX", 0x200030, 0x400, 2048, 0x0, 1, [⟨31, 31, .rw, 0⟩, ⟨27, 16, .rw, 0⟩, ⟨15, 8, .rw, 0x1⟩, ⟨5, 0, .rw, 0⟩]⟩,
  ⟨"CTX_CQ_LOST", 0x200034, 0x400, 2048, 0x0, 1, [⟨31, 0, .sh, 0⟩]⟩]

def regRows1 : List RegRow := [
  ⟨"CTX_FUNC", 0x200038, 0x400, 2048, 0x0, 1, [⟨31, 31, .rw, 0⟩, ⟨10, 6, .rw, 0⟩, ⟨5, 0, .rw, 0⟩]⟩,
  ⟨"GLB_PURGE", 0x100, 0x0, 1, 0x0, 1, [⟨31, 31, .rw, 0⟩, ⟨15, 0, .rw, 0⟩]⟩,
  ⟨"GLB_PURGE_STAT", 0x104, 0x0, 1, 0x0, 1, [⟨31, 31, .w1c, 0⟩, ⟨16, 16, .ro, 0⟩, ⟨15, 0, .ro, 0⟩]⟩,
  ⟨"MEM_STATUS", 0x70000, 0x0, 1, 0x0, 1, [⟨5, 5, .w1c, 0⟩, ⟨4, 4, .w1c, 0⟩, ⟨3, 3, .w1c, 0⟩, ⟨2, 2, .w1c, 0⟩, ⟨1, 1, .w1c, 0⟩, ⟨0, 0, .w1c, 0⟩]⟩,
  ⟨"MEM_T3_BUDGET", 0x70004, 0x0, 1, 0x0, 1, [⟨15, 0, .rw, 0x32⟩]⟩,
  ⟨"MEM_ECC_T0", 0x70010, 0x0, 1, 0x0, 1, [⟨31, 16, .sh, 0⟩, ⟨15, 0, .sh, 0⟩]⟩,
  ⟨"MEM_ECC_T1", 0x70014, 0x0, 1, 0x0, 1, [⟨31, 16, .sh, 0⟩, ⟨15, 0, .sh, 0⟩]⟩,
  ⟨"MEM_ECC_T2", 0x70018, 0x0, 1, 0x0, 1, [⟨31, 16, .sh, 0⟩, ⟨15, 0, .sh, 0⟩]⟩,
  ⟨"MEM_SCRUB_T01", 0x70020, 0x0, 1, 0x0, 1, [⟨31, 16, .sh, 0⟩, ⟨15, 0, .sh, 0⟩]⟩,
  ⟨"MEM_SCRUB_T2", 0x70024, 0x0, 1, 0x0, 1, [⟨31, 16, .sh, 0⟩, ⟨15, 0, .sh, 0⟩]⟩,
  ⟨"MEM_ERR_LOG", 0x70030, 0x0, 1, 0x0, 1, [⟨127, 64, .mb, 0⟩, ⟨55, 52, .mb, 0⟩, ⟨51, 48, .mb, 0⟩, ⟨47, 0, .mb, 0⟩]⟩,
  ⟨"CTX_T3W_DA", 0x200080, 0x400, 2048, 0x10, 8, [⟨31, 0, .rw, 0⟩]⟩,
  ⟨"CTX_T3W_CFG", 0x200084, 0x400, 2048, 0x10, 8, [⟨31, 31, .rw, 0⟩, ⟨30, 30, .rw, 0⟩, ⟨29, 29, .rw, 0⟩, ⟨23, 0, .rw, 0⟩]⟩,
  ⟨"CTX_T3W_IOVA_LO", 0x200088, 0x400, 2048, 0x10, 8, [⟨31, 12, .rw, 0⟩]⟩,
  ⟨"CTX_T3W_IOVA_HI", 0x20008C, 0x400, 2048, 0x10, 8, [⟨31, 0, .rw, 0⟩]⟩,
  ⟨"TB_CFG", 0x20000, 0x40, 4, 0x0, 1, [⟨31, 31, .rw, 0⟩, ⟨30, 30, .rw, 0x1⟩, ⟨29, 29, .rw, 0⟩, ⟨23, 16, .rw, 0x4⟩, ⟨11, 11, .rw, 0⟩, ⟨10, 8, .rw, 0⟩, ⟨7, 7, .rw, 0⟩, ⟨6, 4, .rw, 0⟩]⟩,
  ⟨"TB_STATUS", 0x20004, 0x40, 4, 0x0, 1, [⟨7, 7, .ro, 0⟩, ⟨6, 6, .ro, 0⟩, ⟨5, 5, .ro, 0⟩, ⟨4, 4, .w1c, 0⟩, ⟨3, 3, .w1c, 0⟩, ⟨1, 0, .ro, 0⟩]⟩,
  ⟨"TB_RATE", 0x20008, 0x40, 4, 0x0, 1, [⟨31, 0, .rw, 0⟩]⟩,
  ⟨"PTP_SLOT", 0x20100, 0x10, 8, 0x0, 1, [⟨31, 31, .rw, 0⟩, ⟨30, 30, .rw, 0⟩, ⟨29, 29, .rw, 0⟩, ⟨28, 28, .rw, 0⟩, ⟨27, 26, .rw, 0⟩, ⟨25, 24, .rw, 0⟩, ⟨23, 16, .rw, 0⟩, ⟨11, 8, .rw, 0xD⟩, ⟨5, 4, .rw, 0⟩]⟩,
  ⟨"PTP_SLOT_ANN", 0x20104, 0x10, 8, 0x0, 1, [⟨31, 28, .rw, 0⟩, ⟨27, 24, .rw, 0x3⟩, ⟨23, 20, .rw, 0⟩, ⟨15, 8, .rw, 0x80⟩, ⟨7, 0, .rw, 0x80⟩]⟩]

def regRows2 : List RegRow := [
  ⟨"TIM_UTC", 0x20180, 0x0, 1, 0x0, 1, [⟨16, 16, .rw, 0⟩, ⟨15, 0, .rw, 0x25⟩]⟩,
  ⟨"TRIG_CTRL", 0x20400, 0x10, 16, 0x0, 1, [⟨31, 31, .rw, 0⟩, ⟨30, 30, .rw, 0⟩, ⟨29, 28, .rw, 0⟩, ⟨23, 0, .rw, 0x8⟩]⟩,
  ⟨"TRIG_PERIOD", 0x20404, 0x10, 16, 0x0, 1, [⟨31, 0, .rw, 0⟩]⟩,
  ⟨"TRIG_STAT", 0x20408, 0x10, 16, 0x0, 1, [⟨31, 31, .ro, 0⟩, ⟨3, 3, .w1c, 0⟩, ⟨2, 2, .w1c, 0⟩, ⟨1, 1, .w1c, 0⟩, ⟨0, 0, .w1c, 0⟩]⟩,
  ⟨"SYNC_CFG", 0x20600, 0x0, 1, 0x0, 1, [⟨31, 31, .rw, 0⟩, ⟨30, 30, .rw, 0⟩, ⟨29, 26, .rw, 0⟩, ⟨25, 25, .rw, 0⟩]⟩,
  ⟨"TIM_SCHED", 0x20700, 0x0, 1, 0x0, 1, [⟨31, 0, .rw, 0⟩]⟩,
  ⟨"ING_STATUS", 0x30000, 0x0, 1, 0x0, 1, [⟨28, 24, .sh, 0⟩, ⟨11, 0, .sh, 0⟩]⟩,
  ⟨"CSI_CFG", 0x30100, 0x20, 16, 0x0, 1, [⟨31, 31, .rw, 0⟩, ⟨30, 30, .rw, 0⟩, ⟨29, 28, .rw, 0x2⟩, ⟨27, 27, .rw, 0⟩, ⟨26, 26, .rw, 0⟩, ⟨25, 25, .rw, 0⟩, ⟨23, 20, .rw, 0⟩, ⟨15, 14, .rw, 0⟩]⟩,
  ⟨"CSI_STAT", 0x30104, 0x20, 16, 0x0, 1, [⟨31, 31, .sh, 0⟩, ⟨30, 30, .sh, 0⟩, ⟨29, 29, .sh, 0⟩, ⟨23, 16, .sh, 0⟩, ⟨15, 8, .sh, 0⟩, ⟨7, 0, .sh, 0⟩]⟩,
  ⟨"ETH_SM_CFG", 0x30400, 0x8, 64, 0x0, 1, [⟨31, 31, .rw, 0⟩, ⟨30, 30, .rw, 0⟩, ⟨29, 29, .rw, 0⟩, ⟨28, 28, .rw, 0⟩, ⟨27, 24, .rw, 0⟩, ⟨23, 21, .rw, 0⟩, ⟨20, 16, .rw, 0x1⟩, ⟨15, 0, .rw, 0⟩]⟩,
  ⟨"ETH_SM_SSRC", 0x30404, 0x8, 64, 0x0, 1, [⟨31, 0, .rw, 0⟩]⟩,
  ⟨"ETH_MAC_LO", 0x30600, 0x40, 2, 0x0, 1, [⟨31, 0, .rw, 0⟩]⟩,
  ⟨"ETH_MAC_HI", 0x30604, 0x40, 2, 0x0, 1, [⟨15, 0, .rw, 0⟩]⟩,
  ⟨"ETH_IP4", 0x30608, 0x40, 2, 0x0, 1, [⟨31, 0, .rw, 0⟩]⟩,
  ⟨"ETH_IP6_0", 0x3060C, 0x40, 2, 0x0, 1, [⟨31, 0, .rw, 0⟩]⟩,
  ⟨"ETH_IP6_1", 0x30610, 0x40, 2, 0x0, 1, [⟨31, 0, .rw, 0⟩]⟩,
  ⟨"ETH_IP6_2", 0x30614, 0x40, 2, 0x0, 1, [⟨31, 0, .rw, 0⟩]⟩,
  ⟨"ETH_IP6_3", 0x30618, 0x40, 2, 0x0, 1, [⟨31, 0, .rw, 0⟩]⟩,
  ⟨"SPI_CFG", 0x30800, 0x20, 8, 0x0, 1, [⟨31, 31, .rw, 0⟩, ⟨30, 30, .rw, 0⟩, ⟨29, 28, .rw, 0⟩, ⟨27, 27, .rw, 0⟩, ⟨23, 16, .rw, 0x1⟩, ⟨7, 0, .rw, 0x7⟩]⟩,
  ⟨"ENC_CFG", 0x30A00, 0x10, 8, 0x0, 1, [⟨31, 31, .rw, 0⟩, ⟨30, 30, .rw, 0⟩, ⟨29, 29, .rw, 0⟩, ⟨28, 28, .rw, 0⟩, ⟨15, 8, .rw, 0⟩]⟩]

def regRows3 : List RegRow := [
  ⟨"SDI_CFG", 0x30C00, 0x10, 16, 0x0, 1, [⟨31, 31, .rw, 0⟩, ⟨30, 30, .rw, 0⟩, ⟨29, 29, .rw, 0⟩, ⟨7, 0, .rw, 0x32⟩]⟩,
  ⟨"SDI_STAT", 0x30C04, 0x10, 16, 0x0, 1, [⟨2, 2, .sh, 0⟩, ⟨1, 1, .sh, 0⟩, ⟨0, 0, .sh, 0⟩]⟩,
  ⟨"SGC_LANE_CFG", 0x40000, 0x40, 24, 0x0, 1, [⟨31, 31, .rw, 0⟩, ⟨30, 30, .rw, 0⟩, ⟨29, 28, .rw, 0x1⟩, ⟨27, 27, .rw, 0⟩, ⟨23, 20, .rw, 0⟩, ⟨16, 16, .rw, 0x1⟩, ⟨8, 0, .rw, 0x40⟩]⟩,
  ⟨"SGC_LANE_TAPS", 0x40004, 0x40, 24, 0x0, 1, [⟨8, 0, .rw, 0x1⟩]⟩,
  ⟨"SGC_GRID_PERIOD", 0x40008, 0x40, 24, 0x0, 1, [⟨31, 0, .rw, 0xF4240⟩]⟩,
  ⟨"SGC_GRID_OFFSET", 0x4000C, 0x40, 24, 0x0, 1, [⟨31, 0, .rw, 0⟩]⟩,
  ⟨"SGC_LANE_STAT", 0x40010, 0x40, 24, 0x0, 1, [⟨31, 31, .sh, 0⟩, ⟨30, 30, .w1c, 0⟩, ⟨29, 29, .w1c, 0⟩, ⟨28, 28, .sh, 0⟩, ⟨7, 0, .sh, 0⟩]⟩,
  ⟨"SGC_LANE_DELAY", 0x40014, 0x40, 24, 0x0, 1, [⟨31, 0, .sh, 0⟩]⟩,
  ⟨"SGC_SYNC", 0x40800, 0x0, 1, 0x0, 1, [⟨31, 31, .rw, 0⟩, ⟨15, 0, .sh, 0⟩]⟩,
  ⟨"SGC_COEF", 0x44000, 0x800, 24, 0x4, 384, [⟨23, 0, .rw, 0⟩]⟩,
  ⟨"VIS_STATUS", 0x50000, 0x0, 1, 0x0, 1, [⟨27, 0, .sh, 0⟩]⟩,
  ⟨"VIS_ERR_LOG", 0x50040, 0x0, 1, 0x0, 1, [⟨127, 64, .mb, 0⟩, ⟨63, 56, .mb, 0⟩, ⟨55, 52, .mb, 0⟩, ⟨47, 0, .mb, 0⟩]⟩,
  ⟨"VIS_UNIT_STAT", 0x50100, 0x10, 28, 0x0, 1, [⟨31, 16, .sh, 0⟩, ⟨11, 8, .ro, 0⟩, ⟨3, 3, .w1c, 0⟩, ⟨2, 2, .w1c, 0⟩, ⟨1, 1, .w1c, 0⟩, ⟨0, 0, .w1c, 0⟩]⟩,
  ⟨"FTE_STATUS", 0x60000, 0x0, 1, 0x0, 1, [⟨3, 0, .sh, 0⟩]⟩,
  ⟨"FTE_ERR_LOG", 0x60040, 0x0, 1, 0x0, 1, [⟨127, 64, .mb, 0⟩, ⟨63, 56, .mb, 0⟩, ⟨55, 52, .mb, 0⟩, ⟨47, 0, .mb, 0⟩]⟩,
  ⟨"FTE_TRACK_STAT", 0x60100, 0x10, 32, 0x0, 1, [⟨31, 31, .sh, 0⟩, ⟨30, 30, .sh, 0⟩, ⟨29, 28, .sh, 0⟩, ⟨27, 24, .ro, 0⟩, ⟨23, 16, .sh, 0⟩, ⟨15, 0, .sh, 0⟩]⟩,
  ⟨"FTE_TRACK_MASK", 0x60104, 0x10, 32, 0x0, 1, [⟨31, 0, .sh, 0⟩]⟩,
  ⟨"MAP_STATUS", 0x60800, 0x0, 1, 0x0, 1, [⟨31, 31, .sh, 0⟩, ⟨30, 30, .sh, 0⟩, ⟨29, 29, .sh, 0⟩, ⟨28, 28, .sh, 0⟩, ⟨27, 27, .w1c, 0⟩, ⟨26, 26, .w1c, 0⟩, ⟨19, 16, .sh, 0⟩, ⟨15, 12, .sh, 0⟩]⟩,
  ⟨"MAP_EPOCH", 0x60804, 0x0, 1, 0x0, 1, [⟨31, 0, .sh, 0⟩]⟩,
  ⟨"MAP_RETIRED", 0x60808, 0x0, 1, 0x0, 1, [⟨31, 0, .sh, 0⟩]⟩]

def regRows4 : List RegRow := [
  ⟨"MAP_KF_USED", 0x6080C, 0x0, 1, 0x0, 1, [⟨20, 0, .sh, 0⟩]⟩,
  ⟨"MAP_LM_USED", 0x60810, 0x0, 1, 0x0, 1, [⟨26, 0, .sh, 0⟩]⟩,
  ⟨"MAP_VOX_USED", 0x60814, 0x0, 1, 0x0, 1, [⟨28, 0, .sh, 0⟩]⟩,
  ⟨"MAP_VOX_TAB", 0x60818, 0x0, 1, 0x0, 1, [⟨12, 8, .sh, 0⟩, ⟨4, 0, .sh, 0⟩]⟩,
  ⟨"MAP_JOURNAL", 0x6081C, 0x0, 1, 0x0, 1, [⟨31, 31, .rw, 0⟩, ⟨23, 0, .sh, 0⟩]⟩,
  ⟨"SLX_STATUS", 0x90000, 0x0, 1, 0x0, 1, [⟨15, 0, .sh, 0⟩]⟩,
  ⟨"SLX_ERR_LOG", 0x90040, 0x0, 1, 0x0, 1, [⟨127, 64, .mb, 0⟩, ⟨63, 56, .mb, 0⟩, ⟨55, 52, .mb, 0⟩, ⟨47, 0, .mb, 0⟩]⟩,
  ⟨"SLX_GROUP_STAT", 0x90100, 0x10, 16, 0x0, 1, [⟨31, 16, .sh, 0⟩, ⟨15, 12, .ro, 0⟩, ⟨11, 9, .sh, 0x4⟩, ⟨8, 4, .sh, 0x10⟩, ⟨3, 3, .w1c, 0⟩, ⟨2, 2, .w1c, 0⟩, ⟨1, 1, .w1c, 0⟩, ⟨0, 0, .w1c, 0⟩]⟩,
  ⟨"SLX_FAILS", 0x90104, 0x10, 16, 0x0, 1, [⟨31, 0, .sh, 0⟩]⟩,
  ⟨"SLX_TAU", 0x90400, 0x4, 16, 0x0, 1, [⟨31, 0, .rw, 0x2B800000⟩]⟩,
  ⟨"PSE_STATUS", 0xA0000, 0x0, 1, 0x0, 1, [⟨7, 0, .sh, 0⟩]⟩,
  ⟨"PSE_ERR_LOG", 0xA0040, 0x0, 1, 0x0, 1, [⟨127, 64, .mb, 0⟩, ⟨63, 56, .mb, 0⟩, ⟨55, 52, .mb, 0⟩, ⟨47, 0, .mb, 0⟩]⟩,
  ⟨"PSE_WALKER_STAT", 0xA0100, 0x10, 8, 0x0, 1, [⟨31, 16, .sh, 0⟩, ⟨15, 12, .ro, 0⟩, ⟨11, 6, .sh, 0⟩, ⟨2, 2, .w1c, 0⟩, ⟨1, 1, .w1c, 0⟩, ⟨0, 0, .w1c, 0⟩]⟩,
  ⟨"PSE_INDEX_STAT", 0xA0400, 0x20, 16, 0x0, 1, [⟨31, 31, .sh, 0⟩, ⟨30, 30, .sh, 0⟩, ⟨29, 29, .sh, 0⟩, ⟨28, 28, .sh, 0⟩, ⟨27, 27, .w1c, 0⟩, ⟨26, 26, .w1c, 0⟩, ⟨23, 20, .sh, 0⟩, ⟨19, 16, .sh, 0⟩, ⟨15, 0, .sh, 0⟩]⟩,
  ⟨"PSE_INDEX_ID", 0xA0404, 0x20, 16, 0x0, 1, [⟨31, 0, .sh, 0⟩]⟩,
  ⟨"PSE_INDEX_EPOCH", 0xA0408, 0x20, 16, 0x0, 1, [⟨31, 0, .sh, 0⟩]⟩,
  ⟨"PSE_INDEX_LIVE", 0xA040C, 0x20, 16, 0x0, 1, [⟨28, 0, .sh, 0⟩]⟩,
  ⟨"PSE_INDEX_FRESH", 0xA0410, 0x20, 16, 0x0, 1, [⟨15, 0, .sh, 0⟩]⟩,
  ⟨"PSE_INDEX_CTL", 0xA0414, 0x20, 16, 0x0, 1, [⟨31, 31, .rw, 0⟩, ⟨15, 8, .rw, 0x32⟩, ⟨7, 0, .rw, 0xA⟩]⟩,
  ⟨"TA_STATUS", 0x80000, 0x4000, 4, 0x0, 1, [⟨15, 12, .sh, 0⟩, ⟨9, 8, .sh, 0x2⟩, ⟨3, 3, .w1c, 0⟩, ⟨2, 2, .w1c, 0⟩, ⟨1, 1, .w1c, 0⟩, ⟨0, 0, .w1c, 0⟩]⟩]

def regRows5 : List RegRow := [
  ⟨"TA_SLICE_STAT", 0x80010, 0x4000, 4, 0x4, 4, [⟨27, 24, .ro, 0⟩, ⟨19, 16, .sh, 0x8⟩, ⟨15, 0, .sh, 0⟩]⟩,
  ⟨"TA_ERR_LOG", 0x80040, 0x4000, 4, 0x0, 1, [⟨127, 64, .mb, 0⟩, ⟨63, 58, .mb, 0⟩, ⟨57, 56, .mb, 0⟩, ⟨55, 52, .mb, 0⟩, ⟨47, 0, .mb, 0⟩]⟩,
  ⟨"TA_COL_STAT", 0x80100, 0x4000, 4, 0x4, 34, [⟨31, 30, .sh, 0⟩, ⟨20, 16, .sh, 0⟩, ⟨15, 0, .sh, 0⟩]⟩,
  ⟨"SEQ_STREAM_STAT", 0x80200, 0x4000, 4, 0x10, 4, [⟨31, 28, .ro, 0⟩, ⟨20, 16, .sh, 0⟩, ⟨14, 12, .sh, 0⟩, ⟨2, 0, .sh, 0⟩]⟩,
  ⟨"SEQ_ERR_LOG", 0x80280, 0x4000, 4, 0x0, 1, [⟨127, 64, .mb, 0⟩, ⟨63, 60, .mb, 0⟩, ⟨59, 58, .mb, 0⟩, ⟨47, 0, .mb, 0⟩]⟩,
  ⟨"PLK_PORT_CFG", 0xB0000, 0x20, 4, 0x0, 1, [⟨31, 31, .rw, 0⟩, ⟨27, 24, .rw, 0x4⟩]⟩,
  ⟨"PLK_PORT_STAT", 0xB0004, 0x20, 4, 0x0, 1, [⟨31, 29, .sh, 0⟩, ⟨28, 25, .sh, 0⟩, ⟨24, 24, .sh, 0⟩, ⟨23, 20, .sh, 0⟩, ⟨19, 16, .sh, 0x4⟩, ⟨15, 0, .sh, 0⟩]⟩,
  ⟨"PLK_GROUP", 0xB0100, 0x0, 1, 0x0, 1, [⟨31, 16, .rw, 0⟩, ⟨15, 14, .rw, 0⟩, ⟨11, 8, .rw, 0⟩, ⟨7, 0, .rw, 0⟩]⟩,
  ⟨"PLK_GSTAT", 0xB0104, 0x0, 1, 0x0, 1, [⟨31, 16, .sh, 0⟩, ⟨15, 12, .ro, 0⟩, ⟨11, 8, .ro, 0⟩, ⟨7, 7, .sh, 0⟩, ⟨6, 6, .sh, 0⟩, ⟨5, 5, .sh, 0⟩, ⟨4, 4, .w1c, 0⟩, ⟨3, 3, .w1c, 0⟩, ⟨2, 2, .w1c, 0⟩]⟩,
  ⟨"PLK_WITNESS", 0xB0108, 0x0, 1, 0x0, 1, [⟨0, 0, .rw, 0⟩]⟩,
  ⟨"PLK_SLEEP", 0xB010C, 0x0, 1, 0x0, 1, [⟨31, 31, .rw, 0⟩, ⟨30, 30, .rw, 0⟩, ⟨15, 0, .rw, 0x3E8⟩]⟩,
  ⟨"PLK_PWIN_BASE", 0xB0200, 0x10, 32, 0x0, 1, [⟨31, 0, .rw, 0⟩]⟩,
  ⟨"PLK_PWIN_CFG", 0xB0204, 0x10, 32, 0x0, 1, [⟨31, 31, .rw, 0⟩, ⟨23, 0, .rw, 0⟩]⟩,
  ⟨"PLK_PWIN_PEERS", 0xB0208, 0x10, 32, 0x0, 1, [⟨31, 16, .rw, 0⟩, ⟨15, 0, .rw, 0⟩]⟩,
  ⟨"PLK_PWIN_FLAGS", 0xB020C, 0x10, 32, 0x0, 1, [⟨27, 16, .rw, 0⟩, ⟨12, 0, .rw, 0⟩]⟩,
  ⟨"PLK_RELAY", 0xB0400, 0x4, 64, 0x0, 1, [⟨31, 31, .rw, 0⟩, ⟨27, 24, .rw, 0⟩, ⟨23, 12, .rw, 0⟩, ⟨11, 0, .rw, 0⟩]⟩,
  ⟨"SAF_STATUS", 0xC0000, 0x0, 1, 0x0, 1, [⟨31, 31, .ro, 0⟩, ⟨30, 30, .ro, 0⟩, ⟨29, 29, .ro, 0⟩, ⟨28, 28, .ro, 0⟩, ⟨27, 27, .w1c, 0⟩, ⟨26, 26, .w1c, 0⟩, ⟨25, 25, .w1c, 0⟩, ⟨24, 24, .ro, 0⟩, ⟨19, 16, .ro, 0⟩, ⟨15, 8, .ro, 0⟩, ⟨7, 0, .ro, 0⟩]⟩,
  ⟨"SAF_FIRST", 0xC0010, 0x0, 1, 0x0, 1, [⟨127, 64, .mb, 0⟩, ⟨63, 56, .mb, 0⟩, ⟨55, 52, .mb, 0⟩, ⟨51, 51, .mb, 0⟩, ⟨47, 0, .mb, 0⟩]⟩,
  ⟨"SAF_LAST", 0xC0020, 0x0, 1, 0x0, 1, [⟨127, 64, .mb, 0⟩, ⟨63, 56, .mb, 0⟩, ⟨55, 52, .mb, 0⟩, ⟨51, 51, .mb, 0⟩, ⟨47, 0, .mb, 0⟩]⟩,
  ⟨"SAF_CHAN_STAT", 0xC0100, 0x10, 16, 0x0, 1, [⟨31, 31, .ro, 0⟩, ⟨30, 30, .ro, 0⟩, ⟨29, 29, .ro, 0⟩, ⟨28, 28, .ro, 0⟩, ⟨23, 16, .ro, 0⟩, ⟨15, 0, .ro, 0⟩]⟩]

def regRows6 : List RegRow := [
  ⟨"SAF_CHAN_SEQ", 0xC0104, 0x10, 16, 0x0, 1, [⟨31, 0, .ro, 0⟩]⟩,
  ⟨"SPR_STATUS", 0xD0000, 0x0, 1, 0x0, 1, [⟨23, 16, .ro, 0⟩, ⟨15, 8, .ro, 0⟩, ⟨1, 1, .w1c, 0⟩, ⟨0, 0, .w1c, 0⟩]⟩,
  ⟨"SPR_THRESH", 0xD0004, 0x0, 1, 0x0, 1, [⟨31, 24, .rw, 0x8⟩, ⟨15, 8, .rw, 0x20⟩, ⟨7, 0, .rw, 0x10⟩]⟩,
  ⟨"SPR_POOL", 0xD0100, 0x40, 11, 0x4, 16, [⟨31, 16, .ro, 0⟩, ⟨15, 0, .ro, 0⟩]⟩,
  ⟨"ANN_STATUS", 0xE0000, 0x0, 1, 0x0, 1, [⟨31, 16, .ro, 0⟩, ⟨3, 3, .ro, 0⟩, ⟨2, 2, .w1c, 0⟩, ⟨1, 1, .ro, 0⟩, ⟨0, 0, .w1c, 0⟩]⟩,
  ⟨"ANN_RD_ADDR", 0xE0010, 0x0, 1, 0x0, 1, [⟨25, 2, .rw, 0⟩]⟩,
  ⟨"ANN_RD_DATA", 0xE0014, 0x0, 1, 0x0, 1, [⟨31, 0, .ro, 0⟩]⟩,
  ⟨"ANN_MCTP", 0xE0018, 0x0, 1, 0x0, 1, [⟨31, 0, .ro, 0⟩]⟩,
  ⟨"GLB_ID", 0x0, 0x0, 1, 0x0, 1, [⟨31, 16, .ro, 0x4824⟩, ⟨15, 8, .ro, 0xB1⟩, ⟨7, 4, .ro, 0⟩, ⟨3, 0, .ro, 0⟩]⟩,
  ⟨"GLB_STATUS", 0x4, 0x0, 1, 0x0, 1, [⟨2, 2, .w1c, 0⟩, ⟨1, 1, .w1c, 0⟩]⟩,
  ⟨"MBX_SEL", 0x10, 0x0, 1, 0x0, 1, [⟨31, 0, .rw, 0⟩]⟩,
  ⟨"CMBX_SEL", 0x200100, 0x400, 2048, 0x0, 1, [⟨31, 0, .rw, 0⟩]⟩,
  ⟨"MBX_DATA0", 0x14, 0x0, 1, 0x0, 1, [⟨31, 0, .rw, 0⟩]⟩,
  ⟨"CMBX_DATA0", 0x200104, 0x400, 2048, 0x0, 1, [⟨31, 0, .rw, 0⟩]⟩,
  ⟨"MBX_DATA1", 0x18, 0x0, 1, 0x0, 1, [⟨31, 0, .rw, 0⟩]⟩,
  ⟨"CMBX_DATA1", 0x200108, 0x400, 2048, 0x0, 1, [⟨31, 0, .rw, 0⟩]⟩,
  ⟨"MBX_DATA2", 0x1C, 0x0, 1, 0x0, 1, [⟨31, 0, .rw, 0⟩]⟩,
  ⟨"CMBX_DATA2", 0x20010C, 0x400, 2048, 0x0, 1, [⟨31, 0, .rw, 0⟩]⟩,
  ⟨"MBX_DATA3", 0x20, 0x0, 1, 0x0, 1, [⟨31, 0, .rw, 0⟩]⟩,
  ⟨"CMBX_DATA3", 0x200110, 0x400, 2048, 0x0, 1, [⟨31, 0, .rw, 0⟩]⟩]

def regRows7 : List RegRow := [
  ⟨"MBX_VALID", 0x24, 0x0, 1, 0x0, 1, [⟨7, 4, .ro, 0⟩, ⟨1, 1, .ro, 0⟩, ⟨0, 0, .rw, 0⟩]⟩,
  ⟨"CMBX_VALID", 0x200114, 0x400, 2048, 0x0, 1, [⟨7, 4, .ro, 0⟩, ⟨1, 1, .ro, 0⟩, ⟨0, 0, .rw, 0⟩]⟩,
  ⟨"GLB_UPDATE", 0x40, 0x0, 1, 0x0, 1, [⟨17, 0, .rw, 0⟩]⟩,
  ⟨"GLB_UPD_STAT", 0x44, 0x0, 1, 0x0, 1, [⟨17, 0, .ro, 0⟩]⟩,
  ⟨"GLB_PEND", 0x48, 0x0, 1, 0x0, 1, [⟨17, 0, .ro, 0⟩]⟩,
  ⟨"GLB_TICK", 0x50, 0x0, 1, 0x0, 1, [⟨31, 0, .ro, 0⟩]⟩,
  ⟨"GLB_CFG_LOG", 0x60, 0x0, 1, 0x0, 1, [⟨127, 64, .mb, 0⟩, ⟨63, 48, .mb, 0⟩, ⟨21, 0, .mb, 0⟩]⟩,
  ⟨"GLB_SWFLAG", 0x70, 0x0, 1, 0x0, 1, [⟨31, 16, .wm, 0⟩, ⟨15, 0, .wm, 0⟩]⟩,
  ⟨"GLB_SCRATCH", 0x74, 0x0, 1, 0x0, 1, [⟨31, 0, .rw, 0⟩]⟩,
  ⟨"CTX_UPDATE", 0x20003C, 0x400, 2048, 0x0, 1, [⟨0, 0, .rw, 0⟩]⟩,
  ⟨"PMC_CTRL", 0xF0000, 0x0, 1, 0x0, 1, [⟨0, 0, .rw, 0⟩]⟩,
  ⟨"PMC_CTR_CFG", 0xF0100, 0x20, 128, 0x0, 1, [⟨31, 31, .rw, 0⟩, ⟨30, 30, .rw, 0⟩, ⟨29, 29, .rw, 0⟩, ⟨28, 28, .rw, 0⟩, ⟨27, 24, .rw, 0xF⟩, ⟨23, 20, .rw, 0⟩, ⟨19, 12, .rw, 0⟩, ⟨10, 0, .rw, 0⟩]⟩,
  ⟨"PMC_CTR_MST", 0xF0104, 0x20, 128, 0x0, 1, [⟨20, 16, .rw, 0⟩, ⟨13, 8, .rw, 0⟩, ⟨5, 0, .rw, 0⟩]⟩,
  ⟨"PMC_CTR_ALO", 0xF0108, 0x20, 128, 0x0, 1, [⟨31, 0, .rw, 0⟩]⟩,
  ⟨"PMC_CTR_AHI", 0xF010C, 0x20, 128, 0x0, 1, [⟨31, 0, .rw, 0⟩]⟩,
  ⟨"PMC_CTR_PERIOD", 0xF0110, 0x20, 128, 0x0, 1, [⟨31, 0, .rw, 0⟩]⟩,
  ⟨"CTX_CNT", 0x200040, 0x400, 2048, 0x0, 1, [⟨31, 31, .rw, 0⟩, ⟨7, 0, .sh, 0⟩]⟩,
  ⟨"PWR_CFG", 0x100000, 0x0, 1, 0x0, 1, [⟨31, 31, .rw, 0⟩, ⟨30, 30, .rw, 0x1⟩, ⟨29, 27, .rw, 0⟩, ⟨1, 0, .rw, 0⟩]⟩,
  ⟨"PWR_CAP", 0x100004, 0x0, 1, 0x0, 1, [⟨13, 12, .ro, 0⟩, ⟨11, 10, .ro, 0⟩, ⟨9, 8, .ro, 0⟩, ⟨1, 0, .rw, 0⟩]⟩,
  ⟨"PWR_STAT", 0x100008, 0x0, 1, 0x0, 1, [⟨31, 28, .ro, 0⟩, ⟨27, 24, .ro, 0⟩, ⟨23, 23, .w1c, 0⟩, ⟨2, 0, .ro, 0⟩]⟩]

def regRows8 : List RegRow := [
  ⟨"PWR_THERM", 0x10000C, 0x0, 1, 0x0, 1, [⟨31, 24, .ro, 0⟩, ⟨23, 16, .rw, 0x6E⟩, ⟨0, 0, .w1c, 0⟩]⟩,
  ⟨"PWR_DOM_LO", 0x100010, 0x0, 1, 0x0, 1, [⟨31, 0, .ro, 0⟩]⟩,
  ⟨"PWR_DOM_HI", 0x100014, 0x0, 1, 0x0, 1, [⟨31, 0, .ro, 0⟩]⟩,
  ⟨"FUS_STATUS", 0x110000, 0x0, 1, 0x0, 1, [⟨31, 31, .ro, 0⟩, ⟨30, 30, .ro, 0⟩, ⟨29, 29, .ro, 0⟩, ⟨28, 28, .ro, 0⟩, ⟨27, 27, .ro, 0⟩, ⟨13, 8, .ro, 0⟩]⟩,
  ⟨"FUS_PROG_ADDR", 0x110010, 0x0, 1, 0x0, 1, [⟨7, 0, .rw, 0⟩]⟩,
  ⟨"FUS_PROG_DATA", 0x110014, 0x0, 1, 0x0, 1, [⟨31, 0, .rw, 0⟩]⟩,
  ⟨"FUS_PROG_CTRL", 0x110018, 0x0, 1, 0x0, 1, [⟨31, 31, .rw, 0⟩, ⟨30, 30, .ro, 0⟩, ⟨29, 29, .w1c, 0⟩, ⟨28, 28, .w1c, 0⟩, ⟨1, 0, .ro, 0⟩]⟩,
  ⟨"FUS_WORD", 0x111000, 0x4, 256, 0x0, 1, [⟨31, 0, .ro, 0⟩]⟩]

/-- Every register of the map, Table 18-1 and Table 18-2. -/
def regRows : List RegRow := regRows0 ++ regRows1 ++ regRows2 ++ regRows3 ++ regRows4 ++ regRows5 ++ regRows6 ++ regRows7 ++ regRows8

/-- The registers whose stated reset value is not 0: place, strides, counts, whole value. -/
def rstRows : List (Nat × Nat × Nat × Nat × Nat × Nat) := [
  (0x10100, 0x40, 16, 0x0, 1, 0x320015),
  (0x200018, 0x400, 2048, 0x0, 1, 0x6),
  (0x200028, 0x400, 2048, 0x0, 1, 0x6),
  (0x20002C, 0x400, 2048, 0x0, 1, 0x10000),
  (0x200030, 0x400, 2048, 0x0, 1, 0x100),
  (0x70004, 0x0, 1, 0x0, 1, 0x32),
  (0x20000, 0x40, 4, 0x0, 1, 0x40040000),
  (0x20100, 0x10, 8, 0x0, 1, 0xD00),
  (0x20104, 0x10, 8, 0x0, 1, 0x3008080),
  (0x20180, 0x0, 1, 0x0, 1, 0x25),
  (0x20400, 0x10, 16, 0x0, 1, 0x8),
  (0x30100, 0x20, 16, 0x0, 1, 0x20000000),
  (0x30400, 0x8, 64, 0x0, 1, 0x10000),
  (0x30800, 0x20, 8, 0x0, 1, 0x10007),
  (0x30C00, 0x10, 16, 0x0, 1, 0x32),
  (0x40000, 0x40, 24, 0x0, 1, 0x10010040),
  (0x40004, 0x40, 24, 0x0, 1, 0x1),
  (0x40008, 0x40, 24, 0x0, 1, 0xF4240),
  (0x90100, 0x10, 16, 0x0, 1, 0x900),
  (0x90400, 0x4, 16, 0x0, 1, 0x2B800000),
  (0xA0414, 0x20, 16, 0x0, 1, 0x320A),
  (0x80000, 0x4000, 4, 0x0, 1, 0x200),
  (0x80010, 0x4000, 4, 0x4, 4, 0x80000),
  (0xB0000, 0x20, 4, 0x0, 1, 0x4000000),
  (0xB0004, 0x20, 4, 0x0, 1, 0x40000),
  (0xB010C, 0x0, 1, 0x0, 1, 0x3E8),
  (0xD0004, 0x0, 1, 0x0, 1, 0x8002010),
  (0x0, 0x0, 1, 0x0, 1, 0x4824B100),
  (0xF0100, 0x20, 128, 0x0, 1, 0xF000000),
  (0x100000, 0x0, 1, 0x0, 1, 0x40000000),
  (0x10000C, 0x0, 1, 0x0, 1, 0x6E0000)]

/-! ### The register at an offset (R480, R481, R493) -/

/-- Indices of the register at `off` in row `r`, if it is one of the row's registers. -/
def RegRow.indices (r : RegRow) (off : Nat) : Option (Nat × Nat) :=
  if off < r.base then none
  else
    let x := off - r.base
    let i := if r.s1 = 0 then 0 else x / r.s1
    let y := x - r.s1 * i
    let j := if r.s2 = 0 then 0 else y / r.s2
    if i < r.n1 ∧ j < r.n2 ∧ y = r.s2 * j then some (i, j) else none

/-- The register at a BAR0 offset: its row and indices. -/
def regAt (off : Nat) : Option (RegRow × Nat × Nat) := regRows.findSome? (fun r => (r.indices off).map (fun x => (r, x.1, x.2)))

def RegRow.has (r : RegRow) (a : Acc) : Bool := r.flds.any (fun f => decide (f.acc = a))

/-- A register with an RW field, which the parity checker covers (R494). -/
def cfgReg (off : Nat) : Bool := match regAt off with | some (r, _, _) => r.has .rw | none => false

end Sys2Proof.Machine
end

