-- ==== Sys2Proof/Machine/State.lean ====
section
/-! DEFINITION. The state of the block as plain data, the reasons a command can stop, and the state while POR_N is low.
Times are T64 values in ns (R9); T64 values on a partition's schedule base unless a field says otherwise. -/

namespace Sys2Proof.Machine

/-- Why a command stops with a fault. -/
inductive Fault where
  /-- Raised by a meaning whose operand names a unit, context, port or slot that the device does not have (R14).
  Safe: the hardware has no wire for it. -/
  | noSuchUnit
  deriving DecidableEq, Repr

/-- Why a command has no meaning. -/
inductive Refusal where
  /-- Answered only by an arm of exec whose row has no meaning in this model. Safe. -/
  | notModelled (mnemonic : String)
  deriving DecidableEq, Repr

/-! ### Memory (04_memory_tiers.md) -/

/-- What has happened to the stored word or granule (R134, R135, R140): nothing, one bit, or more than ECC corrects;
`multi n` reads clean at the n-th re-read of a T2 read, 1 or 2, and at none for other n. -/
inductive Upset where
  | none
  | single
  | multi (n : Nat)
  deriving DecidableEq, Repr

/-- State of a T2 channel (R141, R143). -/
inductive Chan where
  | ok
  | late
  | failed
  deriving DecidableEq, Repr

structure Mem where
  /-- Bytes by device address; an unlisted byte reads 0 (DESIGN CHOICE, unsafe, log entry 4). -/
  cells : List Host.Cell
  /-- Poison mark by granule number, address / 64 (R136). -/
  poison : SMap Bool
  /-- Upset by granule number. -/
  upset : SMap Upset
  /-- T2 blocks marked to read as zero (R120): ranges of block numbers, address / 65536, first and count. -/
  zero : List (Nat × Nat)
  /-- T2 channel 16 × stack + channel. -/
  chan : SMap Chan
  /-- Ranges retired under R471: base, bytes. -/
  retired : List (Nat × Nat)
  deriving DecidableEq, Repr

/-- One mover descriptor with what runs it (R126): its bytes with SRC and DST as used, the request or run that issued
it, and the destination bytes already written. -/
structure Copy where
  id : Nat
  desc : List Byte
  part : Nat
  ctx : Option Nat
  /-- Run that ends with the copy's errors. -/
  run : Nat
  /-- Index of the plan in the run, for plan copies; none for MOVE and COPY. -/
  plan : Option Nat
  done : Nat
  started : Bool
  deriving DecidableEq, Repr

/-- A T3 read under way (R142). -/
structure T3Read where
  tag : Nat
  run : Nat
  ctx : Nat
  /-- Host address and length asked for. -/
  iova : Nat
  len : Nat
  /-- Device address of the first byte. -/
  da : Nat
  /-- Instant on the reference clock at which the budget ends. -/
  until_ : Nat
  /-- Mover and copy that wait for the data; none for a GET. -/
  copy : Option (Nat × Nat)
  /-- Destination of a GET. -/
  dst : Nat
  deriving DecidableEq, Repr

/-! ### Contexts (03_host_queues.md) -/

/-- A T3 window in force (R121). -/
structure T3W where
  valid : Bool
  wr : Bool
  rd : Bool
  da : Nat
  bytes : Nat
  iova : Nat
  deriving DecidableEq, Repr

/-- Kinds of completion records, for the hold of R91. -/
inductive RecKind where
  | final
  | runOf (slot : Nat)
  | event
  deriving DecidableEq, Repr

/-- A record that waits: its bytes 0 to 30. -/
structure Held where
  kind : RecKind
  irq : Bool
  bytes : List Byte
  deriving DecidableEq, Repr

/-- A counter dump program (R505). -/
structure Dump where
  base : Nat
  len : Nat
  period : Nat
  count : Nat
  /-- T64 of the next dump on the context's time base. -/
  next : Nat
  missed : Bool
  /-- Request whose final record follows the first dump record. -/
  req : Option Nat
  deriving DecidableEq, Repr

structure Ctx where
  enabled : Bool
  tb : Nat
  sqBase : Nat
  sqLog : Nat
  cqBase : Nat
  cqLog : Nat
  t3w : List T3W
  sqHead : Nat
  sqTail : Nat
  cqTail : Nat
  cqHead : Nat
  phase : Bool
  hold : List Held
  expSeq : Option Nat
  sinceIrq : Nat
  firstAt : Nat
  /-- Subcode of the abort or orphaning under way. -/
  aborting : Option Nat
  dump : Option Dump
  deriving DecidableEq, Repr

/-! ### Workbooks (14_sequencer.md) -/

/-- Placement record of R397. -/
structure Region where
  da : Nat
  bytes : Nat
  kind : Nat
  flags : Nat
  twin : Nat
  array : Nat
  segs : Nat
  dataOff : Nat
  deriving DecidableEq, Repr

/-- Copy plan of R398. -/
structure Plan where
  num : Nat
  tmv : Nat
  descs : List (List Byte)
  deriving DecidableEq, Repr

/-- Almanac record of R399. -/
structure AlmRec where
  period : Nat
  deadline : Nat
  tmin : Nat
  lateTol : Nat
  offset : Nat
  cls : Nat
  clear : Bool
  inputs : List Nat
  job : Nat
  deriving DecidableEq, Repr

/-- Record of a cost vector (Table 02-3). -/
structure CostRec where
  res : Nat
  time : List Nat
  step : Nat
  deriving DecidableEq, Repr

structure CostVec where
  job : Nat
  flags : Nat
  rollback : Nat
  energy : List Nat
  recs : List CostRec
  deriving DecidableEq, Repr

/-- Job record of R400, with its engine tasks, template lines and plan numbers. -/
structure Job where
  num : Nat
  opclass : Nat
  safety : Bool
  entry : List Nat
  tasks : List (List Byte)
  solves : List (List Byte)
  searches : List (List Byte)
  plans : List Nat
  deriving DecidableEq, Repr

/-- Flag range (R401): INIT, FIRST, COUNT. -/
structure FlagRange where
  init : Nat
  first : Nat
  count : Nat
  deriving DecidableEq, Repr

/-- Barrier declaration (R401). -/
structure TreeDecl where
  tree : Nat
  arrays : Nat
  job : Nat
  deriving DecidableEq, Repr

/-- Window record (R402). -/
structure WinDecl where
  num : Nat
  import_ : Bool
  readers : Nat
  writers : Nat
  base : Nat
  bytes : Nat
  ffirst : Nat
  fcount : Nat
  deriving DecidableEq, Repr

/-- A loaded workbook. -/
structure Wb where
  slot : Nat
  gen : Nat
  part : Nat
  /-- Loading context; none for a boot-loaded workbook (R434). -/
  ctx : Option Nat
  flags : Nat
  orbit : Nat
  phases : Nat
  /-- Array, code base, count of instructions. -/
  code : List (Nat × Nat × Nat)
  place : List Region
  plans : List Plan
  almanac : List AlmRec
  costs : List CostVec
  jobs : List Job
  franges : List FlagRange
  trees : List TreeDecl
  wins : List WinDecl
  /-- CALIB blocks: type and bytes. -/
  calib : List (Nat × List Byte)
  deriving DecidableEq, Repr

/-- An open shared-store window (R24): its declaration, the owner, the exporting workbook's slot. -/
structure Win where
  decl : WinDecl
  owner : Nat
  wb : Nat
  deriving DecidableEq, Repr

/-! ### Runs, streams, tasks -/

/-- Loop of a stream (R382): LC, index of the first instruction of the body, its length, iteration count. -/
structure Loop where
  lc : Nat
  first : Nat
  len : Nat
  count : Nat
  deriving DecidableEq, Repr

/-- An operation of a stream that has issued and not completed (R380): the instruction word, the operand registers'
values at its issue, its address. -/
structure Op where
  word : Nat
  pc : Nat
  s : BitVec 64
  t : BitVec 64
  u : BitVec 64
  d : BitVec 64
  /-- Issued to the peer link, a mover or a T3 read under this tag: its completion arrives there. -/
  tag : Option Nat
  deriving DecidableEq, Repr

/-- Speculation of a stream (R392, R393): segment, checkpointed state, shadow flags in order, instructions issued since. -/
structure Spec where
  seg : Nat
  pc : Nat
  d : Nat
  a : List (BitVec 64)
  l : List (BitVec 32)
  loops : List Loop
  shadow : List (Nat × Bool)
  issued : Nat
  deriving DecidableEq, Repr

/-- Why a stream issues nothing (SEQ_STREAM_STAT.STATE). -/
inductive Wait where
  | none
  | flag (first count : Nat) (v clr : Bool)
  | barrier (tree gen : Nat)
  | op
  | spec
  | fault
  deriving DecidableEq, Repr

structure Stream where
  array : Nat
  q : Nat
  pc : Nat
  a : List (BitVec 64)
  l : List (BitVec 32)
  loops : List Loop
  ops : List Op
  spec : Option Spec
  wait : Wait
  /-- A step of the run occupies the stream's slices (R374). -/
  inStep : Bool
  /-- END has executed (R375). -/
  ended : Bool
  /-- Generations of arrivals, tree and generation (R390). -/
  arrived : List (Nat × Nat)
  deriving DecidableEq, Repr

/-- An engine, solver or search task of a run: its block, the band, wave or query reached, what it carries from band to
band, its error. -/
structure Task where
  /-- 0 vision or map task, 1 solver template or SOLVE, 2 search template or SEARCH. -/
  sort : Nat
  bytes : List Byte
  band : Nat
  /-- Device words that the task has kept on chip. -/
  work : List Nat
  res : List (List Byte)
  waiting : Bool
  done : Bool
  failed : Bool
  deriving DecidableEq, Repr

/-- What a run belongs to. -/
inductive Src where
  | entry (slot : Nat)
  | req (id : Nat)
  deriving DecidableEq, Repr

structure Run where
  id : Nat
  src : Src
  part : Nat
  ctx : Option Nat
  wb : Nat
  job : Nat
  k : Nat
  rel : Nat
  prom : Nat
  safety : Bool
  admNo : Nat
  eligible : Bool
  started : Option Nat
  /-- Lateness causes of R60 in order of occurrence. -/
  causes : List Nat
  streams : List Stream
  tasks : List Task
  /-- Plan copies not yet ended: mover and copy id. -/
  copies : List (Nat × Nat)
  /-- Result words of the run for its record: RESULT_DA, INFO. -/
  resDa : Nat
  info : List Byte
  /-- Status and subcode of a run that its engines end so (PARTIAL, SOLVER_NAN). -/
  status : Nat
  sub : Nat
  /-- The run carries a speculative frame. -/
  specFrame : Bool
  /-- Its correction step has ended (R263). -/
  applied : Bool
  /-- Map epoch that the root held at the run's release (R281). -/
  epoch : Nat
  deriving DecidableEq, Repr

/-- State of a fetched request. -/
inductive ReqSt where
  /-- Validated and handed on, R88. -/
  | fetched
  /-- Admitted aperiodic request that waits for its release. -/
  | admitted
  /-- Its run exists. -/
  | running
  /-- In the maintenance queue of its partition, R57. -/
  | queued
  /-- Waits for a publication, R282, R337. -/
  | publishing
  /-- Waits for an event of its own opcode: the end of an entry (R103), of the entries and requests of a workbook
  (R102), or a grid instant (R269). -/
  | waiting
  /-- An abort of its context has begun: its final record follows at ABORT_DONE (R105, R106). -/
  | aborted
  deriving DecidableEq, Repr

structure Req where
  id : Nat
  ctx : Nat
  part : Nat
  desc : List Byte
  st : ReqSt
  admNo : Nat
  rel : Nat
  prom : Nat
  /-- Unwrapped START and STOP of its window. -/
  win : Option (Nat × Nat)
  /-- Unwrapped deadline. -/
  deadline : Option Nat
  /-- Words a maintenance request keeps: results of the part already applied. -/
  work : List Nat
  deriving DecidableEq, Repr

/-! ### Calendar unit (02_admission.md) -/

/-- An admitted almanac entry. -/
structure Entry where
  slot : Nat
  part : Nat
  /-- Admitting context and SEQ; none for a boot entry. -/
  ctx : Option Nat
  seq : Nat
  wb : Nat
  alm : AlmRec
  admNo : Nat
  /-- Channel and copy of a safety channel (R438). -/
  channel : Option (Nat × Nat)
  track : Option Nat
  rel0 : Nat
  /-- Number of the next run to release. -/
  next : Nat
  suspended : Bool
  /-- Lateness cause of R60 that later runs carry on while the entry is late; 0 when it is not. -/
  cause : Nat
  leaping : Bool
  /-- Start and completion of the newest run that has them, R61. -/
  lastStart : Option Nat
  lastEnd : Option Nat
  /-- Status and subcode with which the entry ends once its started run has completed. -/
  ending : Option (Nat × Nat)
  deriving DecidableEq, Repr

/-- An item of maintenance work (R57, R68). -/
inductive MaintKind where
  | hostReq (id : Nat)
  | eclipse (id : Nat)
  | rebuild (slot : Nat)
  | mapRebuild
  deriving DecidableEq, Repr

structure Maint where
  part : Nat
  kind : MaintKind
  arrived : Nat
  deriving DecidableEq, Repr

structure PartCal where
  orbit : Nat
  phases : Nat
  /-- Orbit boundaries passed since the partition's maintenance began, and the T64 of the last. -/
  orbits : Nat
  boundary : Nat
  hardMin : Nat
  deriving DecidableEq, Repr

structure Cal where
  parts : List PartCal
  entries : List Entry
  maint : List Maint
  admNo : Nat
  /-- Events of the re-admission under way, in order: partition and cause of Table 02-7. -/
  readmit : List (Nat × Nat)
  /-- Partitions whose next orbit boundary a change of cap level still waits for; none while it waits for the
  re-admission and the runs of revoked jobs (R78). -/
  capWait : Option (List Nat)
  /-- Units that lost width: resource ID, remaining and full width (R76). -/
  narrowed : List (Nat × Nat × Nat)
  /-- Units that no longer exist. -/
  gone : List Nat
  /-- Peer ports that lost their link, and the port of the new route to the member, if any (R417, R429). -/
  lostPorts : List (Nat × Option Nat)
  /-- Releases stopped by a power failure (R516). -/
  stopped : Bool
  deriving DecidableEq, Repr

/-! ### Barrier trees (R390) -/

structure Barrier where
  gen : Nat
  arrived : List Nat
  run : Option Nat
  deriving DecidableEq, Repr

/-! ### Time (05_time.md) -/

structure Tb where
  val : Nat
  /-- Fraction of a nanosecond, in 2^-32 ns. -/
  frac : Nat
  locks : Nat
  disagree : Nat
  /-- Servo rates after the last 16 Syncs, newest first. -/
  rates : List Int
  offPri : Int
  offShd : Int
  /-- Syncs of the shadow within SW_THRESH without a break: since when, on the reference clock. -/
  qualSince : Option Nat
  preset : Nat
  stamp : Nat
  /-- Rate in force when the last switch was made: the slew limit of R169. -/
  slewFrom : Int
  slewing : Bool
  deriving DecidableEq, Repr

/-- A PTP slot (R160 to R167). -/
structure PtpSlot where
  filtId : Nat
  filtPort : Nat
  lastSync : Option Nat
  lastAnn : Option Nat
  lastTxSync : Option Nat
  lastTxAnn : Option Nat
  lastTxDelay : Option Nat
  /-- Two-step Sync waiting for its Follow_Up: sequence, receipt T64 on each base, correction in 2^-16 ns. -/
  pendSync : Option (Nat × List Nat × Int)
  /-- Delay or Pdelay exchange under way: sequence, transmit T64, receipt T64 of the answer, its timestamp. -/
  exch : Option (Nat × Nat × Nat × Int)
  delay : Int
  faulted : Bool
  seqSync : Nat
  seqAnn : Nat
  seqDelay : Nat
  /-- The last accepted Announce. -/
  ann : Option PtpMsg
  /-- Receipt less origin of the last completed Sync, in ns. -/
  syncDiff : Int
  deriving DecidableEq, Repr

/-- A trigger (R171). -/
structure Trig where
  bufStart : Nat
  bufStop : Nat
  armed : Bool
  base : Nat
  pol : Bool
  width : Nat
  period : Nat
  start : Nat
  stop : Nat
  /-- Number of the next pulse. -/
  next : Nat
  emitted : Nat
  skipped : Nat
  lastEdge : Nat
  /-- T64 of the base at the strobe that armed the program (R173). -/
  strobeAt : Nat
  deriving DecidableEq, Repr

/-- A wide write handed over by its VALID write and waiting for the strobe (R490): mailbox, selector, words. -/
structure MbxWrite where
  box : Option Nat
  sel : Nat
  lo : Nat
  hi : Nat
  deriving DecidableEq, Repr

structure Tim where
  tbs : List Tb
  syncEdges : Nat
  slots : List PtpSlot
  trigs : List Trig
  deriving DecidableEq, Repr

/-! ### Annals, sparing (17_sparing_annals.md) -/

/-- A record queued for the annals (R476): everything the writing step does not supply. -/
structure AnnRec where
  cls : Nat
  code : Nat
  source : Nat
  unit : Nat
  time : Nat
  uptime : Nat
  payload : List Byte
  deriving DecidableEq, Repr

/-- An eclipse request (R465). -/
structure Eclipse where
  id : Nat
  pool : Nat
  inst : Nat
  /-- Unit to be replaced: column, core, row address, bank, lane or sector. -/
  unit : Nat
  hard : Bool
  part : Nat
  /-- Steps done and the spare taken. -/
  done : Nat
  spare : Option Nat
  deriving DecidableEq, Repr

/-- An entry of the spare map (R468): pool, instance, unit, the spare or none for a retirement. -/
structure SpareRec where
  pool : Nat
  inst : Nat
  unit : Nat
  spare : Option Nat
  deriving DecidableEq, Repr

structure Spr where
  /-- Drift samples of the window: island, sum in 1/65536, count. -/
  drift : List (Island × Int × Nat)
  fenced : List Island
  /-- Rows with a hard fault: pool and row base address. -/
  queue : List Eclipse
  /-- Corrected errors of SRAM rows since POR_N, by row base. -/
  rowCe : SMap Nat
  /-- Islands whose self-test is due in the next reserve (R463). -/
  suspects : List Island
  /-- Transient faults: island and instant on the reference clock. -/
  transients : List (Island × Nat)
  /-- Warn levels of R469 already posted: pool, instance, level. -/
  warned : List (Nat × Nat × Nat)
  /-- Below-floor monitors: island and since when. -/
  below : List (Island × Nat)
  deriving DecidableEq, Repr

structure Ann where
  queue : List AnnRec
  drops : Nat
  /-- First class 1 and first class 2 record of this boot already copied (R475). -/
  first1 : Bool
  first2 : Bool
  /-- Power-fail: queue closed, flush over. -/
  closed : Bool
  final : Bool
  deriving DecidableEq, Repr

/-- What survives POR_N: fuses, spare rows, spare map, annals (R519). -/
structure NonVol where
  /-- Fuse words by number, spare rows applied. -/
  fuses : SMap (BitVec 32)
  fuseRows : Nat
  spareMap : List SpareRec
  boots : Nat
  /-- Annals records by annals offset. -/
  annals : SMap (List Byte)
  /-- Records written per region: class 1 to 8, and 0 for the first-fault region. -/
  annSeq : SMap Nat
  deriving DecidableEq, Repr

/-! ### Counters (19_counters.md) -/

structure Ctr where
  val : Nat
  /-- Occurrences since the last sample, samples missed, instant of the last sample. -/
  part : Nat
  missed : Nat
  lastAt : Option Nat
  deriving DecidableEq, Repr

/-! ### Power and boot (20_power_boot.md) -/

/-- Power states of Table 20-4. -/
inductive Power where
  | active
  | trim
  | idle
  | standby
  | off
  deriving DecidableEq, Repr

structure Pwr where
  porN : Bool
  perstN : Bool
  pwrFailN : Bool
  fuseEn : Bool
  state : Power
  /-- The state that IDLE returns to. -/
  idleFrom : Power
  /-- Supply of group B being awaited, 0 to 5, and the instant of its enable. -/
  await : Option (Nat × Nat)
  supplies : List Bool
  linkUp : Bool
  halt : Bool
  fusing : Bool
  /-- A word being programmed: its number, the bits to blow. -/
  prog : Option (Nat × Nat)
  jtagOpen : Bool
  /-- The CMC responds (R41). -/
  cmc : Bool
  /-- The CMC's access to T2 has locked (R38). -/
  cmcLocked : Bool
  porAt : Nat
  lastRaise : Option Nat
  belowSince : Option Nat
  lastLower : Option Nat
  /-- Setpoint of VDD_CORE: a cap level of Table 20-2 (R510). -/
  vdd : Nat
  /-- Domains being switched on for a load, R512. -/
  waking : List Nat
  /-- Contexts quiesced per reset function, for event 0x08. -/
  orphans : List (Nat × Nat)
  deriving DecidableEq, Repr

/-! ### Outputs -/

/-- What leaves the device, oldest first. -/
inductive Output where
  /-- A posted write to host memory (R89, R123). -/
  | t3 (iova : Nat) (bytes : List Byte)
  /-- A completion record written into a ring. -/
  | record (ctx : Nat) (iova : Nat) (bytes : List Byte)
  | msix (fn vec : Nat)
  | t3Read (tag iova len : Nat)
  /-- A safe result frame of a channel out of E1: the link kind (1 Layer 2, 2 UDP), whether tagged, the addresses of
  the channel block (bytes 10 to 35), the frame (R448). -/
  | safe (channel link : Nat) (vlan : Bool) (addr : List Byte) (frame : List Byte)
  | ptp (port slot kind : Nat) (m : PtpMsg)
  | peer (dst : Nat) (tag : Nat) (kind : Nat) (bytes : List Byte)
  | mctp (bytes : List Byte)
  | i3c (port : Nat) (words : List Nat)
  | spi (port : Nat)
  | trig (t : Nat) (level : Bool)
  | safePins (level : Bool)
  | psq (n : Nat) (on : Bool)
  | vdd (level : Nat)
  deriving DecidableEq, Repr

/-! ### Safety (16_safety.md) -/

/-- A declared safety channel (R436) with the run whose copies are being compared. -/
structure SafChan where
  num : Nat
  blk : List Byte
  wb : Nat
  /-- Instants of the copies' outputs of the newest run: run number and t_o of copy A, of copy B. -/
  toA : Option (Nat × Nat)
  toB : Option (Nat × Nat)
  /-- Pose records of the newest run: run number and bytes. -/
  poseA : Option (Nat × List Byte)
  poseB : Option (Nat × List Byte)
  /-- The partner's t_o and frame bytes by prom (R458). -/
  partnerTo : List (Nat × Nat)
  partnerBytes : List (Nat × List Byte)
  /-- The frame that waits for the partner's bytes: prom, t_o, frame. -/
  waiting : Option (Nat × Nat × List Byte)
  degraded : Bool
  /-- Outputs in which both devices exchanged t_o since the loss (R459). -/
  good : Nat
  /-- Mirrored slots whose consumption the partner has not returned: stream and slot (R457). -/
  mirrored : List (Nat × Nat)
  deriving DecidableEq, Repr

/-- SAFE_CLR edges (R454): instants on the reference clock of the last rise and fall, whether a valid pulse precedes. -/
structure ClrSeq where
  level : Bool
  rise : Option Nat
  fall : Option Nat
  first : Bool
  deriving DecidableEq, Repr

structure Saf where
  chans : List SafChan
  /-- SEQ of each channel since POR_N (Table 16-5). -/
  seqs : SMap Nat
  clr : ClrSeq
  /-- Level driven on SAFE_A; SAFE_B is its complement while the pulses run. -/
  level : Bool
  driving : Bool
  /-- Instant on the reference clock of the next edge of the pulses. -/
  nextEdge : Nat
  /-- A fault has been detected since the clearance self-test began (R453). -/
  testBad : Bool
  /-- Boot entries in boot order: workbook slot and almanac record index (R434). -/
  bootEntries : List (Nat × Nat)
  deriving DecidableEq, Repr

/-! ### Peer link (15_peer_link.md) -/

structure PlkPort where
  /-- Instant on the reference clock since which the port is UP. -/
  upSince : Option Nat
  neighbour : Option Identity
  /-- SEQ of the next flit to send, and of the oldest flit kept for a replay. -/
  txSeq : Nat
  /-- Flits not yet covered by an ACKSEQ: SEQ, destination, tag, class, bytes. -/
  replay : List (Nat × Nat × Nat × Nat × List Byte)
  /-- Replays of the oldest flit in a row. -/
  fails : Nat
  deriving DecidableEq, Repr

/-- An L4 operation without acknowledgement (R418): member, what issued it and where its data goes. -/
structure L4 where
  tag : Nat
  member : Nat
  run : Nat
  /-- 0 PUT, 1 GET, 2 atomic, 3 mover write, 4 mover read. -/
  kind : Nat
  /-- Own address that receives a GET's data, or the address register of an atomic with RET. -/
  dst : Nat
  len : Nat
  copy : Option (Nat × Nat)
  deriving DecidableEq, Repr

structure Plk where
  ports : List PlkPort
  ops : List L4
  /-- The newest group-state message of each member. -/
  group : List (Nat × Identity)
  /-- Routes in force by member: the ports of the hops (R416, R417). -/
  routes : SMap (List Nat)
  /-- Routes that go into force once every operation sent on the old one has ended (R417). -/
  nextRoutes : SMap (List Nat)
  /-- First three conditions of a quiet vote hold since. -/
  quietSince : Option Nat
  /-- 0 no token of ours out, 1 vote lap, 2 commit lap. -/
  lap : Nat
  voted : Bool
  wakeLatched : Bool
  /-- A split has happened since the last heal, or no heal yet. -/
  healPend : Bool
  deriving DecidableEq, Repr

/-! ### Sensor ingest (06_sensor_ingest.md) -/

/-- The slot that ING is filling (R180, R182). -/
structure OpenSlot where
  slot : Nat
  seq : Nat
  stamp : Nat
  unc : Nat
  cls : Nat
  flags : Nat
  /-- Next image row, or records written. -/
  row : Nat
  rows : Nat
  emb : Nat
  firstBad : Nat
  bad : Nat
  /-- RTP timestamp of the frame and the extended sequence number expected next; bytes received by row. -/
  rtp : Nat
  nextSeq : Nat
  got : List (Nat × Nat)
  /-- T64 of the first record. -/
  since : Nat
  deriving DecidableEq, Repr

/-- A bound stream (R177 to R183). -/
structure Bind where
  stream : Nat
  ctx : Option Nat
  part : Nat
  ld : List Byte
  spi : List Byte
  tb : Nat
  next : Nat
  seq : Nat
  dropped : Nat
  slot : Option OpenSlot
  /-- Cause of Table 06-8 while the stream is lost. -/
  lost : Option Nat
  /-- T64 of the last frame start or sample, of the attach before any. -/
  lastAt : Nat
  /-- T64 of the last accepted image frame. -/
  lastFrame : Option Nat
  /-- RTP timestamp of the newest frame seen. -/
  lastRtp : Option Nat
  deriving DecidableEq, Repr

structure CsiPort where
  ident : Nat
  bcr : Nat
  dcr : Nat
  /-- Virtual channels whose ATTACH has been posted since detection. -/
  vcs : Nat
  /-- T64 of the last selected strobe edge on each base. -/
  strobe : Option (List Nat)
  discovering : Bool
  /-- I3C transfers that wait or run, and the last result: NACK, bytes. -/
  xfers : List (List Nat)
  result : Option (Bool × List Byte)
  deriving DecidableEq, Repr

structure SpiPort where
  running : Option Nat
  waiting : Option Nat
  lastPoll : Nat
  deriving DecidableEq, Repr

structure EncPort where
  count : Int
  a : Bool
  b : Bool
  suspect : Bool
  indexSeen : Bool
  armed : Bool
  fault : Bool
  lastEdge : Nat
  lastEdgeNow : Option Nat
  lastLatch : Nat
  deriving DecidableEq, Repr

structure Ing where
  binds : List Bind
  csi : List CsiPort
  ethUp : List Bool
  /-- Stream entries whose ATTACH has been posted (R190). -/
  ethSeen : List Nat
  /-- Frames and PTP messages dropped and counted, per port (R160, R193). -/
  ethDrops : List Nat
  ptpDrops : List Nat
  spi : List SpiPort
  enc : List EncPort
  deriving DecidableEq, Repr

/-! ### Signal chain (07_signal_chain.md) -/

/-- An input of an IMU lane: class, stamp uncertainty, channel values. -/
structure LaneIn where
  cls : Nat
  unc : Nat
  vals : List Int
  deriving DecidableEq, Repr

/-- A lane of the chain (R207 to R219): what its three stages keep between outputs. -/
structure Lane where
  active : Bool
  /-- Next grid instant, T64 on the stream's base. -/
  next : Nat
  /-- Outputs left in the settling span; the span carries INVALID (R206, R217). -/
  settle : Nat
  invalid : Bool
  synced : Bool
  /-- Broken input (R206), and a sync recorded while broken (R218). -/
  broken : Bool
  syncHeld : Bool
  /-- CIC: integrators and comb delays, 42 bits each, bits since the last output. -/
  integ : List Nat
  comb : List Nat
  bits : Nat
  /-- Newest first: FIR inputs, and FIR outputs with a mark for saturation, per channel; inputs since the last output. -/
  firIn : List (List (Int × Bool))
  firOut : List (List (Int × Bool))
  inputs : Nat
  /-- Classes and uncertainties of the inputs in the support, newest first. -/
  quals : List (Nat × Nat)
  /-- Records that wait for the next output (IMU lanes). -/
  fifo : List LaneIn
  /-- FIR coefficients in force. -/
  taps : List Int
  lastSync : Option Nat
  deriving DecidableEq, Repr

/-! ### The Orrery (09_orrery.md) -/

/-- A source of a track: its entry of Table 09-3 and model block, its mask cause of Table 09-4. -/
structure FSrc where
  blk : List Byte
  model : List Byte
  cause : Option Nat
  /-- STREAM_RESTORED has been posted since the loss. -/
  restored : Bool
  fails : Nat
  passes : Nat
  /-- Newest sample: stamp, and its values. -/
  newest : Option Nat
  vals : List Nat
  deriving DecidableEq, Repr

/-- A grid instant of a track's history: T64, constant-velocity mark, masked sources, nominal state and covariance. -/
structure Hist where
  at_ : Nat
  extrap : Bool
  mask : Nat
  nom : List Nat
  cov : List Nat
  deriving DecidableEq, Repr

/-- A correction that has been applied: promised time of its run, measurement instant, what it rests on. -/
structure Corr where
  prom : Nat
  tm : Nat
  data : List Nat
  deriving DecidableEq, Repr

/-- A speculative frame (R266): tail segment, run, seed. -/
structure SpecFrame where
  seg : Nat
  run : Nat
  seed : List Nat
  deriving DecidableEq, Repr

/-- A track (R245 to R261). -/
structure Track where
  num : Nat
  wb : Nat
  part : Nat
  blk : List Byte
  srcs : List FSrc
  chain : List Byte
  defl : List Byte
  /-- Its first ADMIT has happened: time base, context (none for a boot entry). -/
  admitted : Bool
  tb : Nat
  ctx : Option Nat
  state : Nat
  /-- Quaternion, position, velocity, gyro bias, accelerometer bias of link 0; upper triangle of its covariance. -/
  nom : List Nat
  cov : List Nat
  /-- Deflections and their added variances (R251). -/
  delta : List Nat
  dvar : List Nat
  /-- Newest grid instant and number of history records written. -/
  grid : Nat
  steps : Nat
  /-- Newest first. -/
  hist : List Hist
  corrs : List Corr
  lastPass : Nat
  /-- Entry, group delay at its ADMIT, bound S in ns, BOUND_VOID (R265). -/
  bounds : List (Nat × Nat × Nat × Bool)
  cometOff : Bool
  frames : List SpecFrame
  deriving DecidableEq, Repr

/-! ### The map (10_map_stores.md) -/

/-- A voxel table rebuild (R294): size, page table, whether the copy is made, the ops to replay, bytes of the replay ring
used. -/
structure Rebuild where
  log2 : Nat
  pt : Nat
  copied : Bool
  ops : List (List Byte)
  used : Nat
  deriving DecidableEq, Repr

/-- The loaded map (R272). -/
structure MapSt where
  wb : Nat
  part : Nat
  blk : List Byte
  epoch : Nat
  retired : Nat
  /-- Reference clock at the last publication, runs released before it. -/
  pubNow : Nat
  before : List Nat
  /-- Commit that waits for publication: its request, its ops. -/
  staged : Option (Nat × List (List Byte))
  rebuild : Option Rebuild
  /-- Heal journal: bytes used, entries. -/
  jused : Nat
  jcount : Nat
  /-- Stores whose use has reached 90 percent (event 0x4B). -/
  full : List Nat
  deriving DecidableEq, Repr

/-! ### Place search (12_place_search.md) -/

/-- A query of a search: the walker that takes it (8 for none), its parameters (FORM, K, EF, XMAX, NPROBE), its body,
the remote requester and tag for a served query, and once it has ended its status, tier byte, address and list. -/
structure Query where
  walker : Nat
  form : Nat
  k : Nat
  ef : Nat
  xmax : Nat
  nprobe : Nat
  body : List Byte
  from_ : Option (Nat × Nat)
  done : Bool
  status : Nat
  tier : Nat
  addr : Nat
  hits : List Hit
  trunc : Bool
  deriving DecidableEq, Repr

/-- A reply to query `q` of a search (R345); a refusal has no list. -/
structure Reply where
  shard : Nat
  q : Nat
  refused : Bool
  epoch : Nat
  hits : List Hit
  trunc : Bool
  deriving DecidableEq, Repr

/-- A search under way: the task of its run, the index slot and epoch, the result address (none for a SERVE line). -/
structure Search where
  run : Nat
  task : Nat
  idx : Nat
  epoch : Nat
  da : Option Nat
  queries : List Query
  /-- Fan-out (R343): tag of query 0, shards asked, instant on the reference clock at which the wait ends, and the replies. -/
  tag : Nat
  shards : List Nat
  due : Option Nat
  replies : List Reply
  deriving DecidableEq, Repr

/-- A rebuild of an index (R339, R341): the snapshot epoch; the change log, list slot by local ID, or new base by list for
KIND 1; the new ENTRY; fresh IDs still to link and linked; counts of the moved lists, new and at the snapshot; the local
IDs without links left; all steps done. -/
structure IdxReb where
  snap : Nat
  log : SMap Nat
  entry : Nat
  todo : List Nat
  linked : List Nat
  counts : List (Nat × Nat × Nat)
  freed : List Nat
  /-- Local IDs tombstoned in the snapshot. -/
  dead : List Nat
  finished : Bool
  deriving DecidableEq, Repr

/-- A vector staged for the next epoch: the context, its local ID, its list and entry (KIND 1). -/
structure Staged where
  ctx : Nat
  id : Nat
  list : Nat
  entry : List Byte
  deriving DecidableEq, Repr

/-- A loaded index (R317). -/
structure Idx where
  slot : Nat
  wb : Nat
  part : Nat
  blk : List Byte
  epoch : Nat
  retired : Nat
  /-- Runs released before the last publication (R338). -/
  before : List Nat
  /-- Changes staged for the next epoch, in order: vectors inserted, context and local ID tombstoned. -/
  ins : List Staged
  del : List (Nat × Nat)
  /-- Local IDs that a published rebuild has unlinked, and whether they are free again (R338). -/
  gone : List (Nat × Bool)
  rebuild : Option IdxReb
  /-- Capacities that have reached 90 percent (event 0x51). -/
  full : List Nat
  /-- Remote queries that wait (R344), in order of arrival. -/
  remote : List RemoteQuery
  deriving DecidableEq, Repr


/-! ### The whole -/

/-- Everything that POR_N resets. -/
structure Dev where
  /-- Nanoseconds of the reference clock; the model's own (DESIGN CHOICE, unsafe, log entry 1). -/
  now : Nat
  /-- The model's own counter that the free values of Config are applied to (DESIGN CHOICE, safe, log entry 7). -/
  freeIx : Nat
  /-- The model's own source of names for requests, runs, copies and tags (DESIGN CHOICE, unsafe, log entry 9). -/
  nextId : Nat
  outbox : List Output
  /-- Registers in force, written and not yet applied, and as sampled at the last slow tick, by BAR0 offset. -/
  regs : SMap (BitVec 128)
  buf : SMap (BitVec 128)
  shadow : SMap (BitVec 128)
  /-- Strobes not yet applied, in order: block number and the writes it took. -/
  strobes : List (Nat × SMap (BitVec 128) × List MbxWrite)
  mbxPend : List MbxWrite
  mem : Mem
  ctxs : SMap Ctx
  reqs : List Req
  /-- Final records that wait for those of earlier submissions (R34): context, request, record. -/
  finals : List (Nat × Nat × Held)
  runs : List Run
  cal : Cal
  wbs : List Wb
  /-- Generation of each workbook slot (R407). -/
  gens : SMap Nat
  wins : List Win
  flags : SMap Bool
  trees : SMap Barrier
  /-- DPU accumulators, keyed 2 × ((array × 32 + row) × 32 + column) + ACC. -/
  acc : SMap (BitVec 32)
  /-- Queues of the tile movers. -/
  movers : SMap (List Copy)
  t3reads : List T3Read
  /-- Scrub position by 3 × partition + tier, and by 64 + partition for the safety regions; passes by 128 + 3 × partition
  + tier. -/
  scrub : SMap Nat
  tim : Tim
  spr : Spr
  ann : Ann
  ctrs : SMap Ctr
  pwr : Pwr
  saf : Saf
  plk : Plk
  ing : Ing
  lanes : SMap Lane
  tracks : List Track
  /-- Buffer or slot that comes next in a ring of surfaces or slots, by 8 × descriptor address + 0 for the writer and
  1 + r for reader r (R226, R227). -/
  rings : SMap Nat
  map : Option MapSt
  idxs : List Idx
  searches : List Search
  deriving DecidableEq, Repr

/-- The state of the block: the commands that wait, what survives POR_N, the rest. -/
structure State where
  pending : List Instr
  nv : NonVol
  dev : Dev
  deriving DecidableEq, Repr

/-! ### Reset values -/

def Mem.reset : Mem := ⟨[], [], [], [], [], []⟩

def Ctx.reset : Ctx :=
  ⟨false, 0, 0, 6, 0, 6, [], 0, 0, 0, 0, true, [], none, 0, 0, none, none⟩

/-- Default orbit of 1 ms with one phase (R44). -/
def PartCal.reset : PartCal := ⟨1000000, 1, 0, 0, 0⟩

def Cal.reset : Cal := ⟨List.replicate 16 PartCal.reset, [], [], 0, [], none, [], [], [], false⟩

def Tb.reset : Tb := ⟨0, 0, 0, 0, [], 0, 0, none, 0, 0, 0, false⟩

def PtpSlot.reset : PtpSlot :=
  ⟨0, 0, none, none, none, none, none, none, none, 0, false, 0, 0, 0, none, 0⟩

def Trig.reset : Trig := ⟨0, 0, false, 0, false, 8, 0, 0, 0, 0, 0, 0, 0, 0⟩

def Tim.reset : Tim :=
  ⟨List.replicate 4 Tb.reset, 0, List.replicate 8 PtpSlot.reset, List.replicate 16 Trig.reset⟩

def Barrier.reset : Barrier := ⟨0, [], none⟩

def Spr.reset : Spr := ⟨[], [], [], [], [], [], [], []⟩

def Ann.reset : Ann := ⟨[], 0, false, false, false, false⟩

/-- A new device: nothing blown, nothing written (DESIGN CHOICE, unsafe, log entries 3 and 18). -/
def NonVol.reset : NonVol := ⟨[], 0, [], 0, [], []⟩

def Ctr.reset : Ctr := ⟨0, 0, 0, none⟩

def Pwr.reset : Pwr :=
  { porN := false, perstN := false, pwrFailN := true, fuseEn := false, state := .off, idleFrom := .active,
    await := none, supplies := List.replicate 6 false, linkUp := false, halt := false,
    fusing := false, prog := none, jtagOpen := false, cmc := true, cmcLocked := false, porAt := 0, lastRaise := none,
    belowSince := none, lastLower := none, vdd := 0, waking := [], orphans := [] }

def Saf.reset : Saf := ⟨[], [], ⟨false, none, none, false⟩, false, false, 0, false, []⟩

def PlkPort.reset : PlkPort := ⟨none, none, 0, [], 0⟩

def Plk.reset : Plk := ⟨List.replicate 4 PlkPort.reset, [], [], [], [], none, 0, false, false, true⟩

def CsiPort.reset : CsiPort := ⟨0, 0, 0, 0, none, false, [], none⟩

def Ing.reset : Ing :=
  { binds := [], csi := List.replicate 16 CsiPort.reset, ethUp := [true, true], ethSeen := [], ethDrops := [0, 0],
    ptpDrops := [0, 0], spi := List.replicate 8 ⟨none, none, 0⟩,
    enc := List.replicate 8 ⟨0, false, false, false, false, false, false, 0, none, 0⟩ }

def Lane.reset : Lane :=
  { active := false, next := 0, settle := 0, invalid := false, synced := false, broken := false, syncHeld := false,
    integ := [], comb := [], bits := 0, firIn := [], firOut := [], inputs := 0, quals := [], fifo := [], taps := [],
    lastSync := none }

def Dev.reset : Dev :=
  { now := 0, freeIx := 0, nextId := 0, outbox := [], regs := [], buf := [], shadow := [], strobes := [],
    mbxPend := [], mem := Mem.reset, ctxs := [], reqs := [], finals := [], runs := [], cal := Cal.reset, wbs := [],
    gens := [], wins := [], flags := [], trees := [], acc := [], movers := [], t3reads := [], scrub := [],
    tim := Tim.reset, spr := Spr.reset, ann := Ann.reset, ctrs := [], pwr := Pwr.reset,
    saf := Saf.reset,
    plk := Plk.reset,
    ing := Ing.reset, lanes := [], tracks := [], rings := [],
    map := none, idxs := [], searches := [] }

/-- The device while POR_N is low (R519), new from the factory. -/
def State.reset : State := ⟨[], NonVol.reset, Dev.reset⟩

end Sys2Proof.Machine
end

