-- ==== Sys2Proof/Machine/Ops.lean ====
section
/-! DEFINITION. The shared operations: how a meaning answers, registers, time, partitions, outputs, completion records
and events, annals, counters. -/

namespace Sys2Proof.Machine

/-! ### How a meaning answers -/

/-- A meaning that changes only what POR_N resets. -/
def onDev (ok : Bool) (f : NonVol → Dev → Dev) (s : State) : Host.Outcome State Fault Refusal :=
  if ok then .next { s with dev := f s.nv s.dev } else .fault .noSuchUnit

/-- A meaning that also writes fuses, spare map or annals. -/
def onBoth (ok : Bool) (f : NonVol × Dev → NonVol × Dev) (s : State) : Host.Outcome State Fault Refusal :=
  if ok then .next { s with nv := (f (s.nv, s.dev)).1, dev := (f (s.nv, s.dev)).2 } else .fault .noSuchUnit

/-! ### Registers -/

/-- TA_COL_STAT at reset: physical column j < 32 serves logical column j, the others are idle spares. -/
def colStatRst (off : Nat) : Option Nat :=
  let x := (off - 0x80000) % 0x4000
  if 0x80000 ≤ off ∧ off < 0x90000 ∧ 0x100 ≤ x ∧ x < 0x100 + 4 * 34 ∧ x % 4 = 0 then
    let j := (x - 0x100) / 4
    some (if j < 32 then j * 2 ^ 16 else 2 ^ 30)
  else none

/-- Reset value of a register whose rows all have the same one. -/
def rowRst (off : Nat) : Nat :=
  match rstRows.find? (fun r =>
    let b := r.1
    let s1 := r.2.1
    let n1 := r.2.2.1
    let s2 := r.2.2.2.1
    let n2 := r.2.2.2.2.1
    if off < b then false
    else
      let x := off - b
      let i := if s1 = 0 then 0 else x / s1
      let y := x - s1 * i
      let j := if s2 = 0 then 0 else y / s2
      decide (i < n1 ∧ j < n2 ∧ y = s2 * j)) with
  | some r => r.2.2.2.2.2
  | none => 0

/-- Whole stated reset value of the register at `off` (Table 18-1 and the field tables). -/
def rstValue (off : Nat) : Nat := (colStatRst off).getD (rowRst off)

/-- Whole value of register cell `off` in a table of registers. -/
def cellOf (m : SMap (BitVec 128)) (off : Nat) : Nat :=
  match m.lookup off with
  | some v => v.toNat
  | none => rstValue off

/-- Table with the cell `off` holding `v`; a cell at its reset value is not listed. -/
def putCell (m : SMap (BitVec 128)) (off v : Nat) : SMap (BitVec 128) :=
  SMap.write (BitVec.ofNat 128 (rstValue off)) m off (BitVec.ofNat 128 v)

/-- Field `f` at indices i, j, as in force. -/
def Dev.get (d : Dev) (f : Fld) (i j : Nat) : Nat := bitsOf (cellOf d.regs (f.off i j)) f.hi f.lo

/-- Field `f` as sampled at the last slow tick (R487). -/
def Dev.getShadow (d : Dev) (f : Fld) (i j : Nat) : Nat := bitsOf (cellOf d.shadow (f.off i j)) f.hi f.lo

def Dev.set (d : Dev) (f : Fld) (i j v : Nat) : Dev :=
  { d with regs := putCell d.regs (f.off i j) (putBits (cellOf d.regs (f.off i j)) f.hi f.lo v) }

def Dev.bit (d : Dev) (f : Fld) (i j : Nat) : Bool := decide (d.get f i j = 1)

/-- Add to a counter field that stops at its largest value. -/
def Dev.addSat (d : Dev) (f : Fld) (i j n : Nat) : Dev :=
  d.set f i j (min (d.get f i j + n) (2 ^ (f.hi + 1 - f.lo) - 1))

/-- Add to a counter field that wraps. -/
def Dev.addWrap (d : Dev) (f : Fld) (i j n : Nat) : Dev :=
  d.set f i j ((d.get f i j + n) % 2 ^ (f.hi + 1 - f.lo))

/-! ### Free values (DESIGN CHOICE, safe, log entry 7) -/

/-- `n` free words from `g`, and the counter past them. -/
def freeWords {w : Nat} (g : Nat → BitVec w) (n : Nat) (d : Dev) : List (BitVec w) × Dev :=
  ((List.range n).map (fun i => g (d.freeIx + i)), { d with freeIx := d.freeIx + n })

/-! ### Time -/

def Dev.tb (d : Dev) (n : Nat) : Tb := (d.tim.tbs[n]?).getD Tb.reset

def Dev.tbVal (d : Dev) (n : Nat) : Nat := (d.tb n).val

def Dev.setTb (d : Dev) (n : Nat) (f : Tb → Tb) : Dev :=
  { d with tim := { d.tim with tbs := modifyAt d.tim.tbs n f } }

/-- Signed rate in force of base `n` (R151). -/
def Dev.tbRate (d : Dev) (n : Nat) : Int := toSigned 32 (d.get R.TB_RATE.RATE n 0)

/-- R151: one nanosecond of the reference clock on an enabled base. -/
def Tb.advance (t : Tb) (rate : Int) : Tb :=
  let x : Int := (t.frac : Int) + (2 ^ 32 : Nat) + rate
  { t with val := (t.val + (x / (2 ^ 32 : Nat)).toNat) % 2 ^ 64, frac := (x % (2 ^ 32 : Nat)).toNat }

/-- Schedule base of partition `p` (R153). -/
def Dev.schedTb (d : Dev) (p : Nat) : Nat := bitsOf (cellOf d.regs R.TIM_SCHED.reg.base) (2 * p + 1) (2 * p)

def Dev.schedNow (d : Dev) (p : Nat) : Nat := d.tbVal (d.schedTb p)

/-- R155. -/
def unwrap (ref v : Nat) : Nat :=
  let x : Int := toSigned 32 ((v + 2 ^ 32 - ref % 2 ^ 32) % 2 ^ 32)
  let r : Int := (ref : Int) + x
  if r < 0 then 0 else r.toNat

/-! ### Partitions (R28 to R32) -/

def Dev.fuse (d : Dev) (w : Nat) : Nat := d.get R.FUS_WORD.VALUE w 0

/-- log2 of the partition count, at most 4 (R525). -/
def Dev.plog2 (d : Dev) : Nat := min 4 (bitsOf (d.fuse 3) 2 0)

def Dev.parts (d : Dev) : Nat := 2 ^ d.plog2

/-- The safety partition, if one is fused (R32). -/
def Dev.safePart (d : Dev) : Option Nat :=
  if bitOf (d.fuse 3) 3 then some (bitsOf (d.fuse 3) 7 4) else none

def Dev.isSafe (d : Dev) (p : Nat) : Bool := decide (d.safePart = some p)

/-- R30: partition of context `c`; CTX0 belongs to none. -/
def Dev.ctxPart (d : Dev) (c : Nat) : Option Nat := if c = 0 then none else some (c * d.parts / 2048)

/-- R29: partition that holds slice `s` of array `a`. -/
def Dev.sliceOwner (d : Dev) (a s : Nat) : Nat :=
  match d.plog2 with
  | 0 => 0
  | 1 => s % 2
  | 2 => s
  | 3 => s + 4 * (a / 2)
  | _ => s + 4 * a

/-- Slices of array `a` that partition `p` holds, ascending. -/
def Dev.slicesOf (d : Dev) (a p : Nat) : List Nat := (List.range 4).filter (fun s => decide (d.sliceOwner a s = p))

/-- R372: the partitions with a stream on array `a`, ascending. -/
def Dev.streamParts (d : Dev) (a : Nat) : List Nat :=
  (List.range d.parts).filter (fun p => !(d.slicesOf a p).isEmpty)

def Dev.streamPart (d : Dev) (a q : Nat) : Option Nat := (d.streamParts a)[q]?

/-- Stream number of partition `p` on array `a`. -/
def Dev.streamOf (d : Dev) (a p : Nat) : Nat := ((d.streamParts a).takeWhile (fun x => decide (x ≠ p))).length

/-- Nibble `u` of the UNIT_ASSIGN fuses (Table 20-7). -/
def Dev.unitAssign (d : Dev) (u : Nat) : Nat := bitsOf (d.fuse (32 + u / 8)) (4 * (u % 8) + 3) (4 * (u % 8))

/-- R31: partition of unit `u` of a kind with `n` units whose first UNIT_ASSIGN nibble is `b`. -/
def Dev.kindPart (d : Dev) (n b u : Nat) : Nat :=
  if d.plog2 ≤ 2 then u * d.parts / n else d.unitAssign (b + u)

/-- Partition that holds the unit of a resource ID, for classes of partition scope (R48). -/
def Dev.resPart (d : Dev) (r : Nat) : Option Nat :=
  let u := r % 64
  match r / 64 with
  | 0x01 => if u < 16 then some (d.sliceOwner (u / 4) (u % 4)) else none
  | 0x02 => if u < 16 then some (u * d.parts / 16) else none
  | 0x03 => if u < 8 then some (d.kindPart 8 0 u) else none
  | 0x04 => if u < 4 then some (d.kindPart 4 8 u) else none
  | 0x05 => if u < 8 then some (d.kindPart 8 12 u) else none
  | 0x06 => if u < 4 then some (d.kindPart 4 20 u) else none
  | 0x07 => if u < 4 then some (d.kindPart 4 24 u) else none
  | 0x08 => if u < 4 then some (d.kindPart 4 28 u) else none
  | 0x09 => if u < 8 then some (d.kindPart 8 32 u) else none
  | 0x0A => if u < 16 then some (u * d.parts / 16) else none
  | _ => none

/-- R48: classes of units that exist, of either scope. -/
def resExists (r : Nat) : Bool :=
  let u := r % 64
  match r / 64 with
  | 0x01 | 0x02 | 0x0A => decide (u < 16)
  | 0x03 | 0x05 | 0x09 => decide (u < 8)
  | 0x04 | 0x06 | 0x07 | 0x08 | 0x0C => decide (u < 4)
  | 0x0B => decide (u < 2)
  | 0x0D => decide (u = 0)
  | 0x3F => decide (u < 16)
  | _ => false

def resDeviceWide (r : Nat) : Bool := decide (r / 64 = 0x0C ∨ r / 64 = 0x0D)

/-- R387: first flag and flag count of partition `p`. -/
def Dev.flagShare (d : Dev) (p : Nat) : Nat × Nat := (p * (4096 / d.parts), 4096 / d.parts)

/-! ### Contexts -/

def Dev.ctx (d : Dev) (c : Nat) : Ctx := (d.ctxs.lookup c).getD Ctx.reset

def Dev.ctxNow (d : Dev) (c : Nat) : Nat := d.tbVal (d.ctx c).tb

/-- Fetched requests of `c` without final record (R33). -/
def Dev.inflight (d : Dev) (c : Nat) : Nat :=
  (d.reqs.filter (fun r => decide (r.ctx = c))).length + (d.finals.filter (fun r => decide (r.1 = c))).length

def Ctx.full (c : Ctx) : Bool := decide ((c.cqTail + 1) % 2 ^ c.cqLog = c.cqHead)

/-- The status fields of the context window that mirror the queue front end's own state. -/
def Dev.syncCtx (d : Dev) (c : Nat) : Dev :=
  let x := d.ctx c
  ((((((d.set R.CTX_STATUS.INFLIGHT c 0 (d.inflight c)).set R.CTX_STATUS.CQ_FULL c 0 (b2n x.full)).set
    R.CTX_STATUS.ENABLED c 0 (b2n x.enabled)).set R.SQ_HEAD.HEAD c 0 x.sqHead).set R.CQ_TAIL.TAIL c 0 x.cqTail).set
    R.CQ_TAIL.PHASE c 0 (b2n x.phase))

def Dev.setCtx (d : Dev) (c : Nat) (f : Ctx → Ctx) : Dev :=
  { d with ctxs := SMap.write Ctx.reset d.ctxs c (f (d.ctx c)) }.syncCtx c

/-- Function and vector base of a context (R83, R84); CTX0 is PF0's. -/
def Dev.ctxFn (d : Dev) (c : Nat) : Option Nat :=
  if c = 0 then some 0
  else if d.bit R.CTX_FUNC.VALID c 0 then some (d.get R.CTX_FUNC.FUNC c 0) else none

def Dev.emit (d : Dev) (o : Output) : Dev := { d with outbox := d.outbox ++ [o] }

/-- R514: what wakes the device from IDLE. -/
def Dev.wakeIdle (d : Dev) : Dev :=
  if d.pwr.state = .idle then
    { d with pwr := { d.pwr with state := d.pwr.idleFrom } }.set R.PWR_STAT.STATE 0 0 (if d.pwr.idleFrom = Power.trim then 1 else 0)
  else d

/-- PSQ commands the setpoint of a cap level (R510). -/
def Dev.setVdd (d : Dev) (level : Nat) : Dev := { d with pwr := { d.pwr with vdd := level } }.emit (.vdd level)

/-- The host reaches the device over PCIe. -/
def Dev.hostUp (d : Dev) : Bool := d.pwr.porN && d.pwr.linkUp

/-! ### Completion records (R89 to R91, R96, R97) -/

/-- R90: raise the interrupt of context `c`. -/
def Dev.interrupt (d : Dev) (c : Nat) : Dev :=
  let d := d.setCtx c (fun x => { x with sinceIrq := 0 })
  match d.ctxFn c with
  | some fn => d.emit (.msix fn (d.get R.CTX_MSIX.VEC c 0))
  | none => d

/-- R89: write a record at CQ_TAIL and interrupt by R90. -/
def Dev.putRecord (d : Dev) (c : Nat) (h : Held) : Dev :=
  let x := d.ctx c
  let tail := (x.cqTail + 1) % 2 ^ x.cqLog
  let d := d.emit (.record c (x.cqBase + 32 * x.cqTail) (slice h.bytes 0 31 ++ [BitVec.ofNat 8 (b2n x.phase)]))
  let d := d.setCtx c (fun x => { x with
    cqTail := tail
    phase := if tail = 0 then !x.phase else x.phase
    sinceIrq := x.sinceIrq + 1
    firstAt := if x.sinceIrq = 0 then d.now else x.firstAt })
  if d.bit R.CTX_MSIX.IRQ_EN c 0 &&
      (h.irq || decide (h.kind = .event) || decide (max 1 (d.get R.CTX_MSIX.COUNT c 0) ≤ (d.ctx c).sinceIrq)) then
    d.interrupt c
  else d

/-- R91: write held records while the ring has room. -/
def Dev.drainHold (d : Dev) (c : Nat) (fuel : Nat) : Dev :=
  match fuel with
  | 0 => d
  | n + 1 =>
    match (d.ctx c).hold with
    | [] => d
    | h :: r =>
      if (d.ctx c).enabled && !(d.ctx c).full then
        ((d.setCtx c (fun x => { x with hold := r })).putRecord c h).drainHold c n
      else d

/-- R91: a record replaced or refused in the hold. True when it is the first since CQ_OVF was cleared. -/
def Dev.lostRecord (d : Dev) (c : Nat) : Dev × Bool :=
  let first := !d.bit R.CTX_STATUS.CQ_OVF c 0
  ((d.addSat R.CTX_CQ_LOST.LOST c 0 1).set R.CTX_STATUS.CQ_OVF c 0 1, first)

/-- R91: put a record into the hold. -/
def Dev.hold (d : Dev) (c : Nat) (h : Held) : Dev × Bool :=
  let x := d.ctx c
  match h.kind with
  | .final => (d.setCtx c (fun x => { x with hold := x.hold ++ [h] }), false)
  | .runOf s =>
    if x.hold.any (fun y => decide (y.kind = .runOf s)) then
      let d := d.setCtx c (fun x => { x with hold := x.hold.map (fun y => if y.kind = .runOf s then h else y) })
      d.lostRecord c
    else (d.setCtx c (fun x => { x with hold := x.hold ++ [h] }), false)
  | .event =>
    if 64 ≤ (x.hold.filter (fun y => decide (y.kind = .event))).length then d.lostRecord c
    else (d.setCtx c (fun x => { x with hold := x.hold ++ [h] }), false)

/-- R112: the context is orphaned or being orphaned; its records are discarded. -/
def Dev.orphaned (d : Dev) (c : Nat) : Bool := decide ((d.ctx c).aborting = some 5)

/-- Deliver a record to context `c`: discarded, dropped, written or held (R89, R91, R112, R113). -/
def Dev.deliver (d : Dev) (c : Nat) (h : Held) : Dev × Bool :=
  if d.orphaned c || d.bit R.CTX_STATUS.HOST_LOST c 0 then (d.addSat R.CTX_CQ_LOST.LOST c 0 1, false)
  else
    let x := d.ctx c
    if x.enabled && x.hold.isEmpty && !x.full then (d.putRecord c h, false) else d.hold c h

/-- Bytes 0 to 30 of a completion record (Table 03-4). -/
def recordBytes (seq status sub promised actual resDa : Nat) (info : List Byte) : List Byte :=
  leBytes 4 seq ++ leBytes 2 status ++ leBytes 2 sub ++ leBytes 4 promised ++ leBytes 4 actual ++ leBytes 8 resDa ++
    slice info 0 7

/-- An event record for context `c` (R98). -/
def Dev.eventHeld (d : Dev) (c code status sub : Nat) (info : List Byte) (resDa : Nat) : Held :=
  let t := d.ctxNow c % 2 ^ 32
  ⟨.event, false, recordBytes 0xFFFFFFFF status sub t t resDa (BitVec.ofNat 8 code :: slice info 0 6)⟩

/-- Deliver to `c`, and post event 0x0A to CTX0 when R91 asks for it. -/
def Dev.post (d : Dev) (c : Nat) (h : Held) : Dev :=
  let r := d.deliver c h
  if r.2 then
    let e := r.1.eventHeld 0 0x0A 0 0 (leBytes 2 c) 0
    let r2 := r.1.deliver 0 e
    if r2.2 then (r2.1.deliver 0 (r2.1.eventHeld 0 0x0A 0 0 (leBytes 2 0) 0)).1 else r2.1
  else r.1

def Dev.event (d : Dev) (c code status sub : Nat) (info : List Byte) (resDa : Nat) : Dev :=
  d.post c (d.eventHeld c code status sub info resDa)

/-- Post an event to each of several contexts once. -/
def Dev.eventAll (d : Dev) (cs : List Nat) (code status sub : Nat) (info : List Byte) (resDa : Nat) : Dev :=
  (dedup cs).foldl (fun d c => d.event c code status sub info resDa) d

/-- Enabled contexts for which `p` holds, ascending. -/
def Dev.enabledCtxs (d : Dev) (p : Nat → Bool) : List Nat :=
  (d.ctxs.filter (fun x => x.2.enabled && p x.1)).map (·.1)

/-- Enabled contexts of partition `k`. -/
def Dev.partCtxs (d : Dev) (k : Nat) : List Nat := d.enabledCtxs (fun c => decide (d.ctxPart c = some k))

/-- Where events of boot-loaded safety work go (R434, R27). -/
def Dev.safeCtxs (d : Dev) : List Nat :=
  0 :: (match d.safePart with | some p => d.partCtxs p | none => [])

/-! ### Annals queue (R473, R476) -/

/-- T64 on TB0, 0 while it is disabled (Table 17-3). -/
def Dev.tb0Stamp (d : Dev) : Nat := if d.bit R.TB_CFG.EN 0 0 then d.tbVal 0 else 0

def Dev.uptime (d : Dev) : Nat := d.now - d.pwr.porAt

/-- Remove the newest queued record of class 4, 5 or 7. -/
def displace (q : List AnnRec) : Option (List AnnRec) :=
  let r := q.reverse
  if r.any (fun x => decide (x.cls = 4 ∨ x.cls = 5 ∨ x.cls = 7)) then
    let pre := r.takeWhile (fun x => !decide (x.cls = 4 ∨ x.cls = 5 ∨ x.cls = 7))
    some ((r.drop (pre.length + 1)).reverse ++ pre.reverse)
  else none

/-- Queue a record, or drop and count it. -/
def Dev.annal (d : Dev) (cls code source unit : Nat) (payload : List Byte) : Dev :=
  let r : AnnRec := ⟨cls, code, source, unit, d.tb0Stamp, d.uptime, slice payload 0 28⟩
  let drop : Dev := { d with ann := { d.ann with drops := d.ann.drops + 1 } }.set R.ANN_STATUS.LOST 0 0 1
  if d.ann.closed then drop
  else if d.ann.queue.length < 256 then { d with ann := { d.ann with queue := d.ann.queue ++ [r] } }
  else if cls = 1 then
    match displace d.ann.queue with
    | some q => { drop with ann := { drop.ann with queue := q ++ [r] } }
    | none => drop
  else drop

/-- UNIT field of an annals record: partition and instance (Table 17-3). -/
def annUnit (part inst : Nat) : Nat := part % 16 + 16 * (inst % 65536)

/-! ### Performance counters (R497 to R507) -/

/-- An occurrence: privilege class bit of R500, causing context, master block and unit, device address, array. -/
structure Occ where
  priv : Nat
  ctx : Option Nat
  blk : Nat
  unit : Nat
  addr : Option Nat
  array : Option Nat
  deriving DecidableEq, Repr

/-- R500, R497, R498: counter `n` passes an occurrence of class `c` and event `e`. -/
def Dev.counts (d : Dev) (n c e : Nat) (o : Occ) : Bool :=
  d.bit R.PMC_CTR_CFG.EN n 0 && decide (d.get R.PMC_CTR_CFG.CLASS n 0 = c) &&
  decide (d.get R.PMC_CTR_CFG.EVENT n 0 = e) &&
  (decide (64 ≤ n) || (decide (o.array = some (n / 16)) && !decide (c = 2 ∨ c = 3 ∨ c = 5))) &&
  bitOf (d.get R.PMC_CTR_CFG.PRIV n 0) o.priv &&
  (!d.bit R.PMC_CTR_CFG.OWN_EN n 0 || decide (o.ctx = some (d.get R.PMC_CTR_CFG.OWNER n 0))) &&
  (!d.bit R.PMC_CTR_CFG.MST_EN n 0 ||
    (decide (o.blk = d.get R.PMC_CTR_MST.MST_BLK n 0) &&
     decide (Nat.land o.unit (d.get R.PMC_CTR_MST.MST_MASK n 0) =
       Nat.land (d.get R.PMC_CTR_MST.MST_UNIT n 0) (d.get R.PMC_CTR_MST.MST_MASK n 0)))) &&
  (!d.bit R.PMC_CTR_CFG.ADR_EN n 0 ||
    (match o.addr with
     | some a => decide (d.get R.PMC_CTR_ALO.ADDR n 0 * 65536 ≤ a ∧ a < (d.get R.PMC_CTR_AHI.ADDR n 0 + 1) * 65536)
     | none => false))

def Dev.ctr (d : Dev) (n : Nat) : Ctr := (d.ctrs.lookup n).getD Ctr.reset

def Dev.setCtr (d : Dev) (n : Nat) (f : Ctr → Ctr) : Dev :=
  { d with ctrs := SMap.write Ctr.reset d.ctrs n (f (d.ctr n)) }

/-- R507: the samples that counter `n` owes. -/
def Dev.sample (d : Dev) (n : Nat) (o : Occ) (fuel : Nat) : Dev :=
  match fuel with
  | 0 => d
  | m + 1 =>
    let p := d.get R.PMC_CTR_PERIOD.PERIOD n 0
    let c := d.ctr n
    if p = 0 ∨ c.part < p then d
    else
      let ready := match c.lastAt with | none => true | some t => decide (t + 1000 ≤ d.now)
      if ready then
        let dst := if d.bit R.PMC_CTR_CFG.OWN_EN n 0 && d.bit R.CTX_CNT.USER_EN (d.get R.PMC_CTR_CFG.OWNER n 0) 0
          then d.get R.PMC_CTR_CFG.OWNER n 0 else 0
        let e := d.event dst 0x78 0 0 (leBytes 1 n ++ leBytes 4 c.missed) (o.addr.getD 0)
        (e.setCtr n (fun c => { c with part := c.part - p, missed := 0, lastAt := some d.now })).sample n o m
      else (d.setCtr n (fun c => { c with part := c.part - p, missed := c.missed + 1 })).sample n o m

/-- The counters that a write has configured. -/
def Dev.ctrsInUse (d : Dev) : List Nat :=
  (d.regs.filter (fun x => decide (0xF0100 ≤ x.1 ∧ x.1 < 0xF0100 + 0x20 * 128 ∧ (x.1 - 0xF0100) % 32 = 0))).map
    (fun x => (x.1 - 0xF0100) / 32)

/-- Count `k` occurrences (R498, R499). -/
def Dev.count (d : Dev) (c e k : Nat) (o : Occ) : Dev :=
  if d.bit R.PMC_CTRL.FREEZE 0 0 then d
  else
    (d.ctrsInUse.filter (fun n => d.counts n c e o)).foldl
      (fun d n => (d.setCtr n (fun x => { x with val := (x.val + k) % 2 ^ 64, part := x.part + k })).sample n o (k + 1)) d

/-! ### Requests and runs by name -/

def Dev.req (d : Dev) (id : Nat) : Option Req := d.reqs.find? (fun r => decide (r.id = id))

def Dev.setReq (d : Dev) (id : Nat) (f : Req → Req) : Dev :=
  { d with reqs := d.reqs.map (fun r => if r.id = id then f r else r) }

def Dev.run (d : Dev) (id : Nat) : Option Run := d.runs.find? (fun r => decide (r.id = id))

def Dev.setRun (d : Dev) (id : Nat) (f : Run → Run) : Dev :=
  { d with runs := d.runs.map (fun r => if r.id = id then f r else r) }

/-- The unit is fenced, or works below its floor (R463, R17). -/
def Dev.isFenced (d : Dev) (blk unit : Nat) : Bool := decide (⟨blk, unit⟩ ∈ d.spr.fenced)

/-- R463, R60: a step of run `run` that needs a fenced unit waits, and the wait is lateness of cause 2. -/
def Dev.unlessFenced (d : Dev) (run : Nat) (fenced : Bool) (next : Dev) : Dev :=
  if fenced then d.setRun run (fun r => { r with causes := if 2 ∈ r.causes then r.causes else r.causes ++ [2] }) else next

def Dev.wb (d : Dev) (slot : Nat) : Option Wb := d.wbs.find? (fun w => decide (w.slot = slot))

def Dev.entry (d : Dev) (slot : Nat) : Option Entry := d.cal.entries.find? (fun e => decide (e.slot = slot))

def Dev.setEntry (d : Dev) (slot : Nat) (f : Entry → Entry) : Dev :=
  { d with cal := { d.cal with entries := d.cal.entries.map (fun e => if e.slot = slot then f e else e) } }

def Dev.pcal (d : Dev) (p : Nat) : PartCal := (d.cal.parts[p]?).getD PartCal.reset

def Dev.setPcal (d : Dev) (p : Nat) (f : PartCal → PartCal) : Dev :=
  { d with cal := { d.cal with parts := modifyAt d.cal.parts p f } }

def Run.addCause (r : Run) (c : Nat) : Run := { r with causes := if c ∈ r.causes then r.causes else r.causes ++ [c] }

/-- Field of a descriptor (Table 03-3). -/
def dOpc (x : List Byte) : Nat := fieldAt x 0 2
def dFlags (x : List Byte) : Nat := fieldAt x 2 1
def dClass (x : List Byte) : Nat := fieldAt x 3 1
def dSeq (x : List Byte) : Nat := fieldAt x 4 4
def dHandle (x : List Byte) : Nat := fieldAt x 8 4
def dDeadline (x : List Byte) : Nat := fieldAt x 12 4
def dArg0 (x : List Byte) : Nat := fieldAt x 16 8
def dArg1 (x : List Byte) : Nat := fieldAt x 24 8
def dArg2 (x : List Byte) : Nat := fieldAt x 32 8
def dArg3 (x : List Byte) : Nat := fieldAt x 40 8
def dStart (x : List Byte) : Nat := fieldAt x 48 4
def dStop (x : List Byte) : Nat := fieldAt x 52 4
def dLen (x : List Byte) : Nat := fieldAt x 56 4
def dChk (x : List Byte) : Nat := fieldAt x 60 4

/-- Privilege bit of R500 for a CLASS value. -/
def privOf (cls : Nat) : Nat := min cls 2

/-- Host occurrences: block GLB, unit 0. -/
def hostOcc (c : Nat) (cls : Nat) : Occ := ⟨privOf cls, some c, 0, 0, none, none⟩

/-- Deliver the final records of a context that no earlier submission holds back any more (R34). -/
def Dev.flushFinals (d : Dev) (c : Nat) (fuel : Nat) : Dev :=
  match fuel with
  | 0 => d
  | n + 1 =>
    match minBy (fun x y => decide (x.2.1 < y.2.1)) (d.finals.filter (fun x => decide (x.1 = c))) with
    | none => d
    | some f =>
      if d.reqs.any (fun r => decide (r.ctx = c ∧ r.id < f.2.1)) then d
      else (({ d with finals := d.finals.filter (fun x => decide (x.2.1 ≠ f.2.1)) }.syncCtx c).post c f.2.2).flushFinals c n

/-- R97: give a request its final record and forget the request. `promised` is a T64 of the context's base, none where
no promise exists (R96). With one partition, records keep the order of submission (R34). -/
def Dev.finishReq (d : Dev) (r : Req) (status sub : Nat) (promised : Option Nat) (resDa : Nat) (info : List Byte) : Dev :=
  let t := d.ctxNow r.ctx
  let h : Held := ⟨.final, bitOf (dFlags r.desc) 2,
    recordBytes (dSeq r.desc) status sub ((promised.getD t) % 2 ^ 32) (t % 2 ^ 32) resDa info⟩
  let d := { d with reqs := d.reqs.filter (fun x => decide (x.id ≠ r.id)) }
  if d.parts = 1 then
    let d := { d with finals := d.finals ++ [(r.ctx, r.id, h)] }
    d.flushFinals r.ctx (d.finals.length + 1)
  else (d.syncCtx r.ctx).post r.ctx h

/-- A name for a new request, run, copy or tag. -/
def Dev.fresh (d : Dev) : Nat × Dev := (d.nextId, { d with nextId := d.nextId + 1 })

end Sys2Proof.Machine
end

