-- ==== Sys2Proof/Machine/Operands.lean ====
section
/-! DEFINITION. Device addresses, who may reach them, and reads and writes of memory with their error rules
(04_memory_tiers.md). -/

namespace Sys2Proof.Machine

/-! ### The address map (R115 to R119) -/

/-- Where a device address lies (Table 04-2). -/
inductive Rgn where
  | t0 (a off : Nat)
  | t1 (off : Nat)
  | t2 (s off : Nat)
  | peer (n off : Nat)
  | t3
  | hole
  deriving DecidableEq, Repr

def rgnOf (x : Nat) : Rgn :=
  if x < 0x8000000 then .t0 (x / 0x2000000) (x % 0x2000000)
  else if 0x10000000 ≤ x ∧ x < 0x16000000 then .t1 (x - 0x10000000)
  else if 0x800000000 ≤ x ∧ x < 0x1000000000 then .t2 ((x - 0x800000000) / 0x400000000) ((x - 0x800000000) % 0x400000000)
  else if 0x400000000000 ≤ x ∧ x < 0x500000000000 then
    .peer ((x - 0x400000000000) / 0x10000000000) ((x - 0x400000000000) % 0x10000000000)
  else if 0x800000000000 ≤ x ∧ x < 0x1000000000000 then .t3
  else .hole

/-- Tier number of an address, 0 to 3. -/
def tierOf (x : Nat) : Nat :=
  match rgnOf x with
  | .t0 _ _ => 0
  | .t1 _ => 1
  | .t2 _ _ => 2
  | _ => 3

def mib : Nat := 0x100000
def gib : Nat := 0x40000000

/-- Bytes of T0 that a window holds (R115), bytes of a slice (R117). -/
def t0Size : Nat := 24 * mib
def sliceSize : Nat := 6 * mib
def t1Size : Nat := 96 * mib
def stackSize : Nat := 16 * gib

/-- Device address of T0 offset 0 of slice `s` of array `a`. -/
def sliceBase (a s : Nat) : Nat := a * 0x2000000 + s * sliceSize

/-- Whether the range lies wholly in one range of Table 04-2, populated part (R116, R129, R397). -/
def oneRange (x n : Nat) : Bool :=
  match rgnOf x with
  | .t0 _ off => decide (off + n ≤ t0Size)
  | .t1 off => decide (off + n ≤ t1Size)
  | .t2 _ off => decide (off + n ≤ stackSize)
  | .peer _ off => decide (off + n ≤ 0x10000000000)
  | .t3 => decide (x + n ≤ 0x1000000000000)
  | .hole => false

/-- As oneRange, with the unpopulated part of a T0 window taken with it (R397). -/
def oneWindow (x n : Nat) : Bool :=
  match rgnOf x with
  | .t0 _ off => decide (off + n ≤ 0x2000000)
  | .t1 off => decide (off + n ≤ t1Size)
  | .t2 _ off => decide (off + n ≤ stackSize)
  | _ => false

/-- R28, R117 to R119: the range lies in partition `p`'s share. -/
def Dev.inShare (d : Dev) (p x n : Nat) : Bool :=
  match rgnOf x with
  | .t0 a off =>
    decide (off + n ≤ t0Size) &&
      (List.range 4).all (fun s =>
        decide (off + n ≤ s * sliceSize ∨ (s + 1) * sliceSize ≤ off) || decide (d.sliceOwner a s = p))
  | .t1 off =>
    decide (off + n ≤ t1Size ∧ p * (t1Size / d.parts) ≤ off ∧ off + n ≤ (p + 1) * (t1Size / d.parts))
  | .t2 _ off =>
    decide (off + n ≤ stackSize ∧ p * (stackSize / d.parts) ≤ off ∧ off + n ≤ (p + 1) * (stackSize / d.parts))
  | _ => false

/-- The partition whose share holds an address of T0 to T2. -/
def Dev.ownerOf (d : Dev) (x : Nat) : Option Nat := (List.range d.parts).find? (fun p => d.inShare p x 1)

/-- Who makes an access: partition, context of its T3 windows, run it belongs to, class and master for the counters. -/
structure Who where
  part : Nat
  ctx : Option Nat
  run : Option Nat
  priv : Nat
  blk : Nat
  unit : Nat
  array : Option Nat
  deriving DecidableEq, Repr

def Who.occ (w : Who) (x : Nat) : Occ := ⟨w.priv, w.ctx, w.blk, w.unit, some x, w.array⟩

/-- Device work on behalf of partition `p` without a request (R500, privilege bit 3). -/
def Who.device (p blk : Nat) : Who := ⟨p, none, none, 3, blk, 0, none⟩

/-- Why an access ends its request. -/
inductive AccErr where
  /-- R26, R116: ABORTED 0x0004. -/
  | blocked
  /-- R137: ERR_POISON with the tier, and the granule. -/
  | poison (tier addr : Nat)
  /-- R141 to R143: ERR_LOWER_TIER. -/
  | tier (failed : Bool) (tier addr : Nat)
  /-- R423: ERR_PEER. -/
  | peer (id : Nat)
  deriving DecidableEq, Repr

/-- STATUS, SUBCODE and INFO of a request that an access ends (Table 03-7). -/
def AccErr.status (e : AccErr) : Nat × Nat × List Byte :=
  match e with
  | .blocked => (0x30, 4, [])
  | .poison t a => (0x21, t, leBytes 6 a)
  | .tier f t a => (0x20, (if f then 0x200 else 0x100) + t, leBytes 6 a)
  | .peer i => (0x22, i, [])

/-- R24, R26: partition `p` has imported a window that covers the range and permits the access. -/
def Dev.inWindow (d : Dev) (p x n : Nat) (write : Bool) : Bool :=
  d.wins.any (fun w =>
    decide (w.decl.base ≤ x ∧ x + n ≤ w.decl.base + w.decl.bytes) &&
    d.wbs.any (fun b => decide (b.part = p) && b.wins.any (fun v => v.import_ && decide (v.num = w.decl.num))) &&
    (!write || bitOf w.decl.writers p))

/-- R121: host address of a T3 access of context `c`. -/
def Dev.t3Map (d : Dev) (c x n : Nat) (write : Bool) : Option Nat :=
  match (d.ctx c).t3w.find? (fun w => w.valid && decide (w.da ≤ x ∧ x < w.da + w.bytes)) with
  | some w => if decide (x + n ≤ w.da + w.bytes) && (if write then w.wr else w.rd) then some (w.iova + (x - w.da)) else none
  | none => none

/-- PEER_ID and PEER_EN of the fuses (Table 20-7). -/
def Dev.devId (d : Dev) : Nat := bitsOf (d.fuse 3) 12 9
def Dev.peerEn (d : Dev) : Bool := bitOf (d.fuse 3) 8

/-- R471: the range meets a retired bank or block. -/
def Dev.isRetired (d : Dev) (x n : Nat) : Bool :=
  d.mem.retired.any (fun r => decide (r.1 < x + n ∧ x < r.1 + r.2))

/-- R116: the access is not blocked. -/
def Dev.permits (d : Dev) (p : Nat) (c : Option Nat) (x n : Nat) (write : Bool) : Bool :=
  if n = 0 then true
  else match rgnOf x with
    | .hole => false
    | .t3 =>
      match c with
      | some k => decide (x + n ≤ 0x1000000000000) && (d.t3Map k x n write).isSome
      | none => false
    | .peer m off =>
      !(d.peerEn && decide (m = d.devId)) &&
        (match rgnOf off with
         | .t1 o => decide (o + n ≤ t1Size)
         | .t2 _ o => decide (o + n ≤ stackSize)
         | _ => false)
    | _ => (d.inShare p x n || d.inWindow p x n write) && !d.isRetired x n

def isT3 (x : Nat) : Bool := match rgnOf x with | .t3 => true | _ => false

/-- R100, R116: an address that a descriptor or record names. A window that the partition may only read is in its reach: a
write to it is blocked at the access (R26). -/
def Dev.inReach (d : Dev) (p : Nat) (c : Option Nat) (x n : Nat) (write : Bool) : Bool :=
  d.permits p c x n (write && isT3 x)

/-- R376: code and constant regions are write-protected against every source. -/
def Dev.isProtected (d : Dev) (x n : Nat) : Bool :=
  d.wbs.any (fun b => b.place.any (fun r => decide (r.kind = 1 ∨ r.kind = 2) && decide (r.da < x + n ∧ x < r.da + r.bytes)))

/-! ### Raw bytes -/

/-- R120: the T2 block of an address carries the zero mark. -/
def Mem.isZero (m : Mem) (x : Nat) : Bool :=
  m.zero.any (fun r => decide (r.1 ≤ x / 65536 ∧ x / 65536 < r.1 + r.2))

def Mem.byte (m : Mem) (x : Nat) : Byte := if m.isZero x then 0 else SMap.read 0 m.cells x

def Mem.bytes (m : Mem) (x n : Nat) : List Byte := (List.range n).map (fun i => m.byte (x + i))

def Mem.put (m : Mem) (x : Nat) (bs : List Byte) : Mem :=
  match bs with
  | [] => m
  | b :: r => Mem.put { m with cells := SMap.write 0 m.cells x b } (x + 1) r

/-- Forget every listed byte, poison mark and upset of a range: it reads zero and clean. -/
def Mem.wipe (m : Mem) (x n : Nat) : Mem :=
  { m with
    cells := m.cells.filter (fun c => !decide (x ≤ c.1 ∧ c.1 < x + n))
    poison := m.poison.filter (fun c => !decide (x / 64 ≤ c.1 ∧ c.1 < (x + n) / 64))
    upset := m.upset.filter (fun c => !decide (x / 64 ≤ c.1 ∧ c.1 < (x + n) / 64)) }

/-- Remove block `b` from a list of ranges of blocks. -/
def dropBlock (l : List (Nat × Nat)) (b : Nat) : List (Nat × Nat) :=
  l.flatMap (fun r =>
    if r.1 ≤ b ∧ b < r.1 + r.2 then
      (if r.1 < b then [(r.1, b - r.1)] else []) ++ (if b + 1 < r.1 + r.2 then [(b + 1, r.1 + r.2 - (b + 1))] else [])
    else [r])

/-- R120: the first write to a marked block writes zero to the rest of it and removes the mark. -/
def Mem.touch (m : Mem) (x : Nat) : Mem :=
  if m.isZero x then
    let m := m.wipe (x / 65536 * 65536) 65536
    { m with zero := dropBlock m.zero (x / 65536) }
  else m

def Mem.isPoison (m : Mem) (g : Nat) : Bool := SMap.read false m.poison g
def Mem.setPoison (m : Mem) (g : Nat) (v : Bool) : Mem := { m with poison := SMap.write false m.poison g v }
def Mem.upsetOf (m : Mem) (g : Nat) : Upset := SMap.read Upset.none m.upset g
def Mem.setUpset (m : Mem) (g : Nat) (u : Upset) : Mem := { m with upset := SMap.write Upset.none m.upset g u }

/-- The granules that a range touches. -/
def granules (x n : Nat) : List Nat :=
  if n = 0 then [] else (List.range ((x + n - 1) / 64 - x / 64 + 1)).map (fun i => x / 64 + i)

/-- T2 channel of an address: 16 × stack + offset[11:8] (R119). -/
def chanOf (x : Nat) : Nat :=
  match rgnOf x with
  | .t2 s off => 16 * s + off / 256 % 16
  | _ => 0

/-! ### Errors (R134 to R143) -/

/-- MEM_ERR_LOG. -/
def Dev.logMem (d : Dev) (kind tier x : Nat) : Dev :=
  (((d.set R.MEM_ERR_LOG.TIME 0 0 (d.tbVal 0)).set R.MEM_ERR_LOG.KIND 0 0 kind).set R.MEM_ERR_LOG.TIER 0 0 tier).set
    R.MEM_ERR_LOG.ADDR 0 0 x

def eccReg (tier : Nat) : Fld × Fld :=
  match tier with
  | 0 => (R.MEM_ECC_T0.CE, R.MEM_ECC_T0.UE)
  | 1 => (R.MEM_ECC_T1.CE, R.MEM_ECC_T1.UE)
  | _ => (R.MEM_ECC_T2.CE, R.MEM_ECC_T2.UE)

/-- Row base of an address for the thresholds of R463: 128 bytes of SRAM, a 64 KiB block of T2 (DEDUCED, unsafe, log entry 19). -/
def rowBase (x : Nat) : Nat := if tierOf x = 2 then x / 65536 * 65536 else x / 128 * 128

/-- Pool of a row and its instance (Table 17-1): the 64 KiB block for rows, the stack for DRAM. -/
def rowPool (x : Nat) : Nat × Nat :=
  match rgnOf x with
  | .t0 _ _ => (3, x / 65536)
  | .t1 _ => (5, x / 65536)
  | .t2 s _ => (8, s)
  | _ => (0, 0)

def Dev.syncSpr (d : Dev) : Dev :=
  (d.set R.SPR_STATUS.PENDING 0 0 (min 255 d.spr.queue.length)).set R.SPR_STATUS.FENCED 0 0 (min 255 d.spr.fenced.length)

/-- R463, R466: queue an eclipse request once per unit. -/
def Dev.requestEclipse (d : Dev) (pool inst unit : Nat) (hard : Bool) (part : Nat) : Dev :=
  if d.spr.queue.any (fun e => decide (e.pool = pool ∧ e.inst = inst ∧ e.unit = unit)) then d
  else
    let e : Eclipse := ⟨d.nextId, pool, inst, unit, hard, part, 0, none⟩
    let m : Maint := ⟨part, .eclipse d.nextId, (d.pcal part).orbits⟩
    { d with
      nextId := d.nextId + 1
      spr := { d.spr with queue := d.spr.queue ++ [e] }
      cal := { d.cal with maint := d.cal.maint ++ [m] } }.syncSpr

/-- R463: an SRAM row that reaches ROW_CE corrected errors, or holds an uncorrectable one, has a hard fault. -/
def Dev.rowFault (d : Dev) (x : Nat) : Dev :=
  d.requestEclipse (rowPool x).1 (rowPool x).2 (rowBase x) true ((d.ownerOf x).getD 0)

/-- R135, R140: one corrected error. -/
def Dev.corrected (d : Dev) (w : Who) (x : Nat) : Dev :=
  let d := (d.addSat (eccReg (tierOf x)).1 0 0 1).set R.MEM_STATUS.CE_SEEN 0 0 1
  let d := d.count 1 8 1 (w.occ x)
  let n := SMap.read 0 d.spr.rowCe (rowBase x) + 1
  let d := { d with spr := { d.spr with rowCe := SMap.write 0 d.spr.rowCe (rowBase x) n } }
  if max 1 (d.get R.SPR_THRESH.ROW_CE 0 0) ≤ n then d.rowFault x else d

/-- R136: poison a granule. -/
def Dev.poisonGranule (d : Dev) (g : Nat) : Dev :=
  let d := (d.addSat (eccReg (tierOf (g * 64))).2 0 0 1).set R.MEM_STATUS.UE_SEEN 0 0 1
  { d with mem := d.mem.setPoison g true }

/-- Late cause 0x3 of R60 for the run of an access. -/
def Dev.retried (d : Dev) (w : Who) : Dev :=
  match w.run with
  | some id => d.setRun id (fun r => r.addCause 3)
  | none => d

/-- R147: address of the twin granule of a safety constant. -/
def Dev.twinOf (d : Dev) (g : Nat) : Option Nat :=
  d.wbs.findSome? (fun b =>
    b.place.findSome? (fun r =>
      if bitOf r.flags 0 && decide (r.twin ≠ 0xFFFF) && decide (r.da ≤ g * 64 ∧ g * 64 < r.da + r.bytes) then
        (b.place[r.twin]?).map (fun t => (t.da + (g * 64 - r.da)) / 64)
      else none))

/-- A granule that ECC can deliver. -/
def Mem.readable (m : Mem) (g : Nat) : Bool :=
  !m.isPoison g && (match m.upsetOf g with | .multi _ => false | _ => true)

/-- R147: repair a granule from its twin, where there is a readable one. -/
def Dev.twinRepair (d : Dev) (g : Nat) : Option Dev :=
  match d.twinOf g with
  | some t =>
    if d.mem.readable t then
      let m := ((d.mem.put (g * 64) (d.mem.bytes (t * 64) 64)).setPoison g false).setUpset g .none
      some ({ d with mem := m }.set R.MEM_STATUS.TWIN_REPAIR 0 0 1)
    else none
  | none => none

/-- A lower tier that is late or failed ends the request (R141 to R143). -/
def Dev.tierErr (d : Dev) (failed : Bool) (tier x : Nat) : Dev × Option AccErr :=
  let d := if failed then d.set R.MEM_STATUS.LT_FAIL 0 0 1 else d.set R.MEM_STATUS.LT_LATE 0 0 1
  (d.logMem (if failed then 5 else 4) tier x, some (.tier failed tier x))

/-- A read check of granule `g` (R135 to R143, R147): the state after correction, re-reads, repair or poisoning. -/
def Dev.checkGranule (d : Dev) (w : Who) (g : Nat) : Dev × Option AccErr :=
  let x := g * 64
  if d.mem.isZero x then (d, none)
  else
    match (if tierOf x = 2 then SMap.read Chan.ok d.mem.chan (chanOf x) else .ok) with
    | .failed => d.tierErr true 2 x
    | .late => d.tierErr false 2 x
    | .ok =>
      let dead (d : Dev) : Dev × Option AccErr :=
        match d.twinRepair g with
        | some e => (e.retried w, none)
        | none => (d.logMem 1 (tierOf x) x, some (.poison (tierOf x) x))
      if d.mem.isPoison g then dead d
      else match d.mem.upsetOf g with
        | .none => (d, none)
        | .single => (({ d with mem := d.mem.setUpset g .none }).corrected w x, none)
        | .multi n =>
          if tierOf x = 2 then
            if n = 1 ∨ n = 2 then
              ((({ d with mem := d.mem.setUpset g .none }.corrected w x).count 1 9 n (w.occ x)).retried w, none)
            else
              let d := d.count 1 9 2 (w.occ x)
              match d.twinRepair g with
              | some e => (e.retried w, none)
              | none => ((d.poisonGranule g).rowFault x |>.logMem 1 2 x, some (.poison 2 x))
          else ((d.poisonGranule g).rowFault x |>.logMem 1 (tierOf x) x, some (.poison (tierOf x) x))

/-- Check granules in order up to the first that ends the request. -/
def Dev.checkAll (d : Dev) (w : Who) (gs : List Nat) : Dev × Option AccErr :=
  match gs with
  | [] => (d, none)
  | g :: r =>
    match d.checkGranule w g with
    | (e, none) => e.checkAll w r
    | (e, some x) => (e, some x)

/-- Read `n` bytes of T0 to T2 that the source may reach. -/
def Dev.readDev (d : Dev) (w : Who) (x n : Nat) : Dev × Except AccErr (List Byte) :=
  if d.permits w.part w.ctx x n false then
    match d.checkAll w (granules x n) with
    | (e, none) => (e.count 1 (tierOf x) n (w.occ x), .ok (e.mem.bytes x n))
    | (e, some er) => (e, .error er)
  else (d, .error .blocked)

/-- R137: write the part `bs` at `x` of granule `x / 64`. -/
def Dev.writeGranule (d : Dev) (w : Who) (x : Nat) (bs : List Byte) : Dev × Option AccErr :=
  let g := x / 64
  let whole := decide (bs.length = 64)
  let marked := d.mem.isZero x
  let put (d : Dev) : Dev := { d with mem := (d.mem.touch x).put x bs }
  if marked then (put d, none)
  else
    match (if tierOf x = 2 then SMap.read Chan.ok d.mem.chan (chanOf x) else .ok) with
    | .failed => d.tierErr true 2 x
    | .late => d.tierErr false 2 x
    | .ok =>
      if whole then (put { d with mem := (d.mem.setPoison g false).setUpset g .none }, none)
      else
        match d.checkGranule w g with
        | (e, none) => (put e, none)
        | (e, some er) => (e, some er)

/-- Split a write into its parts by granule. -/
def splitWrite (x : Nat) (bs : List Byte) (fuel : Nat) : List (Nat × List Byte) :=
  match fuel with
  | 0 => []
  | n + 1 =>
    if bs.isEmpty then []
    else
      let k := 64 - x % 64
      (x, bs.take k) :: splitWrite (x + k) (bs.drop k) n

def Dev.writeParts (d : Dev) (w : Who) (ps : List (Nat × List Byte)) : Dev × Option AccErr :=
  match ps with
  | [] => (d, none)
  | p :: r =>
    match d.writeGranule w p.1 p.2 with
    | (e, none) => e.writeParts w r
    | (e, some x) => (e, some x)

/-- Write bytes of T0 to T2 without the tests of R116 and R376: installation, purges, repairs. -/
def Dev.writeRaw (d : Dev) (w : Who) (x : Nat) (bs : List Byte) : Dev × Option AccErr :=
  d.writeParts w (splitWrite x bs (bs.length + 1))

/-- Write bytes at a device address the source may write; T3 writes leave as posted writes (R123, R142). -/
def Dev.write (d : Dev) (w : Who) (x : Nat) (bs : List Byte) : Dev × Option AccErr :=
  if bs.isEmpty then (d, none)
  else if !d.permits w.part w.ctx x bs.length true || d.isProtected x bs.length then (d, some .blocked)
  else
    let d := d.count 1 (4 + tierOf x) bs.length (w.occ x)
    match rgnOf x with
    | .t3 =>
      match w.ctx with
      | some c =>
        match d.t3Map c x bs.length true with
        | some io => ((d.emit (.t3 io bs)).count 5 0 1 (w.occ x), none)
        | none => (d, some .blocked)
      | none => (d, some .blocked)
    | .peer _ _ => (d, some .blocked)
    | _ => d.writeRaw w x bs

/-- What the host answers for `n` bytes from an IOVA (R123, R138, R142, R143). -/
def hostRead (h : HostView) (da iova n : Nat) : Except AccErr (List Byte) :=
  let bs := (List.range n).map (fun i => h.lookup (iova + i))
  match bs.findIdx? (fun b => match b with | some (.ok _) => false | _ => true) with
  | none => .ok (bs.map (fun b => match b with | some (.ok v) => v | _ => 0))
  | some i =>
    match bs[i]? with
    | some (some .poisoned) => .error (.poison 3 ((da + i) / 64 * 64))
    | some (some .late) => .error (.tier false 3 (da + i))
    | _ => .error (.tier true 3 (da + i))

/-- Note a T3 error in MEM_STATUS and MEM_ERR_LOG. -/
def Dev.noteT3 (d : Dev) (e : AccErr) : Dev :=
  match e with
  | .poison t a => d.logMem 6 t a
  | .tier f t a => (d.tierErr f t a).1
  | _ => d

/-- Read `n` bytes at any device address a single access reaches; T3 bytes come from the host's answer. -/
def Dev.read (d : Dev) (w : Who) (h : HostView) (x n : Nat) : Dev × Except AccErr (List Byte) :=
  match rgnOf x with
  | .t3 =>
    match w.ctx with
    | some c =>
      if n = 0 then (d, .ok [])
      else match d.t3Map c x n false with
        | some io =>
          match hostRead h x io n with
          | .ok bs => (d.count 1 3 n (w.occ x), .ok bs)
          | .error e => (d.noteT3 e, .error e)
        | none => (d, .error .blocked)
    | none => (d, .error .blocked)
  | .peer _ _ => (d, .error .blocked)
  | _ => d.readDev w x n

/-- Reads and writes in a row: stop at the first error. -/
def Dev.writeList (d : Dev) (w : Who) (ps : List (Nat × List Byte)) : Dev × Option AccErr :=
  match ps with
  | [] => (d, none)
  | p :: r =>
    match d.write w p.1 p.2 with
    | (e, none) => e.writeList w r
    | (e, some x) => (e, some x)

/-- R108: zero the T0 and T1 shares of a partition and mark its T2 share. -/
def Dev.purgeMem (d : Dev) (p : Nat) : Dev :=
  let m := (List.range 4).foldl (fun m a =>
    (d.slicesOf a p).foldl (fun (m : Mem) s => m.wipe (sliceBase a s) sliceSize) m) d.mem
  let m := m.wipe (0x10000000 + p * (t1Size / d.parts)) (t1Size / d.parts)
  let n := stackSize / d.parts / 65536
  let b0 := (0x800000000 + p * (stackSize / d.parts)) / 65536
  let b1 := (0xC00000000 + p * (stackSize / d.parts)) / 65536
  let keep := m.zero.filter (fun r => !decide ((b0 ≤ r.1 ∧ r.1 < b0 + n) ∨ (b1 ≤ r.1 ∧ r.1 < b1 + n)))
  { d with mem := { m with zero := keep ++ [(b0, n), (b1, n)] } }

/-- Memory keeps its canonical form: addresses rise strictly and no listed byte is 0. -/
def Mem.wf (m : Mem) : Bool := SMap.canonical 0 m.cells

end Sys2Proof.Machine
end

