-- ==== Sys2Proof/Machine/Flags.lean ====
section
/-! DEFINITION. The signal network: flags and barrier trees (R387 to R390), messages to
peers, wake requests, and the relay of flags (R416, R424, R427). -/

namespace Sys2Proof.Machine

def Dev.flag (d : Dev) (i : Nat) : Bool := SMap.read false d.flags i

def Dev.putFlag (d : Dev) (i : Nat) (v : Bool) : Dev := { d with flags := SMap.write false d.flags i v }

/-- A flag index in the partition's share. -/
def Dev.ownFlag (d : Dev) (p i : Nat) : Bool :=
  decide ((d.flagShare p).1 ≤ i ∧ i < (d.flagShare p).1 + (d.flagShare p).2)

/-- R388: partition `p` may read or wait on flag `i`. -/
def Dev.flagReadable (d : Dev) (p i : Nat) : Bool :=
  let s := d.flagShare p
  decide (s.1 ≤ i ∧ i < s.1 + s.2) ||
  d.wins.any (fun w =>
    decide (w.decl.ffirst ≤ i ∧ i < w.decl.ffirst + w.decl.fcount) &&
    (decide (w.owner = p) ||
      d.wbs.any (fun b => decide (b.part = p) && b.wins.any (fun v => v.import_ && decide (v.num = w.decl.num)))))

/-- R388: partition `p` may set or clear flag `i`. -/
def Dev.flagWritable (d : Dev) (p i : Nat) : Bool :=
  let s := d.flagShare p
  decide (s.1 ≤ i ∧ i < s.1 + s.2) ||
  d.wins.any (fun w =>
    decide (w.decl.ffirst ≤ i ∧ i < w.decl.ffirst + w.decl.fcount) &&
    (decide (w.owner = p) || bitOf w.decl.writers p))

/-- Members reached (PLK_GSTAT.REACH). -/
def Dev.reaches (d : Dev) (n : Nat) : Bool := bitOf (d.get R.PLK_GSTAT.REACH 0 0) n

/-- A message of more than 228 bytes spans several flits (R411). -/
def flitsOf (n : Nat) : Nat := max 1 (ceilDiv n 228)

/-- First hop port of the route to a member (R416): a new route takes over once nothing sent on the old one is outstanding
(R417). -/
def Dev.firstHop (d : Dev) (n : Nat) : Option Nat :=
  let old := (d.plk.routes.lookup n).getD []
  match d.plk.nextRoutes.lookup n with
  | some r => if d.plk.ops.any (fun o => decide (o.member = n)) then old.head? else r.head?
  | none => old.head?

/-- R417: a new route to a member comes into force once nothing sent on the old one is outstanding. -/
def Dev.promote (d : Dev) (n : Nat) : Dev :=
  match d.plk.nextRoutes.lookup n with
  | some r =>
    if d.plk.ops.any (fun o => decide (o.member = n)) then d
    else { d with plk := { d.plk with routes := SMap.put d.plk.routes n r, nextRoutes := SMap.erase d.plk.nextRoutes n } }
  | none => d

/-- Send a message of a class to a member on its route: it is kept in the replay buffer of the first port (R412). -/
def Dev.peerSend (d : Dev) (dst tag cls : Nat) (bytes : List Byte) : Dev :=
  let d := (d.promote dst).emit (.peer dst tag cls bytes)
  let d := d.count 5 1 (flitsOf bytes.length) ⟨3, none, 0x0B, (d.firstHop dst).getD 0, none, none⟩
  match d.firstHop dst with
  | some p =>
    { d with plk := { d.plk with ports := modifyAt d.plk.ports p (fun x =>
        { x with
          txSeq := (x.txSeq + flitsOf bytes.length) % 4096
          replay := (x.replay ++ [(x.txSeq, dst, tag, cls, bytes)]).drop (x.replay.length + 1 - 512) }) } }
  | none => d

def Dev.topo (d : Dev) : Nat := d.get R.PLK_GROUP.TOPO 0 0

def Dev.isMember (d : Dev) (n : Nat) : Bool := bitOf (d.get R.PLK_GROUP.MEMBERS 0 0) n

/-- Reachable members, ascending; the device itself is one. -/
def Dev.reached (d : Dev) : List Nat := onesOf (d.get R.PLK_GSTAT.REACH 0 0) 16

/-- R426: the reachable member with the lowest ID. -/
def Dev.leader (d : Dev) : Nat := d.reached.headD d.devId

/-- The next reachable member in ascending ID, wrapping. -/
def Dev.nextMember (d : Dev) (n : Nat) : Nat :=
  match d.reached.find? (fun m => decide (n < m)) with
  | some m => m
  | none => d.reached.headD n

/-- Put a port in a state, with event 0x60 (R431). -/
def Dev.setPort (d : Dev) (p st cause : Nat) : Dev :=
  let old := d.get R.PLK_PORT_STAT.STATE p 0
  let d := (d.set R.PLK_PORT_STAT.STATE p 0 st).set R.PLK_PORT_STAT.DOWN_CAUSE p 0 cause
  if old = st then d else d.event 0 0x60 0 0 ((leBytes 1 p) ++ leBytes 1 st ++ leBytes 1 old ++ leBytes 1 cause) 0

def Dev.portState (d : Dev) (p : Nat) : Nat := d.get R.PLK_PORT_STAT.STATE p 0

/-- A message on one port to its neighbour, outside any route (R414, R427): identity and wake. -/
def Dev.portSend (d : Dev) (p cls : Nat) (bytes : List Byte) : Dev :=
  (d.emit (.peer (d.get R.PLK_PORT_STAT.NEIGHBOUR p 0) p cls bytes)).count 5 1 1 ⟨3, none, 0x0B, p, none, none⟩

/-- Every port leaves QUIET (R427); the wake pattern goes out on the ports `out`. -/
def Dev.wakePorts (d : Dev) (waker : Nat) (out : List Nat) : Dev :=
  let quiet := below 4 (fun p => decide (d.portState p = 4))
  let d := quiet.foldl (fun d p =>
    let d := if p ∈ out then d.portSend p 10 (leBytes 1 waker) else d
    let d := d.setPort p 3 0
    { d with plk := { d.plk with ports := modifyAt d.plk.ports p (fun x => { x with upSince := some d.now }) } }) d
  let d := d.set R.PLK_GSTAT.QUIET 0 0 0
  let d := { d with plk := { d.plk with lap := 0, voted := false, wakeLatched := false, quietSince := none } }
  d.event 0 0x63 0 0 (leBytes 1 0 ++ leBytes 1 waker) 0

/-- R427, Table 15-6: something is to be sent. -/
def Dev.wakeRequest (d : Dev) : Dev :=
  if d.topo = 0 then d
  else if d.bit R.PLK_GSTAT.QUIET 0 0 then d.wakePorts d.devId [0, 1, 2, 3]
  else
    let d : Dev := { d with plk := { d.plk with quietSince := none } }
    if d.plk.voted then
      let d : Dev := { d with plk := { d.plk with wakeLatched := true } }
      if d.leader = d.devId then (if d.plk.lap = 1 then { d with plk := { d.plk with lap := 0, voted := false, wakeLatched := false } } else d)
      else d.peerSend d.leader 0 8 (leBytes 1 d.devId ++ leBytes 1 2)
    else d

/-- A relay, a search fan-out or a safety message: a wake request, then the message (R427). -/
def Dev.wakeSend (d : Dev) (dst tag cls : Nat) (bytes : List Byte) : Dev := d.wakeRequest.peerSend dst tag cls bytes

/-- R424: the relays of a local flag that went from 0 to 1. -/
def Dev.relays (d : Dev) (i : Nat) : Dev :=
  (List.range 64).foldl (fun d r =>
    if d.bit R.PLK_RELAY.EN r 0 && decide (d.get R.PLK_RELAY.LOCAL r 0 = i) then
      d.wakeSend (d.get R.PLK_RELAY.DEV r 0) 0 5 (leBytes 2 (d.get R.PLK_RELAY.REMOTE r 0))
    else d) d

/-- R457: a mirrored slot that this device has consumed is returned to its home. -/
def Dev.returnSlot (d : Dev) (i : Nat) : Dev :=
  d.saf.chans.foldl (fun d c => (List.range 5).foldl (fun d m =>
    let e := slice c.blk (48 + 16 * m) 16
    let ld := d.mem.bytes (fieldAt e 8 8) 64
    let first := fieldAt ld 18 2
    if bitOf (fieldAt c.blk 1 1) 0 && decide (fieldAt e 0 2 ≠ 0xFFFF ∧ fieldAt e 2 1 = 1 ∧ first ≤ i ∧ i < first + fieldAt ld 2 1) then
      d.wakeSend (fieldAt c.blk 3 1) 0 9 (leBytes 2 (fieldAt e 0 2) ++ leBytes 2 (i - first))
    else d) d) d

/-- R389: a flag write takes effect. -/
def Dev.writeFlag (d : Dev) (o : Occ) (i : Nat) (v : Bool) : Dev :=
  let rise := v && !d.flag i
  let d := (d.putFlag i v).count 2 0 1 o
  if rise then (d.relays i).returnSlot i else d

/-- Flag occurrence of device work for partition `p`. -/
def flagOcc (p : Nat) : Occ := ⟨3, none, 0, p, none, none⟩

def Dev.tree (d : Dev) (t : Nat) : Barrier := SMap.read Barrier.reset d.trees t

def Dev.setTree (d : Dev) (t : Nat) (b : Barrier) : Dev := { d with trees := SMap.write Barrier.reset d.trees t b }

/-- R391: clear `n` flags from `i`. -/
def Dev.clearFlags (d : Dev) (i n : Nat) : Dev :=
  { d with flags := d.flags.filter (fun x => !decide (i ≤ x.1 ∧ x.1 < i + n)) }

end Sys2Proof.Machine
end

