-- ==== Sys2Proof/Machine/Unload.lean ====
section
/-! DEFINITION. What the engines keep of a loaded workbook and how it goes: tracks, map, indices. -/

namespace Sys2Proof.Machine

/-! ### Tracks -/

def Dev.track (d : Dev) (t : Nat) : Option Track := d.tracks.find? (fun k => decide (k.num = t))

def Track.maskBits (k : Track) : Nat :=
  (List.range k.srcs.length).foldl (fun m i => if ((k.srcs[i]?).bind (·.cause)).isSome then m + 2 ^ i else m) 0

/-- FTE_TRACK_STAT and FTE_TRACK_MASK. -/
def Dev.syncTrack (d : Dev) (t : Nat) : Dev :=
  match d.track t with
  | some k =>
    (((d.set R.FTE_TRACK_STAT.VALID t 0 1).set R.FTE_TRACK_STAT.COMET_OFF t 0 (b2n k.cometOff)).set
      R.FTE_TRACK_STAT.STATE t 0 k.state).set R.FTE_TRACK_MASK.MASK t 0 k.maskBits
  | none => (d.set R.FTE_TRACK_STAT.VALID t 0 0).set R.FTE_TRACK_MASK.MASK t 0 0

/-- The tracks of a workbook go with it. -/
def Dev.unloadTracks (d : Dev) (wb : Nat) : Dev :=
  let gone := (d.tracks.filter (fun k => decide (k.wb = wb))).map (·.num)
  gone.foldl (fun d t => d.syncTrack t) { d with tracks := d.tracks.filter (fun k => decide (k.wb ≠ wb)) }

/-! ### The map -/

/-- R273, R428: map authority. -/
def Dev.hasAuthority (d : Dev) : Bool := decide (d.get R.PLK_GROUP.TOPO 0 0 = 0) || d.bit R.PLK_GSTAT.AUTH 0 0

def Dev.shard (d : Dev) : Nat := if d.peerEn then d.devId else 0

/-- The map registers without a map. -/
def Dev.clearMapRegs (d : Dev) : Dev :=
  let d := (((d.set R.MAP_STATUS.VALID 0 0 0).set R.MAP_STATUS.AUTH 0 0 (b2n d.hasAuthority)).set
    R.MAP_STATUS.COMMIT_BUSY 0 0 0).set R.MAP_STATUS.REBUILD 0 0 0
  let d := ((d.set R.MAP_EPOCH.EPOCH 0 0 0).set R.MAP_RETIRED.RETIRED 0 0 0).set R.MAP_KF_USED.USED 0 0 0
  let d := ((d.set R.MAP_LM_USED.USED 0 0 0).set R.MAP_VOX_USED.LIVE 0 0 0).set R.MAP_VOX_TAB.TAB_LOG2 0 0 0
  (d.set R.MAP_VOX_TAB.SHADOW_LOG2 0 0 0).set R.MAP_JOURNAL.ENTRIES 0 0 0

/-- The map of a workbook goes with it. -/
def Dev.unloadMap (d : Dev) (wb : Nat) : Dev :=
  match d.map with
  | some m =>
    if m.wb = wb then
      { d with
        map := none
        cal := { d.cal with maint := d.cal.maint.filter (fun m => decide (m.kind ≠ MaintKind.mapRebuild)) } }.clearMapRegs
    else d
  | none => d

/-! ### Indices -/

/-- PSE_INDEX_STAT and its neighbours of a slot without an index. -/
def Dev.clearIdxRegs (d : Dev) (slot : Nat) : Dev :=
  let d := (((d.set R.PSE_INDEX_STAT.reg slot 0 0).set R.PSE_INDEX_ID.INDEX_ID slot 0 0).set
    R.PSE_INDEX_EPOCH.EPOCH slot 0 0).set R.PSE_INDEX_LIVE.LIVE slot 0 0
  d.set R.PSE_INDEX_FRESH.FRESH slot 0 0

/-- The indices of a workbook go with it, and their rebuilds. -/
def Dev.unloadIndices (d : Dev) (wb : Nat) : Dev :=
  let gone := (d.idxs.filter (fun x => decide (x.wb = wb))).map (·.slot)
  let d : Dev := { d with
    idxs := d.idxs.filter (fun x => decide (x.wb ≠ wb))
    cal := { d.cal with maint := d.cal.maint.filter (fun m => !gone.any (fun s => decide (m.kind = .rebuild s))) } }
  gone.foldl (fun d s => d.clearIdxRegs s) d

end Sys2Proof.Machine
end

