-- ==== Sys2Proof/Machine/Runs.lean ====
section
/-! DEFINITION. Runs and entries: how they end, what they leave, and the unloading of a workbook (R27, R58 to R64, R75,
R97, R102, R103, R375, R391). -/

namespace Sys2Proof.Machine

/-- A T64 of partition `p`'s schedule base as a T64 of the base of context `c`, by the present difference of the two
bases (R96, R153; DEDUCED, unsafe, log entry 20). A context whose base is disabled gets the held value (R152). -/
def Dev.toCtx (d : Dev) (c p t : Nat) : Nat :=
  if d.bit R.TB_CFG.EN (d.ctx c).tb 0 = false then d.ctxNow c
  else if (d.ctx c).tb = d.schedTb p then t else (d.ctxNow c + t) - d.schedNow p

/-- The other direction (R50, R56). -/
def Dev.fromCtx (d : Dev) (c p t : Nat) : Nat :=
  if (d.ctx c).tb = d.schedTb p then t else (d.schedNow p + t) - d.ctxNow c

def Wb.job? (w : Wb) (j : Nat) : Option Job := w.jobs.find? (fun x => decide (x.num = j))
def Wb.cost? (w : Wb) (j : Nat) : Option CostVec := w.costs.find? (fun x => decide (x.job = j))

/-- R77: the L4 demand of a job with PEER set, on the ports of the new routes. -/
def Dev.onNewPorts (d : Dev) (v : CostVec) : CostVec :=
  if bitOf v.flags 2 && !d.cal.lostPorts.isEmpty then
    { v with recs := v.recs.map (fun r =>
        match (if r.res / 64 = 0x0C then d.cal.lostPorts.lookup (r.res % 64) else none) with
        | some (some q) => { r with res := 64 * 0x0C + q }
        | _ => r) }
  else v

def Dev.costOf (d : Dev) (wb job : Nat) : CostVec :=
  d.onNewPorts ((((d.wb wb).bind (fun w => w.cost? job))).getD ⟨job, 0, 0, [], []⟩)

def Dev.jobOf (d : Dev) (wb job : Nat) : Option Job := (d.wb wb).bind (fun w => w.job? job)

/-- Who a run is as a source of accesses. -/
def Run.who (r : Run) (blk unit : Nat) (array : Option Nat) : Who :=
  ⟨r.part, r.ctx, some r.id, b2n r.safety, blk, unit, array⟩

def Run.occ (r : Run) : Occ := ⟨b2n r.safety, r.ctx, 1, 0, none, none⟩

/-- SEQ_STREAM_STAT of stream `q` of array `a`. -/
def Dev.syncStream (d : Dev) (a q : Nat) : Dev :=
  let rs := d.runs.filter (fun r => r.started.isSome && r.streams.any (fun s => decide (s.array = a ∧ s.q = q) && !s.ended))
  let ss := rs.flatMap (fun r => r.streams.filter (fun s => decide (s.array = a ∧ s.q = q) && !s.ended))
  let st : Nat := match ss.find? (fun s => s.inStep) with
    | some s => (match s.wait with | .none => 1 | .flag .. => 2 | .barrier .. => 3 | .op => 4 | .spec => 5 | .fault => 6)
    | none => 0
  let spec := ss.foldl (fun m s => match s.spec with | some x => Nat.lor m (2 ^ x.seg) | none => m) 0
  let busy := ((List.range 4).filter (fun k => d.runs.any (fun r => r.streams.any (fun s =>
    decide (s.array = a ∧ k ∈ d.slicesOf a r.part) &&
      s.ops.any (fun o => let op := bitsOf o.word 63 56; decide (op = 0x20 ∨ (0x30 ≤ op ∧ op ≤ 0x37))))))).foldl
    (fun m k => m + 2 ^ k) 0
  let d := d.set R.TA_STATUS.BUSY a 0 busy
  (((d.set R.SEQ_STREAM_STAT.RUNS a q rs.length).set R.SEQ_STREAM_STAT.SPEC a q spec).set
    R.SEQ_STREAM_STAT.STATE a q st).set R.SEQ_STREAM_STAT.PART a q ((d.streamPart a q).getD 0)

/-- R463: the island's next self-test decides whether its fault is a hard one. -/
def Dev.suspect (d : Dev) (i : Island) : Dev :=
  if i ∈ d.spr.suspects then d else { d with spr := { d.spr with suspects := d.spr.suspects ++ [i] } }

/-- Stop everything that belongs to a run (R374, R386, R423). -/
def Dev.stopRun (d : Dev) (id : Nat) : Dev :=
  let places : List (Nat × Nat) := match d.run id with | some r => r.streams.map (fun s => (s.array, s.q)) | none => []
  let d : Dev := { d with
    runs := d.runs.filter (fun r => decide (r.id ≠ id))
    movers := (d.movers.map (fun m => (m.1, m.2.filter (fun c => decide (c.run ≠ id))))).filter (fun m => !m.2.isEmpty)
    t3reads := d.t3reads.filter (fun t => decide (t.run ≠ id))
    trees := d.trees.filter (fun t => decide (t.2.run ≠ some id))
    searches := d.searches.filter (fun x => decide (x.run ≠ id))
    plk := { d.plk with ops := d.plk.ops.filter (fun o => decide (o.run ≠ id)) } }
  places.foldl (fun d p => d.syncStream p.1 p.2) d

def Dev.syncEntries (d : Dev) (p : Nat) : Dev :=
  let d := d.set R.CAL_PSTAT.ENTRIES p 0 ((d.cal.entries.filter (fun e => decide (e.part = p))).length)
  d.set R.CAL_STATUS.LEAP_CNT 0 0 ((d.cal.entries.filter (fun e => e.leaping)).length)

/-- Contexts that receive the events of an entry: its own and CTX0, or those of a boot entry (R98, R434). -/
def Dev.entryCtxs (d : Dev) (e : Entry) : List Nat :=
  match e.ctx with
  | some c => [c, 0]
  | none => d.safeCtxs

/-- R97: a record of an entry, if it has an admitting context. -/
def Dev.entryRecord (d : Dev) (e : Entry) (kind : RecKind) (status sub : Nat) (prom : Option Nat) (resDa : Nat)
    (info : List Byte) : Dev :=
  match e.ctx with
  | some c =>
    let t := d.ctxNow c
    d.post c ⟨kind, false,
      recordBytes e.seq status sub (((prom.map (d.toCtx c e.part)).getD t) % 2 ^ 32) (t % 2 ^ 32) resDa info⟩
  | none => d

/-- Close one exported window (R27): event 0x04 for each workbook that imports it. -/
def Dev.closeWin (d : Dev) (w : Win) : Dev :=
  let imps := d.wbs.filter (fun b => b.wins.any (fun v => v.import_ && decide (v.num = w.decl.num)))
  let d := { d with wins := d.wins.filter (fun x => decide (x.decl.num ≠ w.decl.num)) }
  imps.foldl (fun d b =>
    let cs := match b.ctx with | some c => [c] | none => 0 :: d.partCtxs b.part
    d.eventAll cs 0x04 0x30 4 (leBytes 1 w.decl.num) 0) d

/-- What the CALIB blocks of a workbook put in force goes with it (R403, R406). -/
def Dev.unloadEngines (d : Dev) (slot : Nat) : Dev :=
  let gone := d.saf.chans.filter (fun c => decide (c.wb = slot))
  let d := gone.foldl (fun d c => d.set R.SAF_CHAN_STAT.VALID c.num 0 0) d
  let d : Dev := { d with saf := { d.saf with chans := d.saf.chans.filter (fun c => decide (c.wb ≠ slot)) } }
  ((d.unloadTracks slot).unloadMap slot).unloadIndices slot

/-- R27, R102, R391: unload a workbook. -/
def Dev.unload (d : Dev) (w : Wb) : Dev :=
  let d := (d.wins.filter (fun x => decide (x.wb = w.slot))).foldl (fun d x => d.closeWin x) d
  let d := w.franges.foldl (fun d f => d.clearFlags f.first f.count) d
  let d := { d with trees := d.trees.filter (fun t => !w.trees.any (fun x => decide (x.tree = t.1))) }
  let d := d.unloadEngines w.slot
  { d with wbs := d.wbs.filter (fun x => decide (x.slot ≠ w.slot)) }

/-- Requests in flight that use a workbook: by its handle, its indices or its map. -/
def Dev.wbBusy (d : Dev) (slot : Nat) : Bool :=
  d.cal.entries.any (fun e => decide (e.wb = slot)) ||
  d.reqs.any (fun r =>
    decide (dOpc r.desc ∈ [0x10, 0x12, 0x20, 0x30, 0x40, 0x60] ∧ dHandle r.desc % 256 = slot) ||
    (decide (dOpc r.desc ∈ [0x41, 0x42, 0x43]) &&
      d.idxs.any (fun x => decide (x.wb = slot ∧ fieldAt x.blk 4 4 = dArg1 r.desc % 2 ^ 32))) ||
    (decide (dOpc r.desc = 0x50) && d.map.any (fun m => decide (m.wb = slot))))

/-- Requests that wait for the end of an entry or of a workbook's work complete (R102, R103). -/
def Dev.settleWaits (d : Dev) (fuel : Nat) : Dev :=
  match fuel with
  | 0 => d
  | n + 1 =>
    match d.reqs.find? (fun r => decide (r.st = .waiting) &&
        ((decide (dOpc r.desc = 0x11) && (d.entry (dArg1 r.desc % 65536)).isNone) ||
         (decide (dOpc r.desc = 0x02) && !d.wbBusy (dHandle r.desc % 256)))) with
    | none => d
    | some r =>
      let d := if dOpc r.desc = 0x02 then (match d.wb (dHandle r.desc % 256) with | some w => d.unload w | none => d) else d
      (d.finishReq r 0 0 none 0 []).settleWaits n

/-- The entry ends with a final record (R97); its slot is free (R45). -/
def Dev.endEntry (d : Dev) (e : Entry) (status sub : Nat) : Dev :=
  let d := (d.runs.filter (fun r => decide (r.src = .entry e.slot))).foldl (fun d r => d.stopRun r.id) d
  let d := d.entryRecord e .final status sub none 0 (if status = 0x31 then leBytes 2 e.slot else [])
  let d := { d with cal := { d.cal with entries := d.cal.entries.filter (fun x => decide (x.slot ≠ e.slot)) } }
  (d.syncEntries e.part).settleWaits (d.reqs.length + 1)

/-- A started run of an entry exists (R75). -/
def Dev.entryStarted (d : Dev) (slot : Nat) : Bool :=
  d.runs.any (fun r => decide (r.src = .entry slot) && r.started.isSome)

/-- End the entries whose revocation waited for their started run (R75). -/
def Dev.settleEntry (d : Dev) (slot : Nat) : Dev :=
  match d.entry slot with
  | some e =>
    match e.ending with
    | some sub => if d.entryStarted slot then d else d.endEntry e sub.1 sub.2
    | none => d
  | none => d

/-- The entries that end together with `e`: both copies of a safety channel (R438). -/
def Dev.pairOf (d : Dev) (e : Entry) : List Entry :=
  match e.channel with
  | some c => d.cal.entries.filter (fun x => decide (x.wb = e.wb) && decide ((x.channel.map (·.1)) = some c.1))
  | none => [e]

/-- R75: revoke one entry with its notice to CTX0. -/
def Dev.revokeOne (d : Dev) (e : Entry) (sub : Nat) : Dev :=
  if e.ending.isSome then d.settleEntry e.slot
  else
    let d := d.event 0 0x06 0x31 sub (leBytes 2 (e.ctx.getD 0) ++ leBytes 2 e.slot) 0
    let d := (d.runs.filter (fun r => decide (r.src = .entry e.slot) && r.started.isNone)).foldl (fun d r => d.stopRun r.id) d
    (d.setEntry e.slot (fun x => { x with ending := some (0x31, sub) })).settleEntry e.slot

def Dev.revokeEntry (d : Dev) (e : Entry) (sub : Nat) : Dev := (d.pairOf e).foldl (fun d x => d.revokeOne x sub) d

/-- R75: a request that has not started is revoked. -/
def Dev.revokeReq (d : Dev) (r : Req) (sub : Nat) : Dev :=
  let d := (d.runs.filter (fun x => decide (x.src = .req r.id))).foldl (fun d x => d.stopRun x.id) d
  (d.finishReq r 0x31 sub none 0 []).settleWaits (d.reqs.length + 1)

/-- R61, R64: what an entry keeps of a run that ended at `f` with lateness cause `cause`, 0 for none; a suspended entry
resumes at its next nominal release. -/
def Dev.runEnded (d : Dev) (e : Entry) (r : Run) (f cause : Nat) : Dev :=
  if e.suspended then
    let next := max e.next ((f - e.rel0) / max 1 e.alm.period + 1)
    let d := d.setEntry e.slot (fun x => { x with
      suspended := false, leaping := false, cause := 0, next := next, lastStart := none, lastEnd := none })
    ((d.syncEntries e.part).eventAll (d.entryCtxs e) 0x03 1 (max 1 cause) (leBytes 2 e.slot ++ leBytes 4 (next - e.next)) 0).settleEntry
      e.slot
  else
    (d.setEntry e.slot (fun x => { x with lastStart := r.started, lastEnd := some f, cause := cause })).settleEntry e.slot

/-- The record of a run that ends, and what the calendar unit keeps of it (R59 to R61, R97). INFO of a run
record is that of Table 03-6, or that of its error status (Table 03-7). -/
def Dev.finishRun (d : Dev) (r : Run) (status sub resDa : Nat) (info : List Byte) : Dev :=
  let d := if status = 1 then d.count 3 1 1 r.occ else d
  let d := d.stopRun r.id
  match r.src with
  | .req id =>
    match d.req id with
    | some q => (d.finishReq q status sub (some (d.toCtx q.ctx r.part r.prom)) resDa info).settleWaits (d.reqs.length + 1)
    | none => d
  | .entry slot =>
    match d.entry slot with
    | some e =>
      let d := d.entryRecord e (.runOf slot) status sub (some r.prom) resDa
        (if status ≤ 1 then leBytes 2 slot ++ leBytes 4 (r.k % 2 ^ 32) else info)
      d.runEnded e r (d.schedNow r.part) (if r.prom < d.schedNow r.part then (if status = 1 then sub else r.causes.headD 2) else 0)
    | none => d

/-- R59, R60, Table 03-7: status and subcode of a run that ends without error now. -/
def Dev.okStatus (d : Dev) (r : Run) : Nat × Nat :=
  if r.prom < d.schedNow r.part then (1, r.causes.headD 2) else (0, 0)

end Sys2Proof.Machine
end

