-- ==== Sys2Proof/Machine/Saf.lean ====
section
/-! DEFINITION. Functional safety: dangerous faults, the safe state, safe result frames (R441, R446 to R453). -/

namespace Sys2Proof.Machine

/-- The channel block's fields (Table 16-2). -/
def SafChan.xcmp (c : SafChan) : Bool := bitOf (fieldAt c.blk 1 1) 0
def SafChan.degradeOk (c : SafChan) : Bool := bitOf (fieldAt c.blk 1 1) 1
def SafChan.hostCopy (c : SafChan) : Bool := bitOf (fieldAt c.blk 1 1) 2
def SafChan.link (c : SafChan) : Nat := bitsOf (fieldAt c.blk 1 1) 4 3
def SafChan.vlan (c : SafChan) : Bool := bitOf (fieldAt c.blk 1 1) 5
def SafChan.confMin (c : SafChan) : Nat := fieldAt c.blk 2 1
def SafChan.peer (c : SafChan) : Nat := fieldAt c.blk 3 1
def SafChan.safeAddr (c : SafChan) : Nat := fieldAt c.blk 12 4
def SafChan.hostSlots (c : SafChan) : Nat := fieldAt c.blk 36 2
def SafChan.hostDa (c : SafChan) : Nat := fieldAt c.blk 40 8

def Dev.chan (d : Dev) (n : Nat) : Option SafChan := d.saf.chans.find? (fun c => decide (c.num = n))

def Dev.setChan (d : Dev) (n : Nat) (f : SafChan → SafChan) : Dev :=
  { d with saf := { d.saf with chans := d.saf.chans.map (fun c => if c.num = n then f c else c) } }

/-- The copies' almanac entries of a channel. -/
def Dev.chanEntry (d : Dev) (c : SafChan) (copy : Nat) : Option Entry :=
  d.cal.entries.find? (fun e => decide (e.wb = c.wb ∧ e.channel = some (c.num, copy)))

/-- A safe result frame (Table 16-5). -/
def frameOf (c : SafChan) (seq flags cause tb dev time : Nat) (pose : List Byte) (stale prom : Nat) : List Byte :=
  let b := leBytes 2 0x5346 ++ [1] ++ leBytes 1 c.num ++ leBytes 4 seq ++ leBytes 4 c.safeAddr ++ leBytes 1 flags ++
    leBytes 1 cause ++ leBytes 1 tb ++ leBytes 1 dev ++ leBytes 8 time ++ slice pose 0 120 ++ leBytes 4 stale ++
    leBytes 4 (prom % 2 ^ 32) ++ List.replicate 100 0
  b ++ leBytes 4 (crc32c b)

/-- Device ID of a frame: the fused one, 0 if none. -/
def Dev.frameDev (d : Dev) : Nat := if d.peerEn then d.devId else 0

/-- R448: a frame leaves E1, with its host copy. -/
def Dev.sendFrame (d : Dev) (c : SafChan) (flags conf : Nat) (frame : List Byte) : Dev :=
  let seq := SMap.read 0 d.saf.seqs c.num
  let d := { d with saf := { d.saf with seqs := SMap.write 0 d.saf.seqs c.num ((seq + 1) % 2 ^ 32) } }
  let d := if c.link = 0 then d else d.emit (.safe c.num c.link c.vlan (slice c.blk 10 26) frame)
  let d := ((((d.addWrap R.SAF_CHAN_STAT.FRAMES c.num 0 1).set R.SAF_CHAN_STAT.STOP c.num 0 (flags % 2)).set
    R.SAF_CHAN_STAT.DEGRADED c.num 0 (flags / 8 % 2)).set R.SAF_CHAN_STAT.CONF c.num 0 conf).set
    R.SAF_CHAN_SEQ.SEQ c.num 0 seq
  if c.hostCopy then
    match (d.chanEntry c 0).bind (·.ctx) with
    | some k =>
      if d.bit R.CTX_STATUS.HOST_LOST k 0 then d.addSat R.CTX_CQ_LOST.LOST k 0 1
      else
        match d.t3Map k (c.hostDa + 256 * (seq % max 1 c.hostSlots)) 256 true with
        | some io => d.emit (.t3 io frame)
        | none => d
    | none => d
  else d

/-- Promised time of the newest nominal release of a channel's entries (R58, R451): its almanac record counts releases
from the orbit boundaries (DEDUCED, unsafe, log entry 33). -/
def Dev.chanProm (d : Dev) (c : SafChan) : Nat :=
  let p := d.safePart.getD 0
  match (d.wb c.wb).bind (fun w => w.almanac[fieldAt c.blk 6 2]?) with
  | some a =>
    let o := max 1 (d.pcal p).orbit
    let now := d.schedNow p
    let first := now / o * o + a.offset * (o / max 1 (d.pcal p).phases)
    let back := ceilDiv (first - now) (max 1 a.period) * a.period
    let rel := (first - back) + (now - first) / max 1 a.period * a.period
    rel + a.deadline
  | none => 0

/-- R450, R451: a frame with STOP and SAFE_STATE. -/
def Dev.stopFrame (d : Dev) (c : SafChan) : Dev :=
  let p := d.safePart.getD 0
  let flags := 3 + 8 * b2n c.degraded
  d.sendFrame c flags 0 (frameOf c (SMap.read 0 d.saf.seqs c.num) flags (d.get R.SAF_STATUS.CAUSE 0 0) (d.schedTb p)
    d.frameDev (d.schedNow p) [] 0 (d.chanProm c))

/-- SAF_FIRST or SAF_LAST of a fault. -/
def Dev.logSaf (d : Dev) (first : Bool) (cause chan addr : Nat) (dev : Bool) : Dev :=
  if first then
    ((((d.set R.SAF_FIRST.TIME 0 0 (d.tbVal 0)).set R.SAF_FIRST.CAUSE 0 0 cause).set R.SAF_FIRST.CHANNEL 0 0 chan).set
      R.SAF_FIRST.DEVICE 0 0 (b2n dev)).set R.SAF_FIRST.ADDR 0 0 addr
  else
    ((((d.set R.SAF_LAST.TIME 0 0 (d.tbVal 0)).set R.SAF_LAST.CAUSE 0 0 cause).set R.SAF_LAST.CHANNEL 0 0 chan).set
      R.SAF_LAST.DEVICE 0 0 (b2n dev)).set R.SAF_LAST.ADDR 0 0 addr

/-- R450 step 4: end an entry with FAULT_SAFE; the late run of a timing fault completes first (R65). -/
def Dev.faultEntry (d : Dev) (e : Entry) (cause : Nat) (keep : Option Nat) : Dev :=
  let d := (d.runs.filter (fun r => decide (r.src = .entry e.slot ∧ some r.id ≠ keep))).foldl (fun d r => d.stopRun r.id) d
  let st := e.ending.getD (0x60, cause)
  if d.runs.any (fun r => decide (r.src = .entry e.slot)) then d.setEntry e.slot (fun x => { x with ending := some st })
  else d.endEntry e st.1 st.2

/-- R450, R452: end every entry and request for which the partition test holds. -/
def Dev.faultWork (d : Dev) (p : Nat → Bool) (cause : Nat) (keep : Option Nat) : Dev :=
  let d := (d.cal.entries.filter (fun e => p e.part)).foldl (fun d e => d.faultEntry e cause keep) d
  let rs := d.reqs.filter (fun r => p r.part && decide (r.st ≠ .aborted))
  rs.foldl (fun d r =>
    let d := (d.runs.filter (fun x => decide (x.src = .req r.id))).foldl (fun d x => d.stopRun x.id) d
    d.finishReq r 0x60 cause none 0 []) d

/-- R450, R452, R453: a dangerous fault is detected. `keep` names the late run of a timing fault. -/
def Dev.dangerous (d : Dev) (cause chan addr : Nat) (dev : Bool) (keep : Option Nat) : Dev :=
  if d.safePart.isNone && !dev then d
  else
    let inSafe (p : Nat) : Bool := d.isSafe p || dev
    let widen (d : Dev) : Dev := ((d.set R.SAF_STATUS.DEV_SAFE 0 0 1).faultWork (fun p => !d.isSafe p) cause none).eventAll
      (d.enabledCtxs (fun _ => true)) 0x09 0x60 cause (leBytes 1 cause) 0
    let d := (d.addSat R.SAF_STATUS.FAULTS 0 0 1).logSaf false cause chan addr dev
    let d := { d with saf := { d.saf with testBad := true } }
    if d.bit R.SAF_STATUS.SAFE 0 0 then
      if dev && !d.bit R.SAF_STATUS.DEV_SAFE 0 0 then widen d else d
    else
      let d := (d.set R.SAF_STATUS.SAFE 0 0 1).set R.SAF_STATUS.CAUSE 0 0 cause
      let d := if d.get R.SAF_FIRST.CAUSE 0 0 = 0 then d.logSaf true cause chan addr dev else d
      let d := d.annal 1 cause 0x0C (annUnit (d.safePart.getD 0) chan) (leBytes 8 addr)
      let d := { d with saf := { d.saf with level := false, driving := false } }.set R.SAF_STATUS.PULSE 0 0 0
      let d := (d.emit (.safePins false)).set R.SAF_STATUS.DEV_SAFE 0 0 (b2n dev)
      let d := d.saf.chans.foldl (fun d c => d.stopFrame c) d
      let d := d.faultWork inSafe cause keep
      let cs := if dev then 0 :: d.enabledCtxs (fun _ => true) else d.safeCtxs
      d.eventAll cs 0x09 0x60 cause (leBytes 1 cause) 0

/-- Cause of Table 16-3 for a safety-class run that ends with a status (R144); none for an ending that is not reported. -/
def causeOf (status : Nat) : Option Nat :=
  match status with
  | 0x21 => some 5
  | 0x20 => some 6
  | _ => none

/-- R144, R386: a run ends with an error; a safety-class run reports it to SAF. `cause` overrides the table. -/
def Dev.failRun (d : Dev) (r : Run) (status sub : Nat) (info : List Byte) (cause : Option Nat) (addr : Nat) : Dev :=
  let d := d.finishRun r status sub 0 info
  if r.safety then
    match cause.orElse (fun _ => causeOf status) with
    | some c => d.dangerous c 0 addr false none
    | none => d
  else d

def Dev.failAcc (d : Dev) (r : Run) (e : AccErr) : Dev :=
  let s := e.status
  d.failRun r s.1 s.2.1 s.2.2 none (match e with | .poison _ a => a | .tier _ _ a => a | _ => 0)

end Sys2Proof.Machine
end

