-- ==== Sys2Proof/Machine/Cal.lean ====
section
/-! DEFINITION. The calendar unit: the admission tests of R51 to R57 and R541, the creation and dispatch of runs. -/

namespace Sys2Proof.Machine

/-! ### Scaling (R153, R76) -/

/-- Full and remaining width of a unit; of a peer port, less its forwarding share (R421). -/
def Dev.width (d : Dev) (u : Nat) : Nat × Nat :=
  match d.cal.narrowed.find? (fun x => decide (x.1 = u)) with
  | some x => (x.2.2, x.2.1)
  | none => if u / 64 = 0x0C then (16, 16 - min 8 (d.get R.PLK_PORT_CFG.FWD (u % 64) 0)) else (1, 1)

/-- R153, R76: the exact product of the factors, rounded up once. -/
def Dev.scale (d : Dev) (u x : Nat) : Nat := ceilDiv (x * 1025 * (d.width u).1) (1024 * max 1 (d.width u).2)

/-! ### Demand on a unit -/

/-- A job as the tests see it. One-shot jobs have no period; a late one counts in every interval (R541). -/
structure AJob where
  once : Bool
  late : Bool
  t : Nat
  d : Nat
  tmin : Nat
  cost : Nat
  step : Nat
  /-- Entries that leap together share a group (R438). -/
  grp : Nat
  safety : Bool
  deriving DecidableEq, Repr

def CostVec.on (v : CostVec) (u : Nat) : List CostRec := v.recs.filter (fun r => decide (r.res = u ∧ r.res / 64 ≠ 0x3F))

def Dev.costOn (d : Dev) (v : CostVec) (u c : Nat) : Nat := sumBy (fun r => d.scale u (r.time.getD c 0)) (v.on u)

def Dev.stepOn (d : Dev) (v : CostVec) (u : Nat) : Nat := maxBy (fun r => d.scale u r.step) (v.on u)

/-- Copies of one channel leap as one entry. -/
def Entry.group (e : Entry) : Nat :=
  match e.channel with
  | some c => 20000 + 16 * e.wb + c.1
  | none => e.slot

def Dev.entryJob (d : Dev) (e : Entry) (u c : Nat) : AJob :=
  let v := d.costOf e.wb e.alm.job
  ⟨false, false, e.alm.period, e.alm.deadline, e.alm.tmin, d.costOn v u c, d.stepOn v u, e.group, decide (e.alm.cls = 1)⟩

def aperOpc : List Nat := [0x12, 0x20, 0x30, 0x40, 0x60]

/-- Job number of an aperiodic request (Table 03-3). -/
def Req.jobNo (r : Req) : Nat := dArg3 r.desc % 65536

def Dev.reqCost (d : Dev) (r : Req) : CostVec := d.costOf (dHandle r.desc % 256) r.jobNo

/-- The request has been admitted by CAL and has not ended. -/
def Req.isAdmitted (r : Req) : Bool :=
  decide (dOpc r.desc ∈ aperOpc) && decide (r.st = .admitted ∨ r.st = .running ∨ r.st = .waiting)

/-- The part of a run on a unit has ended: its stream, its tasks or its copies there. -/
def Run.doneOn (r : Run) (u : Nat) : Bool :=
  match u / 64 with
  | 0x01 =>
    let a := u % 64 / 4
    r.started.isSome && (r.streams.filter (fun s => decide (s.array = a))).all (·.ended)
  | 0x0A => r.started.isSome && (r.copies.filter (fun c => decide (c.1 = u % 64))).isEmpty
  | _ => false

def Dev.reqDoneOn (d : Dev) (r : Req) (u : Nat) : Bool :=
  d.runs.any (fun x => decide (x.src = .req r.id) && x.doneOn u)

def Dev.reqRest (d : Dev) (r : Req) (u c : Nat) : Nat := if d.reqDoneOn r u then 0 else d.costOn (d.reqCost r) u c

def Dev.reqJob (d : Dev) (r : Req) (u c : Nat) : AJob :=
  let n := d.schedNow r.part
  let v := d.reqCost r
  ⟨true, decide (r.prom < n), 0, r.prom - n, 0, d.reqRest r u c, d.stepOn v u, 40000 + r.id, decide (dClass r.desc = 1)⟩

/-- R66, R67: reserve time of an orbit. -/
def Dev.reserveCost (d : Dev) (p : Nat) : Nat :=
  max (ceilDiv (max 21 (d.get R.CAL_PCFG.RESERVE p 0) * (d.pcal p).orbit) 1024) (d.pcal p).hardMin

def Dev.reserveJob (d : Dev) (p : Nat) : AJob :=
  let o := (d.pcal p).orbit
  ⟨false, false, o, o, o, d.reserveCost p, d.reserveCost p, 30000 + p, false⟩

/-- A unit that jobs of partition `p` see: device-wide units are shared (R48). -/
def sharesUnit (p q u : Nat) : Bool := resDeviceWide u || decide (p = q)

/-- A unit that is gone, and a lost port without another route, have no time to give (R76, R77). -/
def Dev.noTime (d : Dev) (u : Nat) : Bool :=
  decide (u ∈ d.cal.gone) || (decide (u / 64 = 0x0C) && decide (d.cal.lostPorts.lookup (u % 64) = some none))

/-- The job that stands for all the time of a unit. -/
def fullJob : AJob := ⟨true, true, 0, 0, 0, 2 ^ 100, 2 ^ 100, 60000, true⟩

/-- Admitted jobs on unit `u` as partition `p` sees it, the reserve with them (R51, R66). -/
def Dev.jobsOn (d : Dev) (p u c : Nat) : List AJob :=
  let es := (d.cal.entries.filter (fun e => sharesUnit p e.part u && !((d.costOf e.wb e.alm.job).on u).isEmpty)).map
    (fun e => d.entryJob e u c)
  let rs := (d.reqs.filter (fun r => r.isAdmitted && sharesUnit p r.part u && !((d.reqCost r).on u).isEmpty)).map
    (fun r => d.reqJob r u c)
  es ++ rs ++ (if resDeviceWide u then [] else [d.reserveJob p]) ++ (if d.noTime u then [fullJob] else [])

/-! ### The tests of R51 and R54 -/

def AJob.leap (j : AJob) : AJob := { j with t := j.tmin, d := j.d * j.tmin / max 1 j.t }

def AJob.dbf (j : AJob) (x : Nat) : Nat :=
  if j.late then j.cost
  else if x < j.d then 0
  else if j.once then j.cost
  else ((x - j.d) / max 1 j.t + 1) * j.cost

def AJob.rbf (j : AJob) (x : Nat) : Nat :=
  if j.once then (if 0 < x then j.cost else 0) else ceilDiv x (max 1 j.t) * j.cost

def AJob.points (j : AJob) (h : Nat) : List Nat :=
  if j.late ∨ h < j.d then []
  else if j.once then [j.d]
  else (List.range ((h - j.d) / max 1 j.t + 1)).map (fun n => n * j.t + j.d)

def unitOk (js : List AJob) (h : Nat) : Bool :=
  let b := maxBy (·.step) js
  js.all (fun j => (j.points h).all (fun x => decide (sumBy (fun k => k.dbf x) js + b ≤ x)))

/-- R54. -/
def safetyOk (js : List AJob) (h : Nat) : Bool :=
  let s := js.filter (·.safety)
  let n := js.filter (fun j => !j.safety)
  let b := maxBy (·.step) js
  s.all (fun j => (j.points h).all (fun x => decide (sumBy (fun k => k.dbf x) s + sumBy (fun k => k.rbf x) n + b ≤ x)))

/-- R51: twice the longest orbit among the partitions with jobs on the unit. -/
def Dev.horizon (d : Dev) (p u : Nat) : Nat :=
  let ps := p :: ((d.cal.entries.filter (fun e => sharesUnit p e.part u && !((d.costOf e.wb e.alm.job).on u).isEmpty)).map (·.part) ++
    (d.reqs.filter (fun r => r.isAdmitted && sharesUnit p r.part u && !((d.reqCost r).on u).isEmpty)).map (·.part))
  2 * maxBy (fun q => (d.pcal q).orbit) ps

/-- R51: nominal form, then the leap form of each entry (or channel) in turn: the failing reason. -/
def unitTest (js : List AJob) (h : Nat) : Option Nat :=
  if !unitOk js h then some 1
  else if (dedup ((js.filter (fun j => decide (j.tmin < j.t))).map (·.grp))).all
      (fun g => unitOk (js.map (fun j => if j.grp = g then j.leap else j)) h) then none
  else some 5

/-- Cap of Table 02-1 in quarter watts. -/
def capQ (c : Nat) : Nat :=
  match c with
  | 0 => 240
  | 1 => 180
  | 2 => 120
  | _ => 72

def Dev.baseQ (d : Dev) (c : Nat) : Nat :=
  match c with
  | 0 => d.get R.CAL_BASE_PWR.BASE0 0 0
  | 1 => d.get R.CAL_BASE_PWR.BASE1 0 0
  | 2 => d.get R.CAL_BASE_PWR.BASE2 0 0
  | _ => d.get R.CAL_BASE_PWR.BASE3 0 0

/-- Energy share of partition `p`. -/
def Dev.share (d : Dev) (p : Nat) : Nat := d.get R.CAL_PENERGY.SHARE p 0

/-- An entry's contribution to R52: period, least period, energy, group. -/
def Dev.energyOf (d : Dev) (wb : Nat) (a : AlmRec) (grp c : Nat) : Nat × Nat × Nat × Nat :=
  (a.period, a.tmin, (d.costOf wb a.job).energy.getD c 0, grp)

/-- R52, over entry contributions and promised one-shot energies (promise, energy). -/
def Dev.energyTest (d : Dev) (p c : Nat) (es : List (Nat × Nat × Nat × Nat)) (os : List (Nat × Nat)) : Bool :=
  let h := (d.pcal p).orbit
  let base := sumBy (fun (e : Nat × Nat × Nat × Nat) => h / max 1 e.1 * e.2.2.1) es
  let leap := maxBy (fun g => sumBy (fun (e : Nat × Nat × Nat × Nat) =>
      if e.2.2.2 = g then (ceilDiv h (max 1 e.2.1) - h / max 1 e.1) * e.2.2.1 else 0) es) (dedup (es.map (·.2.2.2)))
  let aper := maxBy (fun o => sumBy (fun (x : Nat × Nat) => if x.1 / max 1 h = o then x.2 else 0) os)
    (dedup (os.map (fun x => x.1 / max 1 h)))
  decide (base + leap + aper ≤ d.share p * (capQ c - d.baseQ c) * h / 4096)

def Dev.partEnergy (d : Dev) (p c : Nat) : List (Nat × Nat × Nat × Nat) :=
  (d.cal.entries.filter (fun e => decide (e.part = p))).map (fun e => d.energyOf e.wb e.alm e.group c)

def Dev.partShots (d : Dev) (p c : Nat) : List (Nat × Nat) :=
  (d.reqs.filter (fun r => r.isAdmitted && decide (r.part = p))).map (fun r => (r.prom, (d.reqCost r).energy.getD c 0))

/-- Units on which cost vectors have records, in the order of the records. -/
def unitsOf (vs : List CostVec) : List Nat :=
  dedup (vs.flatMap (fun v => (v.recs.filter (fun r => decide (r.res / 64 ≠ 0x3F))).map (·.res)))

/-- R51, R53, R54: subcode of the first test that a candidate (one entry, or both copies of a channel) fails. -/
def Dev.admitTest (d : Dev) (p : Nat) (cands : List Entry) (c : Nat) : Option Nat :=
  let us := unitsOf (cands.map (fun e => d.costOf e.wb e.alm.job))
  let on (u : Nat) : List AJob :=
    d.jobsOn p u c ++ (cands.filter (fun e => !((d.costOf e.wb e.alm.job).on u).isEmpty)).map (fun e => d.entryJob e u c)
  let fail := us.findSome? (fun u => (unitTest (on u) (d.horizon p u)).map (fun k => k * 4096 + u))
  match fail with
  | some s => some s
  | none =>
    if !d.energyTest p c (d.partEnergy p c ++ cands.map (fun e => d.energyOf e.wb e.alm e.group c)) (d.partShots p c) then
      some (0x2FC0 + p)
    else if 1024 < (d.cal.entries.filter (fun e => decide (e.part = p))).length + cands.length then some (0x3FC0 + p)
    else if cands.all (fun e => decide (e.alm.cls = 1)) then none
    else (us.find? (fun u => resDeviceWide u && !safetyOk (on u) (d.horizon p u))).map (fun u => 6 * 4096 + u)

def Dev.capNow (d : Dev) : Nat := d.get R.CAL_STATUS.CAP_NOW 0 0

/-- R78: the levels that a test must pass. -/
def Dev.capLevels (d : Dev) : List Nat :=
  if d.bit R.CAL_STATUS.CAP_CHG 0 0 then dedup [d.capNow, d.get R.CAL_STATUS.CAP_PEND 0 0] else [d.capNow]

/-! ### Aperiodic promises (R55, R56, R541) -/

/-- Promised time of run `k` of an entry. -/
def Entry.prom (e : Entry) (k : Nat) : Nat := e.rel0 + k * e.alm.period + e.alm.deadline

/-- Runs k ≥ 0 with a < prom(k) ≤ x. -/
def Entry.promsIn (e : Entry) (a x : Nat) : Nat :=
  let upto (y : Nat) : Nat := if y < e.prom 0 then 0 else (y - e.prom 0) / max 1 e.alm.period + 1
  upto x - upto a

/-- Multiples o of the orbit with a < o + orbit ≤ x. -/
def boundariesIn (orbit a x : Nat) : Nat := if orbit = 0 then 0 else x / orbit - a / orbit

/-- A time of partition q's base as one of p's, by their present difference (R153). -/
def Dev.partTime (d : Dev) (q p t : Nat) : Nat := if d.schedTb q = d.schedTb p then t else (d.schedNow p + t) - d.schedNow q

/-- R541, on partition `p`'s schedule base. -/
def Dev.setAside (d : Dev) (p u a x c : Nat) : Nat :=
  let now := d.schedNow p
  let es := d.cal.entries.filter (fun e => sharesUnit p e.part u && !((d.costOf e.wb e.alm.job).on u).isEmpty)
  let rs := d.reqs.filter (fun r => r.isAdmitted && sharesUnit p r.part u && !((d.reqCost r).on u).isEmpty)
  let runs := sumBy (fun e => e.promsIn (d.partTime p e.part a) (d.partTime p e.part x) * d.costOn (d.costOf e.wb e.alm.job) u c) es
  let shots := sumBy (fun r =>
    let rest := d.reqRest r u c
    let prom := d.partTime r.part p r.prom
    if now ≤ prom then (if a < prom ∧ prom ≤ x then rest else 0) else (if a < now + rest then rest else 0)) rs
  let res := if resDeviceWide u then 0 else boundariesIn (d.pcal p).orbit a x * d.reserveCost p
  let js := es.map (fun e => d.entryJob e u c)
  let leap := maxBy (fun g => sumBy (fun (j : AJob) => if j.grp = g then j.leap.dbf (x - a) - j.dbf (x - a) else 0) js)
    (dedup ((js.filter (fun j => decide (j.tmin < j.t))).map (·.grp)))
  runs + shots + res + leap + maxBy (·.step) (d.jobsOn p u c)

/-- Where the leap headroom of R541 may fall: the instants at which the nominal form of an entry has another run due,
as (first, period) after the start of the interval. -/
def Dev.dropPoints (d : Dev) (p u c : Nat) : List (Nat × Nat) :=
  ((d.cal.entries.filter (fun e => sharesUnit p e.part u && !((d.costOf e.wb e.alm.job).on u).isEmpty)).map
    (fun e => d.entryJob e u c)).filterMap (fun j => if j.tmin < j.t then some (j.d, j.t) else none)

/-- The first of those instants after length `l`, but at most `y`. -/
def firstDrop (js : List (Nat × Nat)) (l y : Nat) : Nat :=
  js.foldl (fun m j => min m (if l < j.1 then j.1 else j.1 + ((l - j.1) / max 1 j.2 + 1) * j.2)) y

/-- R55: the earliest finish, from below; none past `stop`. Up to the next drop of the headroom what is set aside only
grows. -/
def Dev.finishFrom (d : Dev) (p u a need c stop x : Nat) (js : List (Nat × Nat)) (fuel : Nat) : Option Nat :=
  match fuel with
  | 0 => none
  | n + 1 =>
    let y := a + need + d.setAside p u a x c
    if stop < x then none
    else if y ≤ x then some x
    else d.finishFrom p u a need c stop (a + firstDrop js (x - a) (y - a)) js n

/-- R55: walk the records; the finish of the last one and its unit, or the unit where the walk passed `stop`. -/
def Dev.walk (d : Dev) (p c stop : Nat) (rs : List CostRec) (a unit : Nat) : Except Nat (Nat × Nat) :=
  match rs with
  | [] => .ok (a, unit)
  | r :: rest =>
    if r.res / 64 = 0x3F then d.walk p c stop rest a unit
    else
      let need := d.scale r.res (r.time.getD c 0)
      match d.finishFrom p r.res a need c stop (a + need) (d.dropPoints p r.res c) 200000 with
      | some x => d.walk p c stop rest x r.res
      | none => .error r.res

/-- R55, R56: the promised time at one level, or the subcode of the rejection. `dl` is the deadline on the schedule base. -/
def Dev.promiseAt (d : Dev) (r : Req) (c : Nat) (dl : Option Nat) : Except Nat Nat :=
  let stop := r.rel + 64 * (d.pcal r.part).orbit
  match d.walk r.part c stop (d.reqCost r).recs r.rel (0xFC0 + r.part) with
  | .error u => .error (0x4000 + u)
  | .ok (x, u) =>
    let prom := roundUp x 1000
    if decide (stop < prom) || (match dl with | some t => decide (t < prom) | none => false) then .error (0x4000 + u) else .ok prom

/-- R47, R52, R54: the budgets and the device-wide test for an aperiodic candidate promised at `prom`. -/
def Dev.aperTest (d : Dev) (r : Req) (c prom : Nat) : Option Nat :=
  let v := d.reqCost r
  if !d.energyTest r.part c (d.partEnergy r.part c) (d.partShots r.part c ++ [(prom, v.energy.getD c 0)]) then some (0x2FC0 + r.part)
  else if dClass r.desc = 1 then none
  else ((unitsOf [v]).find? (fun u => resDeviceWide u &&
      !safetyOk (d.jobsOn r.part u c ++ [⟨true, false, 0, prom - d.schedNow r.part, 0, d.costOn v u c, d.stepOn v u, 50000, false⟩])
        (d.horizon r.part u))).map (fun u => 6 * 4096 + u)

/-- Admission of an aperiodic request over every level in play (R55, R56, R78). -/
def Dev.admitAper (d : Dev) (r : Req) : Except Nat Nat :=
  let dl := r.deadline.map (d.fromCtx r.ctx r.part)
  d.capLevels.foldl (fun acc c =>
    match acc with
    | .error s => .error s
    | .ok best =>
      match d.promiseAt r c dl with
      | .error s => .error s
      | .ok t =>
        match d.aperTest r c t with
        | some s => .error s
        | none => .ok (max best t)) (.ok 0)

/-! ### Creating runs (R373, R398, Table 14-1) -/

/-- Initial state of a run's stream on array `a`. -/
def Dev.newStream (d : Dev) (p a pc : Nat) (a0 a1 a2 rel : Nat) : Stream :=
  let ss := d.slicesOf a p
  let regs := [a0, a1, a2, sliceBase a (ss.headD 0), ss.length, rel].map (BitVec.ofNat 64) ++ List.replicate 26 0
  { array := a, q := d.streamOf a p, pc := pc, a := regs, l := List.replicate 8 0, loops := [], ops := [], spec := none,
    wait := .none, inStep := false, ended := false, arrived := [] }

def newTask (sort : Nat) (b : List Byte) : Task := ⟨sort, b, 0, [], [], false, false, false⟩

/-- The streams and tasks of a job (R375, R400). -/
def Dev.newRun (d : Dev) (src : Src) (p : Nat) (ctx : Option Nat) (wb : Nat) (j : Job) (k rel prom : Nat) (safety : Bool)
    (admNo a0 a1 a2 : Nat) (extra : List Task) : Run :=
  let ss := (List.range 4).filterMap (fun a =>
    let e := j.entry.getD a 0xFFFFFFFF
    if e = 0xFFFFFFFF then none else some (d.newStream p a e a0 a1 a2 rel))
  { id := d.nextId, src := src, part := p, ctx := ctx, wb := wb, job := j.num, k := k, rel := rel, prom := prom,
    safety := safety, admNo := admNo, eligible := false, started := none, causes := [], streams := ss,
    tasks := j.tasks.map (newTask 0) ++ extra,
    copies := [], resDa := 0, info := [], status := 0, sub := 0, specFrame := false, applied := false,
    epoch := d.get R.MAP_EPOCH.EPOCH 0 0 }

def Dev.addRun (d : Dev) (r : Run) : Dev := { d with runs := d.runs ++ [r], nextId := d.nextId + 1 }

def Dev.mover (d : Dev) (t : Nat) : List Copy := SMap.read [] d.movers t

def Dev.setMover (d : Dev) (t : Nat) (q : List Copy) : Dev := { d with movers := SMap.write [] d.movers t q }

/-- R126: hand a mover descriptor to a mover, after those it has. -/
def Dev.queueCopy (d : Dev) (t : Nat) (desc : List Byte) (r : Run) (plan : Option Nat) : Dev :=
  let c : Copy := ⟨d.nextId, desc, r.part, r.ctx, r.id, plan, 0, false⟩
  let d := { d with nextId := d.nextId + 1 }
  let d := d.setMover t (d.mover t ++ [c])
  d.setRun r.id (fun x => { x with copies := x.copies ++ [(t, c.id)] })

/-- R398: start the plans of a run in the order of its plan list. -/
def Dev.startPlans (d : Dev) (r : Run) (nums : List Nat) : Dev :=
  nums.foldl (fun d n =>
    match (d.wb r.wb).bind (fun w => w.plans.find? (fun x => decide (x.num = n))) with
    | some pl => pl.descs.foldl (fun d b => d.queueCopy pl.tmv b r (some n)) d
    | none => d) d

/-- A run becomes eligible (R49, R398, R399): CLEAR its inputs, start its plans; an input set after the release (`late`) is a
cause of lateness (R60). -/
def Dev.makeEligible (d : Dev) (r : Run) (inputs : List Nat) (clear late : Bool) : Dev :=
  let d := if clear then inputs.foldl (fun d i => d.putFlag i false) d else d
  let d := d.setRun r.id (fun x => let x := { x with eligible := true }; if late then x.addCause 1 else x)
  d.startPlans r (((d.jobOf r.wb r.job).map (·.plans)).getD [])

/-- The first of a run's steps is dispatched (R61, R373). -/
def Dev.markStarted (d : Dev) (id : Nat) : Dev :=
  d.setRun id (fun r => if r.started.isSome then r else { r with started := some (d.schedNow r.part) })

/-- R49: earliest promised time, then safety class, then earlier admission. -/
def edf (x y : Run) : Bool :=
  decide (x.prom < y.prom) || (decide (x.prom = y.prom) &&
    ((x.safety && !y.safety) || (decide (x.safety = y.safety) && decide (x.admNo < y.admNo))))

/-- R44, R58: phase length, and the first orbit boundary after an instant. -/
def PartCal.phaseLen (c : PartCal) : Nat := c.orbit / max 1 c.phases

def PartCal.nextBoundary (c : PartCal) (t : Nat) : Nat := (t / max 1 c.orbit + 1) * c.orbit

/-- R46: all INPUTS ready flags set. -/
def Dev.inputsSet (d : Dev) (l : List Nat) : Bool := l.all d.flag

/-- R390: another run of the job that uses a tree has started and not ended. -/
def Dev.treeHeld (d : Dev) (r : Run) : Bool :=
  match d.wb r.wb with
  | some w => w.trees.any (fun t => decide (t.job = r.job)) &&
      d.runs.any (fun x => decide (x.id ≠ r.id ∧ x.wb = r.wb ∧ x.job = r.job) && x.started.isSome)
  | none => false

end Sys2Proof.Machine
end

