-- ==== Sys2Proof/Machine/Float.lean ====
section
/-! DEFINITION. The arithmetic of R353 to R363: formats, exact values, one rounding, the vector operations bit by bit. -/

namespace Sys2Proof.Machine

/-- A floating-point format of Table 13-1, or FP64: exponent and fraction widths, subnormals flushed, an infinity. -/
structure Fp where
  eb : Nat
  fb : Nat
  flush : Bool
  ieee : Bool
  deriving DecidableEq, Repr

def e4m3 : Fp := ⟨4, 3, true, false⟩
def e5m2 : Fp := ⟨5, 2, true, true⟩
def bf16 : Fp := ⟨8, 7, true, true⟩
def fp16 : Fp := ⟨5, 10, false, true⟩
def fp32 : Fp := ⟨8, 23, false, true⟩
def fp64 : Fp := ⟨11, 52, false, true⟩

def Fp.bias (F : Fp) : Nat := 2 ^ (F.eb - 1) - 1
def Fp.width (F : Fp) : Nat := 1 + F.eb + F.fb
def Fp.signBit (F : Fp) (neg : Bool) : Nat := b2n neg * 2 ^ (F.eb + F.fb)
/-- Exponent of the last place of the smallest normal. -/
def Fp.ulpMin (F : Fp) : Int := 1 - (F.bias : Int) - F.fb

/-- A number that a format holds: (−1)^neg × m × 2^x. -/
inductive Num where
  | nan
  | inf (neg : Bool)
  | fin (neg : Bool) (m : Nat) (x : Int)
  deriving DecidableEq, Repr

/-- R355: the canonical quiet NaN. -/
def Fp.nanBits (F : Fp) : Nat :=
  if F.ieee then (2 ^ F.eb - 1) * 2 ^ F.fb + 2 ^ (F.fb - 1) else 2 ^ (F.eb + F.fb) - 1

/-- Largest finite value. -/
def Fp.maxBits (F : Fp) (neg : Bool) : Nat :=
  F.signBit neg + (if F.ieee then (2 ^ F.eb - 1) * 2 ^ F.fb - 1 else 2 ^ (F.eb + F.fb) - 2)

/-- Infinity; a format without one has its largest finite value there (R362). -/
def Fp.infBits (F : Fp) (neg : Bool) : Nat :=
  if F.ieee then F.signBit neg + (2 ^ F.eb - 1) * 2 ^ F.fb else F.maxBits neg

/-- R353, R354: the value of an encoding. -/
def Fp.decode (F : Fp) (v : Nat) : Num :=
  let neg := bitOf v (F.eb + F.fb)
  let e := bitsOf v (F.eb + F.fb - 1) F.fb
  let f := v % 2 ^ F.fb
  if e = 2 ^ F.eb - 1 ∧ F.ieee = true then (if f = 0 then .inf neg else .nan)
  else if e = 2 ^ F.eb - 1 ∧ f = 2 ^ F.fb - 1 then .nan
  else if e = 0 then (if F.flush then .fin neg 0 0 else .fin neg f F.ulpMin)
  else .fin neg (2 ^ F.fb + f) (F.ulpMin + e - 1)

/-- How a result is rounded. -/
inductive Rnd where
  | nearest
  | zero
  deriving DecidableEq, Repr

/-- `m` with its last `k` bits rounded away; `st` says that a fraction of the last place follows `m`. -/
def roundOff (rnd : Rnd) (m k : Nat) (st : Bool) : Nat :=
  let q := m / 2 ^ k
  match rnd with
  | .zero => q
  | .nearest =>
    let r := 2 * (m % 2 ^ k)
    let h := 2 ^ k
    if h < r ∨ (r = h ∧ (st = true ∨ q % 2 = 1)) then q + 1 else q

/-- The encoding of (−1)^neg × (m + fraction) × 2^x after one rounding (R354). With `sat`, an overflow gives the largest
finite value (R362). A caller with `st` gives `m` at least two bits beyond the format's precision. -/
def Fp.encode (F : Fp) (rnd : Rnd) (sat neg : Bool) (m : Nat) (x : Int) (st : Bool) : Nat :=
  if m = 0 then F.signBit neg
  else
    let drop0 : Int := (Nat.log2 m : Int) - F.fb
    let drop : Int := if F.flush then drop0 else max drop0 (F.ulpMin - x)
    let q := if drop ≤ 0 then m * 2 ^ (-drop).toNat else roundOff rnd m drop.toNat st
    let e := x + drop
    let top : Int := (Nat.log2 q : Int) + e
    if q = 0 then F.signBit neg
    else if top < 1 - (F.bias : Int) then
      (if F.flush then F.signBit neg else F.signBit neg + q)
    else
      let bits := (top + F.bias).toNat * 2 ^ F.fb + (q * 2 ^ F.fb / 2 ^ Nat.log2 q - 2 ^ F.fb)
      let big := if F.ieee then decide ((2 ^ F.eb - 1) * 2 ^ F.fb ≤ bits) else decide (2 ^ (F.eb + F.fb) - 1 ≤ bits)
      if big then
        (if sat || decide (rnd = .zero) then F.maxBits neg else F.infBits neg)
      else F.signBit neg + bits

def Fp.ofNum (F : Fp) (n : Num) : Nat :=
  match n with
  | .nan => F.nanBits
  | .inf s => F.infBits s
  | .fin s m x => F.encode .nearest false s m x false

/-! ### Exact operations -/

def Num.neg (n : Num) : Num :=
  match n with
  | .nan => .nan
  | .inf s => .inf (!s)
  | .fin s m x => .fin (!s) m x

/-- Signed integer of a finite number in units of 2^x0, for x0 not above its exponent. -/
def scaled (s : Bool) (m : Nat) (x x0 : Int) : Int :=
  let v : Int := (m * 2 ^ (x - x0).toNat : Nat)
  if s then -v else v

def Num.mul (a b : Num) : Num :=
  match a, b with
  | .nan, _ => .nan
  | _, .nan => .nan
  | .inf s, .inf t => .inf (xor s t)
  | .inf s, .fin t m _ => if m = 0 then .nan else .inf (xor s t)
  | .fin s m _, .inf t => if m = 0 then .nan else .inf (xor s t)
  | .fin s m x, .fin t n y => .fin (xor s t) (m * n) (x + y)

/-- Exact sum; a zero sum is −0 only when both terms are −0. -/
def Num.add (a b : Num) : Num :=
  match a, b with
  | .nan, _ => .nan
  | _, .nan => .nan
  | .inf s, .inf t => if s = t then .inf s else .nan
  | .inf s, .fin _ _ _ => .inf s
  | .fin _ _ _, .inf t => .inf t
  | .fin s m x, .fin t n y =>
    if m = 0 ∧ n = 0 then .fin (s && t) 0 0
    else
      let e := if m = 0 then y else if n = 0 then x else min x y
      let v := scaled s m (max x e) e + scaled t n (max y e) e
      .fin (decide (v < 0)) v.natAbs e

/-- Total order value for comparisons of numbers that are not NaN; −0 equals +0. -/
def Num.lt (a b : Num) : Bool :=
  match a, b with
  | .nan, _ => false
  | _, .nan => false
  | .inf s, .inf t => s && !t
  | .inf s, .fin _ _ _ => s
  | .fin _ _ _, .inf t => !t
  | .fin s m x, .fin t n y =>
    let e := min x y
    decide (scaled s m x e < scaled t n y e)

def Num.isNan (a : Num) : Bool := decide (a = .nan)

def Num.eq (a b : Num) : Bool := !a.isNan && !b.isNan && !a.lt b && !b.lt a

def Fp.add (F : Fp) (a b : Nat) : Nat := F.ofNum ((F.decode a).add (F.decode b))
def Fp.sub (F : Fp) (a b : Nat) : Nat := F.ofNum ((F.decode a).add (F.decode b).neg)
def Fp.mul (F : Fp) (a b : Nat) : Nat := F.ofNum ((F.decode a).mul (F.decode b))
/-- a × b + c with one rounding. -/
def Fp.fma (F : Fp) (a b c : Nat) : Nat := F.ofNum (((F.decode a).mul (F.decode b)).add (F.decode c))

def Fp.negate (F : Fp) (a : Nat) : Nat :=
  let s := 2 ^ (F.eb + F.fb)
  if bitOf a (F.eb + F.fb) then a - s else a + s

/-- Quotient, correctly rounded. -/
def Fp.divR (F : Fp) (rnd : Rnd) (a b : Nat) : Nat :=
  match F.decode a, F.decode b with
  | .nan, _ => F.nanBits
  | _, .nan => F.nanBits
  | .inf s, .inf _ => if s then F.nanBits else F.nanBits
  | .inf s, .fin t _ _ => F.infBits (xor s t)
  | .fin s _ _, .inf t => F.signBit (xor s t)
  | .fin s m x, .fin t n y =>
    if n = 0 then (if m = 0 then F.nanBits else F.infBits (xor s t))
    else if m = 0 then F.signBit (xor s t)
    else
      let k := F.fb + 4 + Nat.log2 n + 1
      let u := m * 2 ^ k
      F.encode rnd false (xor s t) (u / n) (x - y - k) (decide (u % n ≠ 0))

def Fp.div (F : Fp) (a b : Nat) : Nat := F.divR .nearest a b

/-- Square root, correctly rounded. -/
def Fp.sqrt (F : Fp) (a : Nat) : Nat :=
  match F.decode a with
  | .nan => F.nanBits
  | .inf s => if s then F.nanBits else F.infBits false
  | .fin s m x =>
    if m = 0 then F.signBit s
    else if s then F.nanBits
    else
      let k : Nat := 2 * (F.fb + 4) + (if x % 2 = 0 then 0 else 1)
      let u := m * 2 ^ k
      let r := isqrt u
      F.encode .nearest false false r ((x - k) / 2) (decide (r * r ≠ u))

/-- 1 / √a, correctly rounded. -/
def Fp.rsqrt (F : Fp) (a : Nat) : Nat :=
  match F.decode a with
  | .nan => F.nanBits
  | .inf s => if s then F.nanBits else 0
  | .fin s m x =>
    if m = 0 then F.infBits s
    else if s then F.nanBits
    else
      let m' := if x % 2 = 0 then m else 2 * m
      let x' := if x % 2 = 0 then x else x - 1
      let k := F.fb + 4 + Nat.log2 m' + 1
      let q := 2 ^ (2 * k) / m'
      let r := isqrt q
      F.encode .nearest false false r (-(x' / 2) - k) (decide (r * r * m' ≠ 2 ^ (2 * k)))

def Fp.recip (F : Fp) (a : Nat) : Nat := F.div (F.bias * 2 ^ F.fb) a

/-- R361: NaN if either is NaN; −0 below +0. -/
def Fp.least (F : Fp) (hi : Bool) (a b : Nat) : Nat :=
  let x := F.decode a
  let y := F.decode b
  if x.isNan || y.isNan then F.nanBits
  else
    let below := x.lt y || (x.eq y && bitOf a (F.eb + F.fb) && !bitOf b (F.eb + F.fb))
    let lo := if below then a else b
    let up := if below then b else a
    if hi then up else lo

/-! ### Integers -/

/-- R354: n / d rounded half to even, for d > 0. -/
def convDiv (n : Int) (d : Nat) : Int :=
  let q := n / (d : Int)
  let r := n % (d : Int)
  if 2 * r < d then q else if 2 * r = d ∧ q % 2 = 0 then q else q + 1

/-- Value of a number as an integer, rounded convergently; none for NaN and infinities. -/
def Num.toIntConv (n : Num) : Option Int :=
  match n with
  | .fin s m x =>
    let v : Int := if 0 ≤ x then (m * 2 ^ x.toNat : Nat) else convDiv (m : Int) (2 ^ (-x).toNat)
    some (if s then -v else v)
  | _ => none

/-- Integer formats of Table 13-1: signed, width. -/
def intFmt (f : Nat) : Option (Bool × Nat) :=
  match f with
  | 0 => some (true, 8)
  | 1 => some (false, 8)
  | 2 => some (true, 4)
  | 3 => some (false, 4)
  | 9 => some (true, 32)
  | _ => none

def fpFmt (f : Nat) : Option Fp :=
  match f with
  | 4 => some e4m3
  | 5 => some e5m2
  | 6 => some bf16
  | 7 => some fp16
  | 8 => some fp32
  | _ => none

/-- Bits of an element of FMT code `f`. -/
def fmtBits (f : Nat) : Nat :=
  match f with
  | 0 | 1 | 4 | 5 => 8
  | 2 | 3 => 4
  | 6 | 7 => 16
  | _ => 32

def satTo (sg : Bool) (w : Nat) (x : Int) : Nat := ofSigned w (if sg then satSigned w x else satUnsigned w x)

/-- R362: FP32 to an integer format. -/
def fpToInt (sg : Bool) (w : Nat) (a : Nat) : Nat :=
  match fp32.decode a with
  | .nan => 0
  | .inf s =>
    let b : Int := (2 ^ w : Nat)
    satTo sg w (if s then -b else b)
  | n => satTo sg w (n.toIntConv.getD 0)

/-- INT32 to a floating-point format, rounded once. -/
def Fp.ofInt (F : Fp) (v : Int) : Nat := F.encode .nearest false (decide (v < 0)) v.natAbs 0 false

/-- R362: FP32 to a narrower floating-point format. -/
def Fp.narrow (F : Fp) (sat : Bool) (a : Nat) : Nat :=
  match fp32.decode a with
  | .nan => F.nanBits
  | .inf s => if sat then F.maxBits s else F.infBits s
  | .fin s m x => F.encode .nearest sat s m x false

/-- R362: widening, exact. -/
def Fp.widen (F : Fp) (a : Nat) : Nat := fp32.ofNum (F.decode a)

/-- REQUANT (R362). -/
def requant (x m : Int) (s : Nat) (z : Int) (sg : Bool) (w : Nat) : Nat :=
  satTo sg w (convDiv (x * m) (2 ^ (31 + s)) + z)

/-! ### Dot-product units (R356 to R359) -/

/-- Elements of a chunk. -/
def chunkOf (f : Nat) : Nat :=
  match f with
  | 2 | 3 => 64
  | 6 | 7 => 16
  | _ => 32

/-- Element `k` of a row of bytes in format `f`, as its encoding (R353). -/
def elemAt (f : Nat) (row : List Byte) (k : Nat) : Nat :=
  match fmtBits f with
  | 4 => bitsOf (fieldAt row (k / 2) 1) (4 * (k % 2) + 3) (4 * (k % 2))
  | 8 => fieldAt row k 1
  | 16 => fieldAt row (2 * k) 2
  | _ => fieldAt row (4 * k) 4

def intElem (f v : Nat) : Int :=
  match intFmt f with
  | some (true, w) => toSigned w v
  | _ => (v : Int)

/-- R357: one integer chunk; the new accumulator and whether it saturated. -/
def intChunk (acc : BitVec 32) (ab : List (Int × Int)) : BitVec 32 × Bool :=
  let s := toSigned 32 acc.toNat + ab.foldl (fun a x => a + x.1 * x.2) 0
  (BitVec.ofNat 32 (ofSigned 32 (satSigned 32 s)), decide (satSigned 32 s ≠ s))

/-- Weight exponent of the leading bit of a finite nonzero number. -/
def Num.lead (n : Num) : Option Int :=
  match n with
  | .fin _ m x => if m = 0 then none else some ((Nat.log2 m : Int) + x)
  | _ => none

/-- A term truncated toward zero to a multiple of 2^e, in units of 2^e. -/
def Num.trunc (n : Num) (e : Int) : Int :=
  match n with
  | .fin s m x =>
    let v : Int := if e ≤ x then (m * 2 ^ (x - e).toNat : Nat) else (m / 2 ^ (e - x).toNat : Nat)
    if s then -v else v
  | _ => 0

/-- R358: one floating-point chunk. -/
def fpChunk (acc : BitVec 32) (ab : List (Num × Num)) : BitVec 32 :=
  let ts := ab.map (fun p => p.1.mul p.2) ++ [fp32.decode acc.toNat]
  if ts.any Num.isNan then BitVec.ofNat 32 fp32.nanBits
  else
    let pi := ts.any (fun t => decide (t = .inf false))
    let ni := ts.any (fun t => decide (t = .inf true))
    if pi && ni then BitVec.ofNat 32 fp32.nanBits
    else if pi || ni then BitVec.ofNat 32 (fp32.infBits ni)
    else
      match ts.foldl (fun (e : Option Int) t => match e, t.lead with
          | none, y => y
          | some a, some b => some (max a b)
          | some a, none => some a) none with
      | none =>
        let allNeg := ts.all (fun t => match t with | .fin s _ _ => s | _ => false)
        BitVec.ofNat 32 (fp32.signBit allNeg)
      | some e =>
        let v := ts.foldl (fun a t => a + t.trunc (e - 63)) 0
        BitVec.ofNat 32 (fp32.encode .nearest false (decide (v < 0)) v.natAbs (e - 63) false)

end Sys2Proof.Machine
end

