-- ==== Sys2Proof/Machine/Orrery.lean ====
section
/-! DEFINITION. The Orrery: tracks, masks, prediction, correction, pose output, comet run-ahead, window queries
(09_orrery.md). Its FP32 numbers are free values (DESIGN CHOICE, safe, log entry 7): the rules fix no order of operations. -/

namespace Sys2Proof.Machine

/-! ### The track block (Table 09-1) and the source entries (Table 09-3) -/

def Track.island (k : Track) : Nat := fieldAt k.blk 0 1
def Track.gateN (k : Track) : Nat := fieldAt k.blk 6 1
def Track.ungateN (k : Track) : Nat := fieldAt k.blk 7 1
def Track.predSrc (k : Track) : Nat := fieldAt k.blk 8 1
def Track.ndefl (k : Track) : Nat := fieldAt k.blk 4 1
def Track.depth (k : Track) : Nat := fieldAt k.blk 5 1
def Track.minMatches (k : Track) : Nat := fieldAt k.blk 10 2
def Track.margin (k : Track) : Nat := fieldAt k.blk 12 2
def Track.zmin (k : Track) : Nat := fieldAt k.blk 16 4
def Track.refVar (k : Track) : Nat := fieldAt k.blk 20 4
def Track.lostVar (k : Track) : Nat := fieldAt k.blk 24 4
def Track.coastMax (k : Track) : Nat := fieldAt k.blk 28 4
def Track.outRing (k : Track) : Nat := fieldAt k.blk 32 8
def Track.outSlots (k : Track) : Nat := fieldAt k.blk 40 2
def Track.outFlag (k : Track) : Nat := fieldAt k.blk 42 2
def Track.histNs (k : Track) : Nat := fieldAt k.blk 44 4
def Track.histDa (k : Track) : Nat := fieldAt k.blk 116 8

def FSrc.stream (s : FSrc) : Nat := fieldAt s.blk 0 2
def FSrc.kind (s : FSrc) : Nat := fieldAt s.blk 2 1
def FSrc.weight (s : FSrc) : Nat := fieldAt s.blk 4 1
def FSrc.delayNs (s : FSrc) : Int := toSigned 32 (fieldAt s.blk 8 4)
def FSrc.extrapMax (s : FSrc) : Nat := fieldAt s.blk 16 4
/-- A camera group's source (R257). -/
def FSrc.camera (s : FSrc) : Bool := decide (s.kind = 1 ∨ s.kind = 2)

/-- `n` f32 words of a block. -/
def wordsAt (bs : List Byte) (off n : Nat) : List Nat := (List.range n).map (fun i => fieldAt bs (off + 4 * i) 4)

def Track.initNom (k : Track) : List Nat := wordsAt k.blk 72 7 ++ List.replicate 9 0

/-- Place of element (i, j), i ≤ j, in the upper triangle of an n × n matrix. -/
def triIx (n i j : Nat) : Nat := i * n - i * (i - 1) / 2 + (j - i)

/-- R261: INIT_VAR on the diagonal. -/
def Track.initCov (k : Track) : List Nat :=
  (List.range 15).flatMap (fun i => (List.range (15 - i)).map (fun j => if j = 0 then fieldAt k.blk 100 4 else 0))

def Track.initDvar (k : Track) : List Nat :=
  (List.range k.ndefl).flatMap (fun i => wordsAt k.defl (256 * i + 172) 6)

def Dev.setTrack (d : Dev) (t : Nat) (f : Track → Track) : Dev :=
  let ks : List Track := d.tracks.map (fun (k : Track) => if k.num = t then f k else k)
  { d with tracks := ks }.syncTrack t

def Dev.setSrc (d : Dev) (t i : Nat) (f : FSrc → FSrc) : Dev :=
  d.setTrack t (fun k => { k with srcs := modifyAt k.srcs i f })

/-- R271: where the events of a track go. -/
def Dev.trackCtxs (d : Dev) (k : Track) : List Nat :=
  match k.ctx with
  | some c => [c, 0]
  | none => d.safeCtxs

/-- Present time on the track's base. -/
def Dev.trackNow (d : Dev) (k : Track) : Nat := d.tbVal k.tb

/-- A schedule time of the track's partition on the track's base. -/
def Dev.toTrack (d : Dev) (k : Track) (t : Nat) : Nat :=
  if k.tb = d.schedTb k.part then t else (d.trackNow k + t) - d.schedNow k.part

def Dev.toSched (d : Dev) (k : Track) (t : Nat) : Nat :=
  if k.tb = d.schedTb k.part then t else (d.schedNow k.part + t) - d.trackNow k

/-- R259: mask or unmask source `i`, with event 0x40. -/
def Dev.setMask (d : Dev) (t i : Nat) (c : Option Nat) : Dev :=
  match d.track t with
  | some k =>
    match k.srcs[i]? with
    | some s =>
      if s.cause.isSome = c.isSome then d
      else
        let code := (c.orElse (fun _ => s.cause)).getD 0
        let d := d.setSrc t i (fun s => { s with cause := c, restored := false, passes := 0 })
        d.eventAll (d.trackCtxs k) 0x40 0 0 (leBytes 1 t ++ leBytes 1 i ++ leBytes 1 code ++ leBytes 1 (b2n c.isSome)) 0
    | none => d
  | none => d

/-- The tracks and sources that a stream feeds. -/
def Dev.feeds (d : Dev) (stream : Nat) : List (Nat × Nat) :=
  d.tracks.flatMap (fun k =>
    (below k.srcs.length (fun i => match k.srcs[i]? with | some s => decide (s.stream = stream) | none => false)).map
      (fun i => (k.num, i)))

/-- R259 cause 1. -/
def Dev.orreryLost (d : Dev) (stream : Nat) : Dev :=
  (d.feeds stream).foldl (fun d p => d.setMask p.1 p.2 (some 1)) d

/-- STREAM_RESTORED: the next valid sample ends a mask of cause 1. -/
def Dev.orreryBack (d : Dev) (stream : Nat) : Dev :=
  (d.feeds stream).foldl (fun d p => d.setSrc p.1 p.2 (fun s => { s with restored := true })) d

/-- R246, R259: a sample of a stream, stamped on base `tb`, with its flags and values. -/
def Dev.orrerySample (d : Dev) (stream tb stamp : Nat) (bad : Bool) (vals : List Nat) : Dev :=
  (d.feeds stream).foldl (fun d p =>
    match d.track p.1 with
    | some k =>
      if !k.admitted then d
      else if tb ≠ k.tb then d.setMask p.1 p.2 (some 5)
      else
        let d := d.setSrc p.1 p.2 (fun s => { s with newest := some stamp, vals := vals })
        match (k.srcs[p.2]?).bind (·.cause) with
        | none => if bad then d.setMask p.1 p.2 (some 3) else d
        | some 1 =>
          if !bad && ((k.srcs[p.2]?).map (·.restored)).getD false then d.setMask p.1 p.2 none else d
        | some 3 => if bad then d else d.setMask p.1 p.2 none
        | some 4 => d.setMask p.1 p.2 none
        | some 5 => d.setMask p.1 p.2 none
        | some _ => d
    | none => d) d

/-- R261: a change of track state, with event 0x41. -/
def Dev.setTrackState (d : Dev) (t st : Nat) : Dev :=
  match d.track t with
  | some k =>
    if k.state = st then d
    else
      (d.setTrack t (fun k => { k with state := st })).eventAll (d.trackCtxs k) 0x41 0 0
        (leBytes 1 t ++ leBytes 1 st ++ leBytes 1 k.state) 0
  | none => d

/-- R261, R270, R455: back to ACQUIRE with the initial block. -/
def Dev.acquire (d : Dev) (t : Nat) : Dev :=
  let d := d.setTrackState t 0
  d.setTrack t (fun k => { k with
    nom := k.initNom, cov := k.initCov, delta := List.replicate (6 * k.ndefl) 0, dvar := k.initDvar, hist := [],
    corrs := [], lastPass := d.trackNow k, grid := d.trackNow k })

/-! ### Loading and admission -/

/-- R245, R403: a track block goes into effect; its tables are read from the placed regions. -/
def Dev.loadTrack (d : Dev) (wb part : Nat) (blk : List Byte) : Dev :=
  let t := 8 * fieldAt blk 0 1 + fieldAt blk 1 1
  let srcs := (List.range (fieldAt blk 2 1)).map (fun i =>
    let b := d.mem.bytes (fieldAt blk 48 8 + 64 * i) 64
    (⟨b, if fieldAt b 56 8 = 0 then [] else d.mem.bytes (fieldAt b 56 8) 64, none, false, 0, 0, none, []⟩ : FSrc))
  let k : Track :=
    { num := t, wb := wb, part := part, blk := blk, srcs := srcs,
      chain := d.mem.bytes (fieldAt blk 56 8) (48 * fieldAt blk 3 1),
      defl := d.mem.bytes (fieldAt blk 64 8) (256 * fieldAt blk 4 1),
      admitted := false, tb := 0, ctx := none, state := 0, nom := [], cov := [], delta := [], dvar := [], grid := 0,
      steps := 0, hist := [], corrs := [], lastPass := 0, bounds := [], cometOff := false, frames := [] }
  let ks : List Track := d.tracks.filter (fun (x : Track) => decide (x.num ≠ t)) ++ [k]
  let d := { d with tracks := ks }
  (((d.set R.FTE_TRACK_STAT.OLD t 0 0).set R.FTE_TRACK_STAT.CONF t 0 0).set R.FTE_TRACK_STAT.PART t 0 part).syncTrack t

/-- Track of an entry: that of its safety channel, otherwise the first track of its workbook whose island its cost
vector charges (DEDUCED, unsafe, log entry 21). -/
def Dev.entryTrack (d : Dev) (wb job : Nat) (channel : Option (Nat × Nat)) : Option Nat :=
  match channel with
  | some c => (d.chan c.1).map (fun x => fieldAt x.blk (4 + c.2) 1)
  | none =>
    (d.tracks.find? (fun k => decide (k.wb = wb) &&
      (d.costOf wb job).recs.any (fun r => decide (r.res = 64 * 8 + k.island)))).map (·.num)

/-- Signal chain lane that feeds PRED_SRC (R207). -/
def laneOf (stream : Nat) : Option Nat :=
  if 0x220 ≤ stream ∧ stream < 0x230 then some (stream - 0x220)
  else if 0x200 ≤ stream ∧ stream < 0x208 then some (16 + (stream - 0x200))
  else none

def Track.pred (k : Track) : Option FSrc := k.srcs[k.predSrc]?
def Track.lane (k : Track) : Option Nat := k.pred.bind (fun s => laneOf s.stream)

def Dev.gridPeriod (d : Dev) (k : Track) : Nat := match k.lane with | some l => d.get R.SGC_GRID_PERIOD.PERIOD l 0 | none => 0
def Dev.gridOffset (d : Dev) (k : Track) : Nat := match k.lane with | some l => d.get R.SGC_GRID_OFFSET.OFFSET l 0 | none => 0
def Dev.laneDelay (d : Dev) (k : Track) : Nat := match k.lane with | some l => d.get R.SGC_LANE_DELAY.DELAY l 0 | none => 0

/-- First instant after `t` on a grid (R212). -/
def nextOnGrid (period offset t : Nat) : Nat :=
  if period = 0 then t
  else
    let r := t % period
    if r < offset then t - r + offset else t - r + period + offset

/-- R265: the staleness bound of an entry with deadline `dl`. -/
def Dev.stale (d : Dev) (k : Track) (dl : Nat) : Nat :=
  let dn : Int := match k.pred with | some s => s.delayNs | none => 0
  dl + d.gridPeriod k + 5000 + d.laneDelay k + (max 0 dn).toNat

/-- R246, R261, R265, R268: an entry of a track has been admitted by context `c`. -/
def Dev.admitTrack (d : Dev) (t slot dl : Nat) (c : Option Nat) (tb : Nat) : Dev :=
  match d.track t with
  | some k =>
    let d :=
      if k.admitted then d
      else
        let d := d.setTrack t (fun k => { k with admitted := true, ctx := c, tb := tb, state := 0 })
        let d := d.setTrack t (fun k => { k with
          nom := k.initNom, cov := k.initCov, delta := List.replicate (6 * k.ndefl) 0, dvar := k.initDvar,
          lastPass := d.tbVal tb, grid := d.tbVal tb })
        d.eventAll (d.trackCtxs { k with ctx := c }) 0x41 0 0 (leBytes 1 t ++ [0, 0]) 0
    d.setTrack t (fun k => { k with
      cometOff := false
      bounds := k.bounds.filter (fun b => decide (b.1 ≠ slot)) ++ [(slot, d.laneDelay k, d.stale k dl, false)] })
  | none => d

/-- R265: a lane has applied a configuration; a larger delay voids the bounds that rest on it. -/
def Dev.orreryDelay (d : Dev) (lane : Nat) : Dev :=
  let dl := d.get R.SGC_LANE_DELAY.DELAY lane 0
  { d with tracks := d.tracks.map (fun k =>
      if k.lane = some lane then
        { k with bounds := k.bounds.map (fun b => if b.2.1 < dl then (b.1, b.2.1, b.2.2.1, true) else b) }
      else k) }

/-! ### Prediction -/

def freeNums (op : Nat) (args : List Nat) (n : Nat) : List Nat :=
  (List.range n).map (fun i => (Config.orrery op args i).toNat)

/-- Trace of a translation covariance (R260). -/
def traceOf (x y z : Nat) : Nat := (Config.orrery 5 [x, y, z] 0).toNat

def Track.trace (k : Track) : Nat :=
  let c (i : Nat) : Nat := k.cov.getD (triIx 15 i i) 0
  traceOf (c 3) (c 4) (c 5)

/-- v ≥ w as FP32. -/
def fpGe (v w : Nat) : Bool := (fp32.decode w).lt (fp32.decode v) || (fp32.decode w).eq (fp32.decode v)

/-- R261: LOST by the covariance. -/
def Dev.checkLost (d : Dev) (t : Nat) : Dev :=
  match d.track t with
  | some k => if k.state ≠ 0 ∧ k.state ≠ 3 ∧ fpGe k.trace k.lostVar = true then d.setTrackState t 3 else d
  | none => d

/-- R251: deflection at a grid instant. -/
def Track.deflect (k : Track) : Track :=
  let step (j : Nat) (k : Track) : Track :=
    let src := fieldAt k.defl (256 * j + 1) 1
    let s := k.srcs[src]?
    match s.bind (·.cause) with
    | some _ =>
      let big := fp32.ofInt 1000000
      { k with dvar := (List.range k.dvar.length).map (fun i =>
          let v := k.dvar.getD i 0
          if i / 6 = j then fp32.least false (fp32.mul v (fp32.ofInt 4)) big else v) }
    | none =>
      let args := slice k.defl (256 * j) 256
      let vals := (s.map (·.vals)).getD []
      let w := freeNums 6 (args.map (·.toNat) ++ vals) 6
      { k with
        delta := (List.range k.delta.length).map (fun i => if i / 6 = j then w.getD (i % 6) 0 else k.delta.getD i 0)
        dvar := (List.range k.dvar.length).map (fun i =>
          if i / 6 = j then fieldAt k.defl (256 * j + 172 + 4 * (i % 6)) 4 else k.dvar.getD i 0) }
  (List.range k.ndefl).foldl (fun k j => step j k) k

/-- History record of R252 step 4. -/
def histRecord (g : Nat) (nom cov : List Nat) : List Byte :=
  let w (i : Nat) : List Byte := leBytes 4 (nom.getD i 0)
  let tri := (List.range 6).flatMap (fun i => (List.range (6 - i)).map (fun j => cov.getD (triIx 15 i (i + j)) 0))
  leBytes 8 g ++ (List.range 16).flatMap w ++ tri.flatMap (leBytes 4) ++ List.replicate 36 0

/-- R252, R253: one grid instant. -/
def Dev.propagate (d : Dev) (t : Nat) : Dev :=
  match d.track t with
  | some k =>
    let g := nextOnGrid (d.gridPeriod k) (d.gridOffset k) k.grid
    if !k.admitted || k.lane.isNone || decide (d.trackNow k < g) || d.isFenced 6 k.island then d
    else
      let masked := match k.pred with | some s => s.cause.isSome | none => true
      let vals := if masked then [] else ((k.pred.map (·.vals)).getD [])
      let model := ((k.pred.map (·.model)).getD []).map (·.toNat)
      let args := [b2n masked, g - k.grid] ++ k.nom ++ k.cov ++ vals ++ model ++ (slice k.blk 104 12).map (·.toNat)
      let w := freeNums 1 args 136
      let keep := if masked then k.nom.drop 7 else (w.drop 7).take 3 ++ k.nom.drop 10
      let nom := w.take 7 ++ keep
      let cov := w.drop 16
      let h : Hist := ⟨g, masked, k.maskBits, nom, cov⟩
      let n := max 1 (ceilDiv k.histNs (max 1 (d.gridPeriod k)))
      let d := (d.write (Who.device k.part 6) (k.histDa + 192 * (k.steps % n)) (histRecord g nom cov)).1
      let d := d.setTrack t (fun k => { k.deflect with
        nom := nom, cov := cov, grid := g, steps := k.steps + 1
        hist := (h :: k.hist).filter (fun x => decide (g ≤ x.at_ + k.histNs))
        corrs := k.corrs.filter (fun x => decide (g ≤ x.tm + k.histNs)) })
      d.checkLost t
  | none => d

/-! ### Errors (R270) -/

def Dev.logFte (d : Dev) (t kind x : Nat) : Dev :=
  (((d.set R.FTE_ERR_LOG.TIME 0 0 (d.tbVal 0)).set R.FTE_ERR_LOG.TRACK 0 0 t).set R.FTE_ERR_LOG.KIND 0 0 kind).set
    R.FTE_ERR_LOG.ADDR 0 0 x

/-- A correction or output step that meets an access error. -/
def Dev.failFte (d : Dev) (t : Nat) (r : Run) (e : AccErr) : Dev :=
  let d := match e with
    | .poison _ a => d.logFte t 1 a
    | .tier f _ a => d.logFte t (if f then 4 else 3) a
    | _ => d
  d.failAcc r e

/-- An uncorrectable error in the track's state store. -/
def Dev.storeUe (d : Dev) (t : Nat) (r : Run) : Dev :=
  let d := ((d.logFte t 2 0).annal 2 2 6 (annUnit r.part (t / 8)) []).suspect ⟨6, t / 8⟩
  (d.failRun r 0x21 0 [] (some 7) 0).acquire t

/-! ### Comet run-ahead (R266 to R268, R392 to R394) -/

/-- Leave bytes with contents that no rule states (R394, R144, R406). -/
def Dev.undefine (d : Dev) (x n : Nat) : Dev :=
  let f := freeWords Config.undefByte n d
  { f.2 with mem := (splitWrite x f.1 (n + 1)).foldl (fun m p => (m.touch p.1).put p.1 p.2) f.2.mem }

/-- Segment `seg` of the tail of array `a`: base and bytes (R397, R266). -/
def Dev.tailSeg (d : Dev) (wb a seg : Nat) : Option (Nat × Nat) :=
  ((d.wb wb).bind (fun w => w.place.find? (fun x => decide (x.kind = 3 ∧ x.array = a)))).map (fun x =>
    (x.da + seg * (x.bytes / max 1 x.segs), x.bytes / max 1 x.segs))

/-- Slots of a stream (R502): `retired` for issued instructions, or wasted. -/
def Dev.countSlots (d : Dev) (r : Run) (a n : Nat) (wasted : Bool) : Dev :=
  (d.count 0 0 n ⟨b2n r.safety, r.ctx, 8, a, none, some a⟩).count 0 (if wasted then 2 else 1) n
    ⟨b2n r.safety, r.ctx, 8, a, none, some a⟩

/-- A stream leaves speculation; its shadow flags are written in order. -/
def Dev.leaveSpec (d : Dev) (run seg : Nat) : Dev :=
  match d.run run with
  | some r =>
    let fl := r.streams.flatMap (fun s => match s.spec with | some x => if x.seg = seg then x.shadow else [] | none => [])
    let d := d.setRun run (fun r => { r with
      specFrame := false
      streams := r.streams.map (fun s =>
        match s.spec with
        | some x => if x.seg = seg then { s with spec := none, wait := if s.wait = .spec then .none else s.wait } else s
        | none => s) })
    let d := fl.foldl (fun d f => d.writeFlag (r.occ) f.1 f.2) d
    r.streams.foldl (fun d s =>
      let d := match s.spec with | some x => if x.seg = seg then d.countSlots r s.array x.issued false else d | none => d
      d.syncStream s.array s.q) d
  | none => d

/-- A stream goes back to its checkpoint: D reads 0 and execution resumes after the CHECKPOINT. -/
def Stream.rollback (s : Stream) (seg : Nat) : Stream :=
  match s.spec with
  | some x =>
    if x.seg = seg then
      { s with pc := x.pc, a := modifyAt x.a x.d (fun _ => 0), l := x.l, loops := x.loops, ops := [], spec := none, wait := .none }
    else s
  | none => s

/-- The frame in a segment is rolled back (Table 09-7). -/
def Dev.rollbackFrame (d : Dev) (run seg : Nat) : Dev :=
  match d.run run with
  | some r =>
    let d := d.setRun run (fun r => { r with specFrame := false, streams := r.streams.map (fun s => s.rollback seg) })
    r.streams.foldl (fun d s =>
      let d :=
        match s.spec with
        | some x =>
          if x.seg = seg then
            let d := d.countSlots r s.array x.issued true
            match d.tailSeg r.wb s.array seg with | some g => d.undefine g.1 g.2 | none => d
          else d
        | none => d
      d.syncStream s.array s.q) d
  | none => d

/-- Ratio of Table 02-1 in thousandths. -/
def floorRatio (c : Nat) : Nat :=
  match c with
  | 0 => 1000
  | 1 => 889
  | 2 => 711
  | _ => 500

/-- R268: a rollback that took `ns`. -/
def Dev.overrun (d : Dev) (t run ns : Nat) : Dev :=
  match d.run run, d.track t with
  | some r, some k =>
    let budget := (d.costOf r.wb r.job).rollback
    if ns * floorRatio d.capNow ≤ budget * 1000 then d
    else
      let d := d.setRun run (fun r => r.addCause 4)
      let d := (d.logFte t 5 0).annal 4 2 6 (annUnit k.part (t / 8)) (leBytes 4 ns)
      let d := d.setTrack t (fun k => { k with cometOff := true })
      d.eventAll (d.trackCtxs k) 0x42 1 4 (leBytes 1 t ++ leBytes 4 ns) 0
  | _, _ => d

/-- The frame in a segment fails its gate. -/
def Dev.gateFail (d : Dev) (t : Nat) (f : SpecFrame) (ns : Nat) : Dev :=
  let d := d.setTrack t (fun k => { k with frames := k.frames.filter (fun x => decide (x.seg ≠ f.seg)) })
  (d.rollbackFrame f.run f.seg).overrun t f.run ns

def Dev.gatePass (d : Dev) (t : Nat) (f : SpecFrame) : Dev :=
  let d := d.setTrack t (fun k => { k with frames := k.frames.filter (fun x => decide (x.seg ≠ f.seg)) })
  d.leaveSpec f.run f.seg

/-- R267: f × (Δθ + Δt / ZMIN) ≤ MARGIN in FP32, in that order. -/
def gateTest (focal dth dt zmin margin : Nat) : Bool :=
  let lhs := fp32.mul focal (fp32.add dth (fp32.div dt zmin))
  let m := fp32.encode .nearest false false margin (-4) false
  fpGe m lhs

/-- R267: test the gate of the next speculative frame after a correction by source `s`. -/
def Dev.cometGate (d : Dev) (t src ns : Nat) : Dev :=
  match d.track t with
  | some k =>
    match k.frames, k.srcs[src]? with
    | f :: _, some s =>
      let focal := fp32.least true (fieldAt s.model 8 4) (fieldAt s.model 12 4)
      let args := f.seed ++ k.nom
      if s.cause.isSome ||
          !gateTest focal (Config.orrery 7 args 0).toNat (Config.orrery 7 args 1).toNat k.zmin k.margin then
        d.gateFail t f ns
      else d.gatePass t f
    | _, _ => d
  | none => d

/-! ### Correction (R254 to R259) -/

/-- Read ranges in order and join their bytes. -/
def Dev.readRanges (d : Dev) (w : Who) (rs : List (Nat × Nat)) : Dev × Except AccErr (List Byte) :=
  match rs with
  | [] => (d, .ok [])
  | r :: rest =>
    match d.readDev w r.1 r.2 with
    | (e, .error x) => (e, .error x)
    | (e, .ok b) =>
      match e.readRanges w rest with
      | (f, .error x) => (f, .error x)
      | (f, .ok c) => (f, .ok (b ++ c))

/-- R258, R259: a group has been tested. -/
def Dev.countGroup (d : Dev) (t i : Nat) (pass : Bool) : Dev :=
  match d.track t with
  | some k =>
    match k.srcs[i]? with
    | some s =>
      if pass then
        let d := d.setSrc t i (fun s => { s with fails := 0, passes := s.passes + 1 })
        if s.cause = some 2 ∧ k.ungateN ≤ s.passes + 1 then d.setMask t i none else d
      else
        let d := d.setSrc t i (fun s => { s with fails := s.fails + 1, passes := 0 })
        if s.cause = none ∧ k.gateN ≤ s.fails + 1 then d.setMask t i (some 2) else d
    | none => d
  | none => d

/-- Stamp and stamp uncertainty of the frame or record at hand: a slot header, an IMU or chain record, an encoder record. -/
def stampOf (kind : Nat) (b : List Byte) : Nat :=
  if kind = 1 ∨ kind = 2 then fieldAt b 8 8 else fieldAt b 0 8

/-- R257, R258: the step of a correction run on one frame or sample. -/
def Dev.correct (d : Dev) (run t src hdr : Nat) (inputs : List (Nat × Nat)) (ue : Bool) (ns : Nat) : Dev :=
  match d.run run, d.track t with
  | some r, some k =>
    match k.srcs[src]? with
    | none => d
    | some s =>
      if !k.admitted || !r.eligible || r.applied || decide (r.part ≠ k.part) then d
      else if d.isFenced 6 k.island then d.unlessFenced run true d
      else
        let d := d.markStarted run
        if ue then d.storeUe t r
        else
          match d.readRanges (r.who 6 k.island none) ((hdr, 64) :: inputs) with
          | (d, .error e) => d.failFte t r e
          | (d, .ok bs) =>
            let d := d.setRun run (fun r => { r with applied := true })
            let tm := ((stampOf s.kind bs : Int) - s.delayNs).toNat
            if tm + k.histNs < k.grid then d.addSat R.FTE_TRACK_STAT.OLD t 0 1
            else
              let data := tm :: bs.map (·.toNat)
              let args := k.nom ++ k.cov ++ s.blk.map (·.toNat) ++ s.model.map (·.toNat) ++ data
              let accepted := (Config.orrery 8 args 0).toNat
              let good := if s.camera then decide (k.minMatches ≤ accepted) else decide (1 ≤ accepted)
              let nan := s.cause.isNone && decide ((Config.orrery 8 args 1).toNat = 1)
              let pass := good && !nan
              let apply_ := pass && s.cause.isNone
              let d :=
                if apply_ then
                  let w := freeNums 2 args 136
                  d.setTrack t (fun k => { k with
                    nom := w.take 16, cov := w.drop 16
                    corrs := k.corrs ++ [⟨r.prom, tm, data⟩] })
                else d
              let d := d.countGroup t src pass
              let d :=
                if pass && s.camera then
                  (d.setTrack t (fun k => { k with lastPass := d.trackNow k })).setTrackState t 1
                else d
              let d := if apply_ then d.checkLost t else d
              if s.camera then d.cometGate t src ns else d
  | _, _ => d

/-! ### Speculation starts (R266) -/

def Dev.startSpec (d : Dev) (t run seg : Nat) : Dev :=
  match d.run run, d.track t with
  | some r, some k =>
    let tail := match d.wb r.wb with
      | some w => maxBy (fun (x : Region) => if x.kind = 3 then x.segs else 0) w.place
      | none => 0
    let ok := decide (d.parts = 1 ∧ r.part = k.part ∧ k.frames.length < k.depth ∧ seg < tail) && !k.cometOff && k.admitted &&
      r.eligible && !r.specFrame && !r.applied && !k.frames.any (fun f => decide (f.seg = seg ∨ f.run = run))
    if ok then
      let d := d.markStarted run
      let d := d.setRun run (fun r => { r with specFrame := true })
      d.setTrack t (fun k => { k with frames := k.frames ++ [⟨seg, run, freeNums 3 (k.nom ++ k.cov) 7⟩] })
    else d
  | _, _ => d

/-! ### Pose output (R260 to R265) -/

/-- Quotient of two FP32 numbers rounded toward zero, as an integer. -/
def floorDivFp (a b : Nat) : Nat :=
  match fp32.decode (fp32.divR .zero a b) with
  | .fin _ m x => if 0 ≤ x then m * 2 ^ x.toNat else m / 2 ^ (-x).toNat
  | _ => 255

/-- 255.0 × REF_VAR, rounded toward zero. -/
def mulZero (a b : Nat) : Nat :=
  match (fp32.decode a).mul (fp32.decode b) with
  | .fin s m x => fp32.encode .zero false s m x false
  | .inf s => fp32.infBits s
  | .nan => fp32.nanBits

/-- R260. -/
def confidence (refVar v m state : Nat) : Nat :=
  if state = 0 ∨ state = 3 then 0
  else
    let c := if (fp32.decode refVar).lt (fp32.decode v) then min 255 (floorDivFp (mulZero (fp32.ofInt 255) refVar) v) else 255
    c * (255 - min 255 m) / 255

/-- Sum of WEIGHT over the masked sources. -/
def Track.maskWeight (k : Track) : Nat := min 255 (sumBy (fun (s : FSrc) => if s.cause.isSome then s.weight else 0) k.srcs)

/-- The pose record at t_o of a run released at `rel` and promised at `prom` (track base): Table 09-6. -/
def Dev.poseRecord (_d : Dev) (k : Track) (slot rel prom to_ : Nat) : List Byte × Nat :=
  let h := k.hist.find? (fun h => decide (h.at_ + 5000 ≤ rel))
  let g := (h.map (·.at_)).getD k.grid
  let nom := (h.map (·.nom)).getD k.nom
  let cov := (h.map (·.cov)).getD k.cov
  let cs := k.corrs.filter (fun c => decide (c.prom ≤ rel))
  let args := [g, to_, fieldAt k.blk 9 1] ++ nom ++ cov ++ k.delta ++ k.dvar ++ k.chain.map (·.toNat) ++ cs.flatMap (·.data)
  let w := freeNums 4 args 28
  let v := traceOf (w.getD (7 + 15) 0) (w.getD (7 + 18) 0) (w.getD (7 + 20) 0)
  let conf := confidence k.refVar v k.maskWeight k.state
  let extrap := (h.map (·.extrap)).getD (match k.pred with | some s => s.cause.isSome | none => true)
  let void := k.bounds.any (fun b => decide (b.1 = slot) && b.2.2.2)
  let flags := b2n (decide (prom < to_)) + 2 * b2n extrap + 4 * b2n void
  (leBytes 8 to_ ++ w.flatMap (leBytes 4) ++ leBytes 4 k.maskBits ++ leBytes 1 conf ++ leBytes 1 k.state ++
    leBytes 1 flags ++ [0], conf)

/-- R263: correction runs of the track's jobs that this output must include have not ended. -/
def Dev.corrPending (d : Dev) (r : Run) (jobs : List Nat) : Bool :=
  d.runs.any (fun x => decide (x.id ≠ r.id ∧ x.wb = r.wb ∧ x.job ∈ jobs ∧ x.prom ≤ r.rel) && !x.applied)

/-- R262: output instant of a final step that starts at `a` (schedule base). -/
def outInstant (prom a : Nat) : Nat := if a + 2000 ≤ prom then prom else roundUp (a + 2000) 1000

/-- R439: instant of one copy, kept for the pair; the channel's instant once both, and the partner's for a cross-compare
channel, are known. -/
def Dev.twinInstant (d : Dev) (c : SafChan) (copy k prom own : Nat) : Dev × Option Nat :=
  let put (o : Option (Nat × Nat)) : Option (Nat × Nat) :=
    match o with
    | some (j, x) => if j = k then some (j, x) else some (k, own)
    | none => some (k, own)
  let was := match c.toA, c.toB with
    | some (ja, _), some (jb, _) => decide (ja = k ∧ jb = k)
    | _, _ => false
  let d := d.setChan c.num (fun c => if copy = 0 then { c with toA := put c.toA } else { c with toB := put c.toB })
  match d.chan c.num with
  | some c =>
    match c.toA, c.toB with
    | some (ja, xa), some (jb, xb) =>
      if ja = k ∧ jb = k then
        let x := max xa xb
        let d := if c.xcmp && !was && d.reaches c.peer then d.wakeSend c.peer c.num 9 (leBytes 8 prom ++ leBytes 8 x) else d
        if c.xcmp && !c.degraded then
          match c.partnerTo.lookup prom with
          | some y => (d, some (max x y))
          | none => (d, none)
        else (d, some x)
      else (d, none)
    | _, _ => (d, none)
  | none => (d, none)

/-- Complete the run of a pose output at t_o (schedule base). -/
def Dev.finishPose (d : Dev) (r : Run) (e : Entry) (alone to_ slotDa : Nat) : Dev :=
  let st : Nat × Nat :=
    if to_ ≤ r.prom then (0, 0) else if alone ≤ r.prom then (1, 5) else (1, r.causes.headD 2)
  let d := if st.1 = 1 then d.count 3 1 1 r.occ else d
  let d := d.stopRun r.id
  let d := match e.ctx with
    | some c =>
      d.post c ⟨.runOf e.slot, false,
        recordBytes e.seq st.1 st.2 (d.toCtx c r.part r.prom % 2 ^ 32) (d.toCtx c r.part to_ % 2 ^ 32) slotDa
          (leBytes 2 e.slot ++ leBytes 4 (r.k % 2 ^ 32))⟩
    | none => d
  d.runEnded e r to_ st.2

/-- R262 to R264, R439: the final step of a pose output run, started at `start` (schedule base). -/
def Dev.output (d : Dev) (run t start : Nat) (jobs : List Nat) (ue : Bool) : Dev :=
  match d.run run, d.track t with
  | some r, some k =>
    match r.src with
    | .req _ => d
    | .entry slot =>
      match d.entry slot with
      | none => d
      | some e =>
        let now := d.schedNow r.part
        if !k.admitted || !r.eligible || decide (r.part ≠ k.part ∨ now < start ∨ start < r.rel) ||
            !r.streams.all (·.ended) || !r.tasks.all (·.done) || d.corrPending r jobs then d
        else if d.isFenced 6 k.island then d.unlessFenced run true d
        else
          let d := d.markStarted run
          if ue then d.storeUe t r
          else
            let own := outInstant r.prom start
            let pair : Dev × Option Nat := match e.channel.bind (fun c => (d.chan c.1).map (fun x => (x, c.2))) with
              | some (c, copy) => d.twinInstant c copy r.k r.prom own
              | none => (d, some own)
            let d := pair.1
            match pair.2 with
            | none => d
            | some to_ =>
              if now < to_ then d
              else
                let rec_ := d.poseRecord k slot (d.toTrack k r.rel) (d.toTrack k r.prom) (d.toTrack k to_)
                let da := k.outRing + 128 * (r.k % max 1 k.outSlots)
                match d.write (r.who 6 k.island none) da rec_.1 with
                | (d, some x) => d.failFte t r x
                | (d, none) =>
                  let d := (d.writeFlag r.occ k.outFlag true).set R.FTE_TRACK_STAT.CONF t 0 rec_.2
                  let d := match e.channel with
                    | some c => d.setChan c.1 (fun x =>
                        if c.2 = 0 then { x with poseA := some (r.k, rec_.1) } else { x with poseB := some (r.k, rec_.1) })
                    | none => d
                  d.finishPose r e own to_ da
  | _, _ => d

/-! ### Timeouts -/

/-- R259 cause 4. -/
def Dev.extrapOver (d : Dev) (t i : Nat) : Dev :=
  match d.track t with
  | some k =>
    match k.srcs[i]? with
    | some s =>
      let since := s.newest.getD k.lastPass
      if k.admitted && s.cause.isNone && decide (since + s.extrapMax < d.trackNow k) then d.setMask t i (some 4) else d
    | none => d
  | none => d

/-- R261: COAST_MAX without a passing camera group. -/
def Dev.coast (d : Dev) (t : Nat) : Dev :=
  match d.track t with
  | some k =>
    if k.admitted && decide (k.state = 1 ∧ k.lastPass + k.coastMax < d.trackNow k) then
      (d.setTrackState t 2).checkLost t
    else d
  | none => d

/-! ### Window queries (R269) -/

/-- WINDOW_QUERY's own checks at R95 step 6: subcode of the rejection. -/
def Dev.windowBad (d : Dev) (part arg1 start : Nat) : Bool :=
  match d.track (arg1 % 256) with
  | some k =>
    decide (k.part ≠ part) || !k.admitted || decide (3 ≤ arg1 / 65536 % 256) ||
      !(decide (arg1 / 256 % 256 = 0xFF) || decide (arg1 / 256 % 256 < k.srcs.length)) ||
      decide (start + k.histNs < k.grid)
  | none => true

/-- Result of Table 09-8. -/
def Track.windowResult (k : Track) (arg1 s e : Nat) : List Byte :=
  let src := arg1 / 256 % 256
  let kind := arg1 / 65536 % 256
  let inside := k.hist.filter (fun h => decide (s ≤ h.at_ ∧ h.at_ ≤ e))
  let span := k.hist.filter (fun h => decide (s ≤ h.at_ + 0 ∧ h.at_ ≤ e))
  let masked := src ≠ 0xFF && span.any (fun h => bitOf h.mask src)
  let extrap := span.any (·.extrap)
  let flags := b2n (decide (s = e)) + 2 * b2n masked + 4 * b2n extrap
  let around := k.hist.filter (fun h => decide (h.at_ ≤ e + 10000000 ∧ s ≤ h.at_ + 10000000))
  let args := [kind, s, e] ++ around.flatMap (fun h => h.at_ :: h.nom) ++ k.delta
  let n := if kind = 0 then 14 else if kind = 1 then 10 else 24
  let w := freeNums 9 args n
  let nj := fieldAt k.blk 3 1
  let w := if kind = 2 then (List.range 24).map (fun i => if i % 12 < nj then w.getD i 0 else 0) else w
  leBytes 8 s ++ leBytes 8 e ++ leBytes 4 inside.length ++ leBytes 1 flags ++ [0, 0, 0] ++ slice (w.flatMap (leBytes 4)) 0 104

end Sys2Proof.Machine
end

