-- ==== Sys2Proof/Machine/Peer.lean ====
section
/-! DEFINITION. Outgoing peer traffic: remote memory requests (R416 to R419, R423). The byte layout of the messages inside a flit is the model's own (DESIGN CHOICE, unsafe, log entry 26). -/

namespace Sys2Proof.Machine

/-- Whether an operation to member `n` may be sent: ERR_PEER, wait for the old route to drain (R417), or send. -/
inductive Way where
  | none
  | wait
  | go
  deriving DecidableEq, Repr

def Dev.wayTo (d : Dev) (n : Nat) : Way :=
  if !d.isMember n || decide (d.topo = 0) || decide (n = d.devId) || !d.reaches n then .none
  else if (d.plk.nextRoutes.lookup n).isSome && d.plk.ops.any (fun o => decide (o.member = n)) then .wait
  else if (d.firstHop n).isNone then .none
  else .go

/-- Kind byte, flag byte, offset and length of a memory request, before its data. -/
def reqBytes (kind flags off len : Nat) (data : List Byte) : List Byte :=
  leBytes 1 kind ++ leBytes 1 flags ++ leBytes 6 off ++ leBytes 4 len ++ data

/-- R418: send a memory request and keep it until its acknowledgement. -/
def Dev.sendL4 (d : Dev) (o : L4) (bytes : List Byte) : Dev :=
  let d := d.wakeRequest.promote o.member
  let d : Dev := { d with plk := { d.plk with ops := d.plk.ops ++ [o] } }
  d.peerSend o.member o.tag 3 bytes

/-- Member and offset of an address in peer space. -/
def peerOf (x : Nat) : Nat × Nat := ((x - 0x400000000000) / 0x10000000000, (x - 0x400000000000) % 0x10000000000)

def isPeer (x : Nat) : Bool := match rgnOf x with | .peer _ _ => true | _ => false

/-- R142: start a T3 read with a budget in microseconds, 0 for the default. -/
def Dev.startT3 (d : Dev) (run ctx iova len da budget : Nat) (copy : Option (Nat × Nat)) (dst : Nat) : Dev :=
  let us := if budget = 0 then max 1 (d.get R.MEM_T3_BUDGET.BUDGET_US 0 0) else budget
  let t : T3Read := ⟨d.nextId, run, ctx, iova, len, da, d.now + 1000 * us, copy, dst⟩
  { d with nextId := d.nextId + 1, t3reads := d.t3reads ++ [t] }.emit (.t3Read t.tag iova len)

end Sys2Proof.Machine
end

