-- ==== Sys2Proof/Machine/Seq.lean ====
section
/-! DEFINITION. The sequencers: which run issues, fetch, hazards, loops, faults, the operands of issued operations
(R372 to R386, R392 to R394). -/

namespace Sys2Proof.Machine

/-! ### Instruction fields (Table 14-2) -/

def iOp (w : Nat) : Nat := bitsOf w 63 56
def iD (w : Nat) : Nat := bitsOf w 55 51
def iS (w : Nat) : Nat := bitsOf w 50 46
def iT (w : Nat) : Nat := bitsOf w 45 41
def iU (w : Nat) : Nat := bitsOf w 40 36
def iImm (w : Nat) : Int := toSigned 32 w
def iOff (w : Nat) : Int := toSigned 20 w
def iFlag (w : Nat) : Nat := bitsOf w 35 24
def iV (w : Nat) : Bool := bitOf w 23
def iFr (w : Nat) : Bool := bitOf w 22
def iClr (w : Nat) : Bool := bitOf w 21
def iFn (w : Nat) : Nat := bitsOf w 35 30
def iType (w : Nat) : Nat := bitsOf w 29 26
def iSat (w : Nat) : Bool := bitOf w 25
def iNv (w : Nat) : Nat := bitsOf w 24 12 + 1
/-- MMA: chunks, accumulator. -/
def iNch (w : Nat) : Nat := bitsOf w 23 12 + 1
def iAcc (w : Nat) : Nat := b2n (bitOf w 27)
/-- PUT and GET: bytes. -/
def iLen (w : Nat) : Nat := bitsOf w 11 0 + 1

def isVxu (op : Nat) : Bool := decide (0x30 ≤ op ∧ op ≤ 0x37)

/-- Registers that an instruction reads (Table 14-3). -/
def iReads (w : Nat) : List Nat :=
  let fr := if iFr w then [iT w] else []
  match iOp w with
  | 0x04 | 0x1B | 0x4C | 0x50 | 0x51 => fr
  | 0x06 => if bitOf w 32 then [iS w] else []
  | 0x09 => if bitOf w 33 then [iS w] else []
  | 0x0A | 0x13 | 0x14 | 0x17 | 0x19 | 0x21 | 0x22 => [iS w]
  | 0x05 | 0x11 | 0x12 | 0x15 | 0x16 | 0x1A | 0x48 | 0x49 | 0x4A | 0x4B => [iS w, iT w]
  | 0x20 => [iS w, iT w, iU w]
  | 0x30 | 0x33 | 0x35 => [iD w, iS w, iT w, iU w]
  | 0x31 | 0x32 | 0x37 => [iD w, iS w, iT w]
  | 0x34 | 0x36 => [iD w, iS w]
  | 0x40 => if bitOf w 31 then [iS w, iT w, iU w] else [iS w]
  | _ => []

/-- The register that an instruction writes. -/
def iWrites (w : Nat) : List Nat :=
  match iOp w with
  | 0x07 | 0x09 | 0x10 | 0x11 | 0x12 | 0x13 | 0x14 | 0x15 | 0x16 | 0x17 | 0x18 | 0x19 | 0x1B => [iD w]
  | 0x4A | 0x4B => if bitOf w 0 then [iD w] else []
  | _ => []

/-! ### Which run issues (R373, R374, R49) -/

def Run.streamOn (r : Run) (a q : Nat) : Option Stream :=
  r.streams.find? (fun s => decide (s.array = a ∧ s.q = q) && !s.ended)

/-- Runs started and not ended on a stream. -/
def Dev.startedOn (d : Dev) (a q : Nat) : Nat :=
  (d.runs.filter (fun r => r.started.isSome && (r.streamOn a q).isSome)).length

/-- The run whose step occupies the stream, or the run that comes next. -/
def Dev.current (d : Dev) (a q : Nat) : Option (Run × Stream) :=
  let pick := match d.runs.find? (fun r => (r.streamOn a q).any (·.inStep)) with
    | some r => some r
    | none => minBy edf (d.runs.filter (fun r => r.eligible && (r.streamOn a q).isSome &&
        (r.started.isSome || (decide (d.startedOn a q < 16) && !d.treeHeld r))))
  pick.bind (fun r => (r.streamOn a q).map (fun s => (r, s)))

def Dev.setStream (d : Dev) (run a q : Nat) (f : Stream → Stream) : Dev :=
  (d.setRun run (fun r => { r with streams := r.streams.map (fun s => if s.array = a ∧ s.q = q then f s else s) })).syncStream a q

/-- An instruction about to execute. -/
structure Ins where
  run : Run
  s : Stream
  w : Nat
  /-- Device address of the instruction. -/
  addr : Nat
  deriving DecidableEq, Repr

def Stream.reg (s : Stream) (n : Nat) : Nat := (s.a.getD n 0).toNat

def Ins.dv (i : Ins) : Nat := i.s.reg (iD i.w)
def Ins.sv (i : Ins) : Nat := i.s.reg (iS i.w)
def Ins.tv (i : Ins) : Nat := i.s.reg (iT i.w)
def Ins.uv (i : Ins) : Nat := i.s.reg (iU i.w)
/-- S + sext(IMM32). -/
def Ins.ea (i : Ins) : Nat := ofSigned 64 ((i.sv : Int) + iImm i.w)
def Ins.who (i : Ins) : Who := i.run.who 8 i.s.array (some i.s.array)
/-- R381: the flag index, from the word or from T[11:0]. -/
def Ins.flagIx (i : Ins) : Nat := if iFr i.w then i.tv % 4096 else iFlag i.w

/-! ### Faults (R386, Table 14-4) -/

/-- Log the fault of a stream and end its request. Table 16-3 has no row for two of the statuses (DESIGN CHOICE, safe, log entry 7). -/
def Dev.seqFault (d : Dev) (i : Ins) (kind status sub : Nat) (info : List Byte) (addr : Nat) : Dev :=
  let a := i.s.array
  let d := (((d.set R.SEQ_ERR_LOG.TIME a 0 (d.tbVal 0)).set R.SEQ_ERR_LOG.KIND a 0 kind).set
    R.SEQ_ERR_LOG.STREAM a 0 i.s.q).set R.SEQ_ERR_LOG.ADDR a 0 i.addr
  d.failRun i.run status sub info (if status = 0x13 ∨ status = 0x30 then some (Config.safCause status sub).toNat else none) addr

/-- KIND of SEQ_ERR_LOG for an access error. -/
def AccErr.seqKind (e : AccErr) : Nat :=
  match e with
  | .poison _ _ => 6
  | .tier _ _ _ => 7
  | _ => 1

def Dev.seqAcc (d : Dev) (i : Ins) (e : AccErr) : Dev :=
  d.seqFault i e.seqKind e.status.1 e.status.2.1 e.status.2.2 (match e with | .poison _ x => x | .tier _ _ x => x | _ => 0)

def Dev.seqBlocked (d : Dev) (i : Ins) : Dev := d.seqFault i 1 0x30 4 [] 0
def Dev.seqRange (d : Dev) (i : Ins) : Dev := d.seqFault i 2 0x13 7 [] 0
def Dev.seqBarrier (d : Dev) (i : Ins) : Dev := d.seqFault i 5 0x13 7 [] 0

/-! ### Flow (R382) -/

/-- Close the innermost loops that end at the PC: the next iteration, or COUNT in L(LC). -/
def Stream.closeLoops (s : Stream) (fuel : Nat) : Stream :=
  match fuel with
  | 0 => s
  | n + 1 =>
    match s.loops with
    | [] => s
    | lp :: rest =>
      if s.pc = lp.first + lp.len then
        let k := (s.l.getD lp.lc 0).toNat + 1
        let s := { s with l := modifyAt s.l lp.lc (fun _ => BitVec.ofNat 32 k) }
        if k < lp.count then { s with pc := lp.first } else { s with loops := rest }.closeLoops n
      else s

/-- The instruction after instruction `p`, loops closed. -/
def Stream.fallTo (s : Stream) (p : Nat) : Stream := { s with pc := p }.closeLoops 9

/-- R382: a branch ends every loop whose body it leaves. -/
def Stream.jump (s : Stream) (p : Nat) : Stream :=
  { s with pc := p, loops := s.loops.dropWhile (fun lp => !decide (lp.first ≤ p ∧ p < lp.first + lp.len)) }

def Stream.setReg (s : Stream) (n v : Nat) : Stream := { s with a := modifyAt s.a n (fun _ => BitVec.ofNat 64 v) }

/-- One more instruction issued while speculative. -/
def Stream.tally (s : Stream) : Stream := { s with spec := s.spec.map (fun x => { x with issued := x.issued + 1 }) }

/-- The instruction has issued: count its slot, change the stream, go on. -/
def Dev.proceed (d : Dev) (i : Ins) (f : Stream → Stream) : Dev :=
  let d := if i.s.spec.isSome then d else d.countSlots i.run i.s.array 1 false
  d.setStream i.run.id i.s.array i.s.q (fun s =>
    let s := f { s with wait := .none }
    if i.s.spec.isSome then s.tally else s)

/-- Go on with the next instruction. -/
def Dev.goOn (d : Dev) (i : Ins) (f : Stream → Stream) : Dev := d.proceed i (fun s => (f s).fallTo (s.pc + 1))

/-- The instruction does not issue yet. -/
def Dev.stall (d : Dev) (i : Ins) (w : Wait) : Dev := d.setStream i.run.id i.s.array i.s.q (fun s => { s with wait := w })

/-! ### Fetch (R376) -/

/-- Code of array `a` in a workbook: base and count of instructions. -/
def Dev.codeOf (d : Dev) (wb a : Nat) : Nat × Nat :=
  match (d.wb wb).bind (fun w => w.code.find? (fun c => decide (c.1 = a))) with
  | some c => (c.2.1, c.2.2)
  | none => (0, 0)

/-- The instruction at the PC of a stream, or the fault of its fetch. -/
def Dev.fetchIns (d : Dev) (r : Run) (s : Stream) : Dev × Option Ins :=
  let c := d.codeOf r.wb s.array
  let x := c.1 + 8 * s.pc
  let i : Ins := ⟨r, s, 0, x⟩
  if c.2 ≤ s.pc then (d.seqFault i 4 0x13 9 [] 0, none)
  else
    match d.checkAll i.who (granules x 8) with
    | (d, some e) => (d.seqAcc i e, none)
    | (d, none) => (d, some { i with w := leNat (d.mem.bytes x 8) })

/-- A stream that waits for a flag or a barrier issues nothing (R381, R390). -/
def Stream.blocked (s : Stream) : Bool := match s.wait with | .flag .. => true | .barrier .. => true | .fault => true | _ => false

/-- R380: an outstanding operation writes a register that the instruction reads or writes. -/
def Ins.regHazard (i : Ins) : Bool :=
  i.s.ops.any (fun o => (iWrites o.word).any (fun n => decide (n ∈ iReads i.w ∨ n ∈ iWrites i.w)))

/-- The step of the run on its stream begins (R373, R374). -/
def Dev.beginStep (d : Dev) (r : Run) (s : Stream) : Dev :=
  (d.markStarted r.id).setStream r.id s.array s.q (fun s => { s with inStep := true })

/-- The next instruction of stream `q` of array `a`, if it has opcode `op`: what it does is `f`. -/
def Dev.issue (d : Dev) (a q op : Nat) (f : Ins → Dev → Dev) : Dev :=
  match d.current a q with
  | none => d
  | some (r, s) =>
    if s.blocked then d
    else if d.isFenced 8 (140 + a) || (isVxu op && d.isFenced 8 (136 + a)) then d.unlessFenced r.id true d
    else
      match (d.beginStep r s).fetchIns r s with
      | (e, none) => e
      | (e, some i) => if iOp i.w ≠ op then d else if i.regHazard then e.stall i .op else f i e

/-! ### Operands of operations (R379, R383, R384) -/

/-- The range lies in T0 of the stream's own slices of its array. -/
def Dev.ownT0 (d : Dev) (p a x n : Nat) : Bool :=
  match rgnOf x with
  | .t0 b _ => decide (b = a) && d.inShare p x n
  | _ => false

/-- Offsets of the stream's slices from its lowest. -/
def Dev.sliceOffs (d : Dev) (p a : Nat) : List Nat :=
  let ss := d.slicesOf a p
  ss.map (fun s => (s - ss.headD 0) * sliceSize)

/-- R384: `nv` vectors at `x`: a range for each slice. -/
def Dev.vecRanges (d : Dev) (p a x nv : Nat) : List (Nat × Nat) := (d.sliceOffs p a).map (fun o => (x + o, 256 * nv))

/-- Each slice's part of `nv` vectors at `x` lies in that slice. -/
def Dev.vecOk (d : Dev) (p a x nv : Nat) : Bool :=
  (d.slicesOf a p).all (fun s =>
    let y := x + (s - (d.slicesOf a p).headD 0) * sliceSize
    decide (sliceBase a s ≤ y ∧ y + 256 * nv ≤ sliceBase a s + sliceSize))

/-- How many of S, T, U a VXU operation takes as vectors. -/
def vxuSources (w : Nat) : Nat :=
  match iOp w with
  | 0x30 => if iFn w = 0 then 3 else if iFn w ≤ 6 then 2 else 1
  | 0x31 | 0x32 => 2
  | 0x33 => 3
  | 0x37 => if iFn w = 1 then 2 else 0
  | _ => 1

/-- Bytes of an MMA operand tile sequence (R383). -/
def mmaBytes (w : Nat) : Nat := 4096 * ceilDiv (iNch w) 4

/-- Bytes that an operation reads. -/
def Dev.opReads (d : Dev) (p a : Nat) (o : Op) : List (Nat × Nat) :=
  let w := o.word
  let nv := iNv w
  match iOp w with
  | 0x20 => [(o.s.toNat, mmaBytes w), (o.t.toNat, mmaBytes w)]
  | 0x21 => [(o.s.toNat, 4096)]
  | 0x37 => if iFn w = 0 then [(o.s.toNat, 4)] else d.vecRanges p a o.s.toNat nv ++ d.vecRanges p a o.t.toNat nv
  | 0x48 | 0x49 => [(o.s.toNat, iLen w)]
  | 0x4A | 0x4B => [(o.s.toNat, if bitOf w 1 then 8 else 4)]
  | op =>
    if isVxu op then
      let n := vxuSources w
      (if 1 ≤ n then d.vecRanges p a o.s.toNat nv else []) ++ (if 2 ≤ n then d.vecRanges p a o.t.toNat nv else []) ++
        (if 3 ≤ n then d.vecRanges p a o.u.toNat nv else [])
    else []

/-- Bytes that an operation writes. -/
def Dev.opWrites (d : Dev) (p a : Nat) (o : Op) : List (Nat × Nat) :=
  let w := o.word
  match iOp w with
  | 0x20 => if bitOf w 25 then [(o.u.toNat, 4096)] else []
  | 0x22 => [(o.s.toNat, 4096)]
  | 0x36 => [(o.d.toNat, 4 * iNv w)]
  | 0x48 | 0x49 => [(o.t.toNat, iLen w)]
  | 0x4A | 0x4B => [(o.s.toNat, if bitOf w 1 then 8 else 4)]
  | op => if isVxu op then d.vecRanges p a o.d.toNat (iNv w) else []

def overlap (x y : Nat × Nat) : Bool := decide (x.1 < y.1 + y.2 ∧ y.1 < x.1 + x.2)

/-- Rows of a mover descriptor's source or destination, as one footprint (R129). -/
def footprint (desc : List Byte) (src : Bool) : Nat × Nat :=
  let base := fieldAt desc (if src then 8 else 16) 8
  let x := fieldAt desc 24 4
  let y := fieldAt desc 28 2
  let z := fieldAt desc 30 2
  let sy := fieldAt desc (if src then 32 else 40) 4
  let sz := fieldAt desc (if src then 36 else 44) 4
  (base, (z - 1) * sz + (y - 1) * sy + x)

/-- The mover copy that an outstanding MOVE waits for. -/
def Dev.opCopy (d : Dev) (o : Op) : Option Copy :=
  o.tag.bind (fun t => d.movers.findSome? (fun m => m.2.find? (fun c => decide (c.id = t))))

/-- R380: the ranges conflict with an outstanding operation of the stream. -/
def Dev.hazard (d : Dev) (i : Ins) (reads writes : List (Nat × Nat)) : Bool :=
  let p := i.run.part
  let a := i.s.array
  i.s.ops.any (fun o =>
    let c := (d.opCopy o).map (·.desc)
    let ow := d.opWrites p a o ++ (match c with | some b => [footprint b false] | none => [])
    let or_ := d.opReads p a o ++ (match c with | some b => [footprint b true] | none => [])
    reads.any (fun x => ow.any (overlap x)) || writes.any (fun x => (ow ++ or_).any (overlap x)))

/-- R393: a speculative stream may make these accesses: writes inside its segment, nothing outside the partition's own
T0 to T2. -/
def Dev.specFree (d : Dev) (i : Ins) (reads writes : List (Nat × Nat)) : Bool :=
  match i.s.spec with
  | none => true
  | some x =>
    match d.tailSeg i.run.wb i.s.array x.seg with
    | none => false
    | some g =>
      writes.all (fun r => decide (g.1 ≤ r.1 ∧ r.1 + r.2 ≤ g.1 + g.2)) && reads.all (fun r => d.inShare i.run.part r.1 r.2)

/-- The access may happen now: no conflict with an outstanding operation, and none that speculation holds back. -/
def Dev.guard (d : Dev) (i : Ins) (reads writes : List (Nat × Nat)) (f : Dev → Dev) : Dev :=
  if d.hazard i reads writes then d.stall i .op
  else if !d.specFree i reads writes then d.stall i .spec
  else f d

/-- An operation issues without waiting (R380). -/
def Dev.push (d : Dev) (i : Ins) (tag : Option Nat) : Dev :=
  let o : Op := ⟨i.w, i.s.pc, BitVec.ofNat 64 i.sv, BitVec.ofNat 64 i.tv, BitVec.ofNat 64 i.uv, BitVec.ofNat 64 i.dv, tag⟩
  d.goOn i (fun s => { s with ops := s.ops ++ [o] })

def Ins.op (i : Ins) : Op :=
  ⟨i.w, i.s.pc, BitVec.ofNat 64 i.sv, BitVec.ofNat 64 i.tv, BitVec.ofNat 64 i.uv, BitVec.ofNat 64 i.dv, none⟩

/-- An operation of the arrays: its operands in the stream's own T0, no conflict, room among the outstanding 64. -/
def Dev.issueOp (d : Dev) (i : Ins) (ok : Bool) : Dev :=
  let p := i.run.part
  let a := i.s.array
  if !ok then d.seqRange i
  else if 64 ≤ i.s.ops.length then d.stall i .op
  else
    let ws := d.opWrites p a i.op
    if ws.any (fun r => d.isProtected r.1 r.2) then d.seqBlocked i
    else d.guard i (d.opReads p a i.op) ws (fun d => d.push i none)

/-- The operation under a tag has ended: it leaves the scoreboard. -/
def Dev.opEnded (d : Dev) (run tag : Nat) (f : Op → Stream → Stream) : Dev :=
  match d.run run with
  | none => d
  | some r =>
    match r.streams.find? (fun s => s.ops.any (fun o => decide (o.tag = some tag))) with
    | none => d
    | some s =>
      d.setStream run s.array s.q (fun s =>
        match s.ops.find? (fun o => decide (o.tag = some tag)) with
        | some o => f o { s with
            ops := s.ops.filter (fun x => decide (x.tag ≠ some tag))
            wait := if s.wait = .op then .none else s.wait }
        | none => s)

end Sys2Proof.Machine
end

