-- ==== Sys2Proof/Machine/Mover.lean ====
section
/-! DEFINITION. Mover descriptors and their checks, and the steps of a tile mover (R126 to R132, R138, R142). -/

namespace Sys2Proof.Machine

/-! ### Descriptors (Table 04-4) -/

/-- Flags of a mover descriptor. -/
def mvDone (b : List Byte) : Bool := bitOf (fieldAt b 1 1) 0
def mvStart (b : List Byte) : Bool := bitOf (fieldAt b 1 1) 1
def mvZero (b : List Byte) : Bool := bitOf (fieldAt b 1 1) 2
def mvSrc (b : List Byte) : Nat := fieldAt b 8 8
def mvDst (b : List Byte) : Nat := fieldAt b 16 8
def mvX (b : List Byte) : Nat := fieldAt b 24 4
def mvY (b : List Byte) : Nat := fieldAt b 28 2
def mvZ (b : List Byte) : Nat := fieldAt b 30 2
def mvTotal (b : List Byte) : Nat := mvX b * mvY b * mvZ b

/-- R129: a region with these strides does not overlap itself. -/
def strideOk (x y z sy sz : Nat) : Bool :=
  decide ((y ≤ 1 ∨ x ≤ sy) ∧ (z ≤ 1 ∨ (y - 1) * sy + x ≤ sz))

/-- R127, R129 on a descriptor without its addresses' reach: subcode of the first breach. -/
def mvForm (b : List Byte) : Option Nat :=
  let k := fieldAt b 0 1
  let x := mvX b
  let y := mvY b
  let z := mvZ b
  if 2 < k ∨ 8 ≤ fieldAt b 1 1 ∨ fieldAt b 6 2 ≠ 0 ∨ fieldAt b 52 8 ≠ 0 ∨ fieldAt b 60 4 ≠ 0 then some 5
  else if x = 0 ∨ y = 0 ∨ z = 0 ∨ (k = 0 ∧ y ≠ 1) ∨ (k ≤ 1 ∧ z ≠ 1) then some 7
  else if !strideOk x y z (fieldAt b 40 4) (fieldAt b 44 4) then some 7
  else if !mvZero b && !strideOk x y z (fieldAt b 32 4) (fieldAt b 36 4) then some 7
  else if !mvZero b && overlap (footprint b true) (footprint b false) &&
      decide (fieldAt b 32 4 ≠ fieldAt b 40 4 ∧ 1 < y ∨ fieldAt b 36 4 ≠ fieldAt b 44 4 ∧ 1 < z) then some 7
  else none

/-- R130, R388: subcode with which a descriptor of partition `p` and context `c` is refused. -/
def Dev.moverBad (d : Dev) (p : Nat) (c : Option Nat) (b : List Byte) : Option Nat :=
  match mvForm b with
  | some s => some s
  | none =>
    if (mvDone b && !d.flagWritable p (fieldAt b 2 2)) || (mvStart b && !d.flagReadable p (fieldAt b 4 2)) then some 7
    else
      let s := footprint b true
      let t := footprint b false
      if !oneRange t.1 t.2 || !d.inReach p c t.1 t.2 true then some 8
      else if !mvZero b && (!oneRange s.1 s.2 || !d.inReach p c s.1 s.2 false) then some 8
      else none

/-! ### Traversal (R131, R132) -/

/-- δ > 0 and the footprints intersect: every axis descends. -/
def mvDesc (b : List Byte) : Bool :=
  !mvZero b && decide (mvSrc b < mvDst b) && overlap (footprint b true) (footprint b false)

/-- δ = 0: the destination already holds the result. -/
def mvSame (b : List Byte) : Bool :=
  !mvZero b && decide (mvSrc b = mvDst b) && decide (fieldAt b 32 4 = fieldAt b 40 4 ∨ mvY b = 1) &&
    decide (fieldAt b 36 4 = fieldAt b 44 4 ∨ mvZ b = 1)

/-- A piece of a copy: source and destination addresses of its lowest byte, bytes. -/
structure Piece where
  src : Nat
  dst : Nat
  n : Nat
  deriving DecidableEq, Repr

/-- Start of the row that holds byte `i` of the ascending order: source, destination. -/
def mvRow (b : List Byte) (i : Nat) : Nat × Nat :=
  let r := i / max 1 (mvX b)
  let y := r % max 1 (mvY b)
  let z := r / max 1 (mvY b)
  (mvSrc b + z * fieldAt b 36 4 + y * fieldAt b 32 4, mvDst b + z * fieldAt b 44 4 + y * fieldAt b 40 4)

/-- The next piece when `done` bytes have been copied: at most `most` bytes, within a row, and within an aligned block of
`unit` bytes of the destination. -/
def mvPiece (b : List Byte) (done unit most : Nat) : Piece :=
  if mvDesc b then
    let i := mvTotal b - 1 - done
    let x := i % max 1 (mvX b)
    let r := mvRow b i
    let n := min (min (x + 1) ((r.2 + x) % unit + 1)) most
    ⟨r.1 + x + 1 - n, r.2 + x + 1 - n, n⟩
  else
    let x := done % max 1 (mvX b)
    let r := mvRow b done
    let n := min (min (mvX b - x) (unit - (r.2 + x) % unit)) most
    ⟨r.1 + x, r.2 + x, n⟩

/-! ### Steps -/

def Copy.who (c : Copy) (r : Run) (t : Nat) : Who := ⟨c.part, c.ctx, some c.run, b2n r.safety, 7, t, none⟩

/-- The copy is still waiting for a T3 read or a peer operation. -/
def Dev.copyBusy (d : Dev) (t id : Nat) : Bool :=
  d.t3reads.any (fun x => decide (x.copy = some (t, id))) || d.plk.ops.any (fun o => decide (o.copy = some (t, id)))

def Dev.setCopy (d : Dev) (t id : Nat) (f : Copy → Copy) : Dev :=
  d.setMover t ((d.mover t).map (fun c => if c.id = id then f c else c))

/-- The copy leaves its mover: DONE_FLAG with release semantics, its run goes on. -/
def Dev.endCopy (d : Dev) (t : Nat) (c : Copy) : Dev :=
  let d := d.setMover t ((d.mover t).filter (fun x => decide (x.id ≠ c.id)))
  let d := d.setRun c.run (fun r => { r with copies := r.copies.filter (fun x => decide (x ≠ (t, c.id))) })
  let d := if mvDone c.desc then
      d.writeFlag ⟨(match d.run c.run with | some r => b2n r.safety | none => 0), c.ctx, 7, t, none, none⟩ (fieldAt c.desc 2 2) true
    else d
  d.opEnded c.run c.id (fun _ s => s)

/-- More bytes of a copy are in place. -/
def Dev.advanceCopy (d : Dev) (t : Nat) (c : Copy) (n : Nat) : Dev :=
  let d := d.count 4 3 n ⟨(match d.run c.run with | some r => b2n r.safety | none => 0), c.ctx, 7, t, none, none⟩
  let e := { c with done := c.done + n }
  if mvTotal c.desc ≤ e.done then d.endCopy t e else d.setCopy t c.id (fun x => { x with done := e.done })

/-- An access error ends the copy's run (R138, R144). For a MOVE the sequencer logs it. -/
def Dev.copyFail (d : Dev) (c : Copy) (e : AccErr) : Dev :=
  match d.run c.run with
  | none => d
  | some r =>
    match r.streams.findSome? (fun s => (s.ops.find? (fun o => decide (o.tag = some c.id))).map (fun o => (s, o))) with
    | some so => d.seqAcc ⟨r, so.1, so.2.word, (d.codeOf r.wb so.1.array).1 + 8 * so.2.pc⟩ e
    | none => d.failAcc r e

/-- Poison the granules of a range of T0 to T2. -/
def Dev.poisonRange (d : Dev) (x n : Nat) : Dev :=
  (granules x n).foldl (fun (d : Dev) g =>
    match rgnOf (g * 64) with
    | .t0 _ _ | .t1 _ | .t2 _ _ => d.poisonGranule g
    | _ => d) d

/-- R138: poison the destination granules that would receive the bytes of a poisoned source granule in this piece's row. -/
def Dev.poisonDest (d : Dev) (p : Piece) (src : Nat) : Dev :=
  let lo := max p.src src
  let hi := min (p.src + p.n) (src + 64)
  d.poisonRange (p.dst + (lo - p.src)) (hi - lo)

/-- Copy pieces between addresses of the device until `left` bytes are done or an error ends the copy. -/
def Dev.movePieces (d : Dev) (w : Who) (b : List Byte) (done left : Nat) (fuel : Nat) : Dev × Nat × Option AccErr :=
  match fuel with
  | 0 => (d, done, none)
  | k + 1 =>
    if left = 0 then (d, done, none)
    else
      let p := mvPiece b done 64 left
      let rd : Dev × Except AccErr (List Byte) :=
        if mvZero b then (d, .ok (List.replicate p.n 0)) else d.readDev w p.src p.n
      match rd with
      | (d, .error e) =>
        let row := mvPiece b done 65536 left
        let d := match e with | .poison _ g => d.poisonDest row g | _ => d
        (d, done, some e)
      | (d, .ok bs) =>
        match d.write w p.dst bs with
        | (d, some e) => (d, done, some e)
        | (d, none) => d.movePieces w b (done + p.n) (left - p.n) k

/-- A step whose source or destination is in peer space: one remote operation of at most 4 KiB. -/
def Dev.moveRemote (d : Dev) (t : Nat) (c : Copy) (r : Run) (left : Nat) : Dev :=
  let w := c.who r t
  let b := c.desc
  let p := mvPiece b c.done 4096 left
  let toPeer := isPeer p.dst
  let m := peerOf (if toPeer then p.dst else p.src)
  match d.wayTo m.1 with
  | .none => d.copyFail c (.peer m.1)
  | .wait => d
  | .go =>
    let tag := d.nextId
    let d := { d with nextId := d.nextId + 1 }
    if toPeer then
      if mvZero b then d.sendL4 ⟨tag, m.1, c.run, 3, p.dst, p.n, some (t, c.id)⟩ (reqBytes 0 0 m.2 p.n (List.replicate p.n 0))
      else
        match d.readDev w p.src p.n with
        | (d, .error e) => d.copyFail c e
        | (d, .ok bs) => d.sendL4 ⟨tag, m.1, c.run, 3, p.dst, p.n, some (t, c.id)⟩ (reqBytes 0 0 m.2 p.n bs)
    else d.sendL4 ⟨tag, m.1, c.run, 4, p.dst, p.n, some (t, c.id)⟩ (reqBytes 1 0 m.2 p.n [])

/-- A step that reads T3: one read, whose data the completion writes (R142). -/
def Dev.moveT3 (d : Dev) (t : Nat) (c : Copy) (left : Nat) : Dev :=
  let p := mvPiece c.desc c.done 65536 left
  match c.ctx.bind (fun k => (d.t3Map k p.src p.n false).map (fun io => (k, io))) with
  | some x => d.startT3 c.run x.1 x.2 p.n p.src (fieldAt c.desc 48 4) (some (t, c.id)) p.dst
  | none => d.copyFail c .blocked

/-- One step of a copy: at most 64 KiB of destination bytes (R126). -/
def Dev.stepCopy (d : Dev) (t : Nat) (c : Copy) (r : Run) : Dev :=
  let d := (d.markStarted r.id).setCopy t c.id (fun x => { x with started := true })
  let b := c.desc
  if mvSame b then d.endCopy t c
  else
    let left := min 65536 (mvTotal b - c.done)
    if isPeer (mvDst b) || (!mvZero b && isPeer (mvSrc b)) then d.moveRemote t c r left
    else if !mvZero b && isT3 (mvSrc b) then d.moveT3 t c left
    else
      match d.movePieces (c.who r t) b c.done left 65536 with
      | (d, done, none) => d.advanceCopy t c (done - c.done)
      | (d, done, some e) => (d.setCopy t c.id (fun x => { x with done := done })).copyFail c e

/-- R126: the first copy of each run, in the order the mover received them, whose start flag is set or which has begun. -/
def Dev.moverReady (d : Dev) (t : Nat) : List (Copy × Run) :=
  let q := d.mover t
  q.filterMap (fun c =>
    match q.find? (fun x => decide (x.run = c.run)) with
    | some f =>
      if f.id = c.id && !d.copyBusy t c.id && (c.started || !mvStart c.desc || d.flag (fieldAt c.desc 4 2)) then
        (d.run c.run).map (fun r => (c, r))
      else none
    | none => none)

/-- R49, R126: the step that the mover takes next. -/
def Dev.stepMover (d : Dev) (t : Nat) : Dev :=
  match minBy (fun (x y : Copy × Run) => edf x.2 y.2) (d.moverReady t) with
  | some x => d.unlessFenced x.2.id (d.isFenced 7 t) (d.stepCopy t x.1 x.2)
  | none => d

/-- Bytes of a copy that arrived from T3 or a peer: write them in place. -/
def Dev.landCopy (d : Dev) (t id dst : Nat) (bs : List Byte) : Dev :=
  match (d.mover t).find? (fun c => decide (c.id = id)) with
  | none => d
  | some c =>
    match d.run c.run with
    | none => d
    | some r =>
      if isPeer dst then
        -- data read from T3 goes on to the peer
        let m := peerOf dst
        match d.wayTo m.1 with
        | .go =>
          let tag := d.nextId
          { d with nextId := d.nextId + 1 }.sendL4 ⟨tag, m.1, c.run, 3, dst, bs.length, some (t, id)⟩ (reqBytes 0 0 m.2 bs.length bs)
        | _ => d.copyFail c (.peer m.1)
      else
        match d.write (c.who r t) dst bs with
        | (d, none) => d.advanceCopy t c bs.length
        | (d, some e) => d.copyFail c e

end Sys2Proof.Machine
end

