-- ==== Sys2Proof/Machine/Image.lean ====
section
/-! DEFINITION. What the vision engines compute from the pixels of their inputs (R235 to R244). A number whose arithmetic no
rule fixes bit by bit is a free value of its operands (DESIGN CHOICE, safe, log entry 7). -/

namespace Sys2Proof.Machine

/-- An image as an engine has read it: size, bytes per pixel, format, rows from `miss` on are missing (R229). -/
structure Img where
  w : Nat
  h : Nat
  bpp : Nat
  fmt : Nat
  miss : Nat
  bytes : List Byte
  deriving DecidableEq, Repr

/-- Stored value of pixel (x, y); the luma of YUV422. -/
def Img.px (i : Img) (x y : Nat) : Nat :=
  if i.fmt = 5 then fieldAt i.bytes ((y * i.w + x) * 2 + 1) 1 else fieldAt i.bytes ((y * i.w + x) * i.bpp) i.bpp

def Img.inside (i : Img) (x y : Int) : Bool := decide (0 ≤ x ∧ x < i.w ∧ 0 ≤ y ∧ y < i.h)

def visNum (op : Nat) (args : List Nat) (n : Nat) : Nat := (Config.vision op args n).toNat

/-- A sample; one outside the image or the rows that Table 08-6 has the engine read, of which no rule gives a value, is free. -/
def Img.get (i : Img) (x y : Int) : Nat :=
  if i.inside x y && decide ((y.toNat + 1) * i.w * i.bpp ≤ i.bytes.length) then i.px x.toNat y.toNat else visNum 6 [ofSigned 32 x, ofSigned 32 y, i.w, i.h] 0 % 256

/-- Convergent right shift of U16 to 8 bits, saturating (R236, R238, R242, R244). -/
def shift8 (s v : Nat) : Nat := min 255 (convDiv (v : Int) (2 ^ s)).toNat

/-- The image as 8-bit intensities. -/
def Img.to8 (i : Img) (s : Nat) : Img :=
  if i.bpp = 1 then i
  else
    { i with
      bpp := 1
      fmt := 1
      bytes := (List.range i.h).flatMap (fun y => (List.range i.w).map (fun x => BitVec.ofNat 8 (shift8 s (i.px x y)))) }

/-! ### Rectify (R235, R236) -/

/-- The RWU's parameters (Table 08-7) with the mesh of CALIB_DA. -/
structure Rwu where
  mode : Nat
  interp : Nat
  grid : Nat
  shift : Nat
  border : Nat
  hm : List Nat
  mesh : List Byte
  deriving DecidableEq, Repr

/-- Node coordinate `c` (0 x, 1 y) of mesh node (u, v) in Q20.12. -/
def Rwu.node (r : Rwu) (cols c u v : Nat) : Int := toSigned 32 (fieldAt r.mesh (8 * (v * cols + u) + 4 * c) 4)

/-- R235: source coordinate in 1/256 pixel of output (x, y); none is out of bounds. -/
def Rwu.coord (r : Rwu) (ow x y : Nat) : Option (Int × Int) :=
  match r.mode with
  | 0 =>
    let n := 2 ^ r.grid
    let cols := ceilDiv ow n + 1
    let u := x / n
    let v := y / n
    let fx : Int := x % n
    let fy : Int := y % n
    let m : Int := n
    let bil (c : Nat) : Int :=
      let s := (r.node cols c u v * (m - fx) + r.node cols c (u + 1) v * fx) * (m - fy) +
        (r.node cols c u (v + 1) * (m - fx) + r.node cols c (u + 1) (v + 1) * fx) * fy
      convDiv s (n * n * 16)
    some (bil 0, bil 1)
  | 1 =>
    let p (i : Nat) : Nat := visNum 1 (r.hm ++ [x, y]) i
    let z := p 2
    if !(Num.fin false 0 0).lt (fp32.decode z) then none
    else
      let q (v : Nat) : Option Int :=
        match fp32.decode (fp32.div v z) with
        | .fin s m e => (Num.fin s m (e + 8)).toIntConv
        | _ => none
      match q (p 0), q (p 1) with
      | some a, some b => some (a, b)
      | _, _ => none
  | _ => some (256 * (x : Int), 256 * (y : Int))

/-- Weights in Q1.15 of the taps from `first` on, at phase f/256. -/
def kernelOf (interp : Nat) (f : Int) : Int × List Int :=
  match interp with
  | 1 => (0, [(256 - f) * 128, f * 128])
  | _ =>
    -- bicubic convolution with a = −0.5, over 2^25
    let near (t : Int) : Int := 3 * t ^ 3 - 5 * 256 * t ^ 2 + 2 * 256 ^ 3
    let far (t : Int) : Int := -(t ^ 3) + 5 * 256 * t ^ 2 - 8 * 256 ^ 2 * t + 4 * 256 ^ 3
    (-1, [far (256 + f), near f, near (256 - f), far (512 - f)].map (fun v => convDiv v 1024))

/-- R236: the sampled value of one output pixel, none for BORDER. -/
def Rwu.sample (r : Rwu) (i : Img) (c : Int × Int) : Option Nat :=
  match r.interp with
  | 0 =>
    let x := convDiv c.1 256
    let y := convDiv c.2 256
    if i.inside x y && decide (y < i.miss) then some (i.get x y) else none
  | n =>
    let kx := kernelOf n (c.1 % 256)
    let ky := kernelOf n (c.2 % 256)
    let x0 := c.1 / 256 + kx.1
    let y0 := c.2 / 256 + ky.1
    let w : Int := kx.2.length
    let ok := i.inside x0 y0 && i.inside (x0 + w - 1) (y0 + w - 1) && decide (y0 + w - 1 < i.miss)
    if ok then
      let s := (List.range ky.2.length).foldl (fun a v =>
        (List.range kx.2.length).foldl (fun a u =>
          a + (ky.2.getD v 0) * (kx.2.getD u 0) * (i.get (x0 + u) (y0 + v) : Int)) a) 0
      let top : Nat := if i.bpp = 1 ∨ i.fmt = 5 then 8 else 16
      some (satUnsigned top (convDiv s (2 ^ 30))).toNat
    else none

/-- One output row, and whether a pixel of it touches a missing row. -/
def Rwu.row (r : Rwu) (i : Img) (ow ofmt y : Nat) : List Byte × Bool :=
  let depth := decide (i.fmt = 6)
  let px := (List.range ow).map (fun x =>
    let c := r.coord ow x y
    let v := c.bind (fun c => r.sample i c)
    let full := c.bind (fun c => r.sample { i with miss := i.h } c)
    let out := match v with
      | some v => if r.shift ≠ 0 ∧ i.bpp = 2 ∧ i.fmt ≠ 5 ∧ depth = false then shift8 r.shift v else v
      | none => if depth then 0 else r.border
    (leBytes (if ofmt = 1 then 1 else 2) out, v.isNone && full.isSome))
  (px.flatMap (·.1), px.any (·.2))

/-! ### Pyramid (R237) -/

/-- Reflect without repeating the edge. -/
def reflect (x : Int) (n : Nat) : Int :=
  if x < 0 then -x else if (n : Int) ≤ x then 2 * ((n : Int) - 1) - x else x

/-- The next coarser level. -/
def Img.half (i : Img) (mean : Bool) : Img :=
  let w := (i.w + 1) / 2
  let h := (i.h + 1) / 2
  let miss := if i.h ≤ i.miss then h else if mean then min h ((i.miss - 1 + 1) / 2) else min h ((i.miss - 2 + 1) / 2)
  let val (x y : Nat) : Nat :=
    if miss ≤ y then (if mean then 0 else visNum 7 [x, y, i.w, i.h] 0 % 2 ^ (8 * i.bpp))
    else if mean then
      let ps := ([(0, 0), (1, 0), (0, 1), (1, 1)].map (fun (d : Nat × Nat) =>
        if 2 * x + d.1 < i.w ∧ 2 * y + d.2 < i.h then i.px (2 * x + d.1) (2 * y + d.2) else 0)).filter (fun v => decide (v ≠ 0))
      if ps.isEmpty then 0 else (convDiv (sumBy id ps : Nat) ps.length).toNat
    else
      let k : List Nat := [1, 4, 6, 4, 1]
      let s := (List.range 5).foldl (fun (a : Nat) (v : Nat) => (List.range 5).foldl (fun (a : Nat) (u : Nat) =>
        let px := reflect (2 * (x : Int) + (u : Int) - 2) i.w
        let py := reflect (2 * (y : Int) + (v : Int) - 2) i.h
        a + k.getD u 0 * k.getD v 0 * i.get px py) a) 0
      (convDiv (s : Int) 256).toNat
  { w := w, h := h, bpp := i.bpp, fmt := i.fmt, miss := miss,
    bytes := (List.range h).flatMap (fun y => (List.range w).flatMap (fun x => leBytes i.bpp (val x y))) }

def Img.level (i : Img) (mean : Bool) (n : Nat) : Img :=
  match n with
  | 0 => i
  | m + 1 => (i.level mean m).half mean

/-! ### Features (R238 to R241) -/

/-- The 16-pixel circle of radius 3, in order. -/
def circle16 : List (Int × Int) :=
  [(0, -3), (1, -3), (2, -2), (3, -1), (3, 0), (3, 1), (2, 2), (1, 3), (0, 3), (-1, 3), (-2, 2), (-3, 1), (-3, 0), (-3, -1),
    (-2, -2), (-1, -3)]

/-- R238: the largest threshold at which (x, y) is a candidate, 0 for none. -/
def Img.score (i : Img) (arc : Nat) (x y : Int) : Nat :=
  if !(i.inside (x - 3) (y - 3) && i.inside (x + 3) (y + 3)) then 0
  else
    let c : Int := i.get x y
    let ds : List Int := circle16.map (fun p => (i.get (x + p.1) (y + p.2) : Int) - c)
    let best (sg : Int) : Int := (List.range 16).foldl (fun m s =>
      max m ((List.range arc).foldl (fun a j => min a (sg * ds.getD ((s + j) % 16) 0)) 255)) 0
    (max (best 1) (best (-1))).toNat

def Img.corner (i : Img) (arc thresh : Nat) (x y : Int) : Nat :=
  let s := i.score arc x y
  if thresh ≤ s then s else 0

/-- Offset of a quadratic fit through three scores, clamped to half a pixel, in 1/16. -/
def fitOffset (a b c : Nat) : Int :=
  let den : Int := 2 * ((a : Int) - 2 * b + c)
  let num : Int := (a : Int) - c
  if den = 0 then 0
  else
    let v := convDiv (if den < 0 then -num * 16 else num * 16) den.natAbs
    max (-8) (min 8 v)

/-- cos (k π / 16) in 2^-40, k from 0 to 8. -/
def cosTable : List Int :=
  [1099511627776, 1078384820155, 1015816288660, 914210506869, 777472127994, 610855931251, 420764883643, 214504077523, 0]

def cos32 (q : Nat) : Int :=
  let k := q % 32
  if k ≤ 8 then cosTable.getD k 0
  else if k ≤ 16 then -cosTable.getD (16 - k) 0
  else if k ≤ 24 then -cosTable.getD (k - 16) 0
  else cosTable.getD (32 - k) 0

def sin32 (q : Nat) : Int := cos32 (q + 24)

/-- Smoothed intensity: the 5 × 5 binomial kernel, rounded convergently. -/
def Img.smooth (i : Img) (x y : Int) : Nat :=
  let k : List Nat := [1, 4, 6, 4, 1]
  let s := (List.range 5).foldl (fun (a : Nat) (v : Nat) => (List.range 5).foldl (fun (a : Nat) (u : Nat) =>
    a + k.getD u 0 * k.getD v 0 * i.get (x + (u : Int) - 2) (y + (v : Int) - 2)) a) 0
  (convDiv (s : Int) 256).toNat

/-- R239: descriptor bytes at (x, y) with quantised orientation `q` and the pattern table. -/
def Img.describe (i : Img) (pat : List Byte) (q : Nat) (x y : Int) : List Byte :=
  let rot (p : Nat) : Int × Int :=
    let u := toSigned 8 (fieldAt pat p 1)
    let v := toSigned 8 (fieldAt pat (p + 1) 1)
    (convDiv (u * cos32 q - v * sin32 q) (2 ^ 40), convDiv (u * sin32 q + v * cos32 q) (2 ^ 40))
  let bit (j : Nat) : Nat :=
    let a := rot (4 * j)
    let b := rot (4 * j + 2)
    b2n (decide (i.smooth (x + a.1) (y + a.2) < i.smooth (x + b.1) (y + b.2)))
  (List.range 32).map (fun n => BitVec.ofNat 8 ((List.range 8).foldl (fun v j => v + bit (8 * n + j) * 2 ^ j) 0))

/-- First moments over the circular patch of radius 15. -/
def Img.moments (i : Img) (x y : Int) : Int × Int :=
  (List.range 31).foldl (fun (a : Int × Int) (v : Nat) => (List.range 31).foldl (fun (a : Int × Int) (u : Nat) =>
    let dx : Int := (u : Int) - 15
    let dy : Int := (v : Int) - 15
    if dx * dx + dy * dy ≤ 225 then
      let p : Int := i.get (x + dx) (y + dy)
      (a.1 + dx * p, a.2 + dy * p)
    else a) a) (0, 0)

/-- Parameters of an FDU task (Table 08-8). -/
structure Fdu where
  thresh : Nat
  arc : Nat
  shift : Nat
  level : Nat
  cell : Nat
  maxCell : Nat
  maxFeat : Nat
  pattern : List Byte
  deriving DecidableEq, Repr

/-- A feature record (Table 08-9). -/
def Fdu.record (f : Fdu) (i : Img) (x y s : Nat) : List Byte :=
  let sc (u v : Int) : Nat := i.corner f.arc f.thresh u v
  let ox := fitOffset (sc ((x : Int) - 1) y) s (sc ((x : Int) + 1) y)
  let oy := fitOffset (sc x ((y : Int) - 1)) s (sc x ((y : Int) + 1))
  let m := i.moments x y
  let ang := visNum 2 [ofSigned 32 m.1, ofSigned 32 m.2] 0 % 65536
  let q := (convDiv (ang : Int) 2048).toNat % 32
  leBytes 2 (16 * (x : Int) + ox).toNat ++ leBytes 2 (16 * (y : Int) + oy).toNat ++ leBytes 1 f.level ++ leBytes 1 s ++
    leBytes 2 ang ++ List.replicate 8 0 ++ i.describe f.pattern q x y ++ List.replicate 16 0

/-- R238, R240: features of rows y0 to y1 − 1: position and score, by y, then x. -/
def Fdu.band (f : Fdu) (i : Img) (y0 y1 : Nat) : List (Nat × Nat × Nat) :=
  let sc (u v : Int) : Nat := i.corner f.arc f.thresh u v
  let cands := (List.range (y1 - y0)).flatMap (fun (k : Nat) =>
    let y : Nat := y0 + k
    (List.range i.w).filterMap (fun (x : Nat) =>
      let s := sc x y
      let far := decide (18 ≤ x ∧ x + 18 < i.w ∧ 18 ≤ y ∧ y + 18 < i.h ∧ y + 18 < i.miss)
      let top := [(-1, -1), (0, -1), (1, -1), (-1, 0), (1, 0), (-1, 1), (0, 1), (1, 1)].all
        (fun (p : Int × Int) => decide (sc ((x : Int) + p.1) ((y : Int) + p.2) < s))
      if 0 < s ∧ far = true ∧ top = true then some (x, y, s) else none))
  cands.filter (fun c =>
    let better := cands.filter (fun e =>
      decide (e.1 / f.cell = c.1 / f.cell ∧ e.2.1 / f.cell = c.2.1 / f.cell) &&
      (decide (c.2.2 < e.2.2) || (decide (e.2.2 = c.2.2) &&
        (decide (e.2.1 < c.2.1) || (decide (e.2.1 = c.2.1) && decide (e.1 < c.1))))))
    decide (better.length < f.maxCell))

/-! ### Stereo (R242, R243) -/

structure Sdu where
  dmin : Nat
  nd : Nat
  paths : Nat
  p1 : Nat
  p2 : Nat
  uniq : Nat
  lrTol : Nat
  shift : Nat
  fb : Nat
  deriving DecidableEq, Repr

/-- 7 × 7 census transform: bits for the 48 neighbours below the centre. -/
def Img.census (i : Img) (x y : Int) : List Bool :=
  (List.range 49).map (fun k =>
    let dx : Int := (k % 7 : Nat) - 3
    let dy : Int := (k / 7 : Nat) - 3
    decide (i.get (x + dx) (y + dy) < i.get x y))

/-- Matching cost of left (x, y) at disparity d; none where the right pixel falls outside. -/
def sduCost (l r : Img) (x y d : Nat) : Option Nat :=
  if d ≤ x then
    some ((((l.census x y).zip (r.census ((x : Int) - d) y)).filter (fun p => p.1 != p.2)).length)
  else none

def sat16 (n : Nat) : Nat := min 65535 n

/-- One step of a path: costs of a pixel from those of the pixel before it on the path. -/
def pathStep (p1 p2 : Nat) (cost prev : List (Option Nat)) : List (Option Nat) :=
  match minBy (fun a b => decide (a < b)) (prev.filterMap id) with
  | none => cost
  | some m =>
    (List.range cost.length).map (fun d =>
      ((cost.getD d none)).map (fun c =>
        let opt := [(prev.getD d none), ((if d = 0 then none else prev.getD (d - 1) none)).map (· + p1),
          (prev.getD (d + 1) none).map (· + p1), some (m + p2)].filterMap id
        sat16 (c + ((minBy (fun a b => decide (a < b)) opt).getD m - m))))

/-- Costs at (x, y) of the path that comes from direction (dx, dy), over at most `fuel` pixels. -/
def Sdu.path (s : Sdu) (l r : Img) (dx dy : Int) (x y : Int) (fuel : Nat) : List (Option Nat) :=
  let cost := (List.range s.nd).map (fun k => sduCost l r x.toNat y.toNat (s.dmin + k))
  match fuel with
  | 0 => cost
  | n + 1 =>
    if l.inside (x - dx) (y - dy) then pathStep s.p1 s.p2 cost (s.path l r dx dy (x - dx) (y - dy) n) else cost

def Sdu.dirs (s : Sdu) : List (Int × Int) :=
  let four : List (Int × Int) := [(1, 0), (-1, 0), (0, 1), (1, 1)]
  if s.paths = 8 then four ++ four.map (fun p => (-p.1, -p.2)) else four

/-- Total costs at a left pixel. -/
def Sdu.total (s : Sdu) (l r : Img) (x y : Nat) : List (Option Nat) :=
  let ps := s.dirs.map (fun d => s.path l r d.1 d.2 x y (l.w + l.h))
  (List.range s.nd).map (fun k =>
    ps.foldl (fun a p => match a, p.getD k none with | some u, some v => some (sat16 (u + v)) | _, _ => none) (some 0))

/-- Index of the smallest cost, ties to the smaller disparity. -/
def winner (cs : List (Option Nat)) : Option (Nat × Nat) :=
  minBy (fun a b => decide (a.2 < b.2)) ((List.range cs.length).filterMap (fun k => (cs.getD k none).map (fun c => (k, c))))

/-- Winner of the right image at (x, y), over the left totals that map to it. -/
def Sdu.rightWinner (s : Sdu) (l r : Img) (x y : Nat) : Option Nat :=
  ((winner ((List.range s.nd).map (fun k =>
    let xl := x + s.dmin + k
    if xl < l.w then (s.total l r xl y).getD k none else none))).map (·.1))

/-- R243: disparity code and confidence of a left pixel; none is invalid. -/
def Sdu.pixel (s : Sdu) (l r : Img) (x y : Nat) : Option (Nat × Nat) :=
  let cs := s.total l r x y
  match winner cs with
  | none => none
  | some (k, c1) =>
    let rest := (List.range s.nd).filterMap (fun j => if j + 1 < k ∨ k + 1 < j then cs.getD j none else none)
    let bad := match minBy (fun a b => decide (a < b)) rest with
      | some c2 => decide (c2 * 256 ≤ c1 * (256 + s.uniq))
      | none => false
    let c2 := (minBy (fun a b => decide (a < b)) rest).getD 65535
    let inner := decide (0 < k ∧ k + 1 < s.nd)
    let q : Nat := match (if inner then (cs.getD (k - 1) none, cs.getD (k + 1) none) else (none, none)) with
      | (some a, some b) =>
        let den : Int := 2 * ((a : Int) - 2 * c1 + b)
        let base : Int := 32 * (s.dmin + k : Nat)
        if den = 0 then base.toNat
        else
          let num : Int := 32 * ((a : Int) - b)
          (base + convDiv (if den < 0 then -num else num) den.natAbs).toNat
      | _ => 32 * (s.dmin + k)
    let lr := s.lrTol ≠ 255 && (match s.rightWinner l r (x - (s.dmin + k)) y with
      | some j => decide (s.lrTol < 32 * (if j < k then k - j else j - k))
      | none => true)
    let touch := decide (min l.miss r.miss ≤ y + 3)
    if bad || lr || touch then none
    else some (q, max 1 (convDiv (255 * ((c2 : Int) - c1)) (max 1 c2)).toNat)

/-- Depth of a disparity code (R243). -/
def Sdu.depth (s : Sdu) (q : Nat) : Nat :=
  if q = 0 then 0
  else
    let v := (convDiv ((s.fb * 32 : Nat) : Int) q).toNat
    if 65535 < v then 0 else v

/-! ### Flow (R244) -/

/-- Flow code pair and confidence of output point (x, y), none where it is invalid, and whether a window touches a missing
row: the displacement, λ and which windows leave the image or touch a missing row are free values of everything the OFU
reads. -/
def ofuPoint (params : List Byte) (imgs : List Img) (x y : Nat) : Option (Nat × Nat × Nat) × Bool :=
  let args := x :: y :: params.map (·.toNat) ++ imgs.flatMap (fun i => i.w :: i.h :: i.miss :: i.bytes.map (·.toNat))
  let eigMin := fieldAt params 5 1
  let lam := fp32.decode (visNum 8 args 2)
  let touch := imgs.any (fun i => decide (i.miss < i.h)) && decide (visNum 8 args 4 % 2 = 1)
  let code (v : Nat) : Option Int :=
    match fp32.decode v with
    | .fin s m e =>
      let c := (Num.fin s m (e + 5)).toIntConv.getD 0
      if -32768 < c ∧ c < 32768 then some c else none
    | _ => none
  let out := match code (visNum 8 args 0), code (visNum 8 args 1), lam with
    | some u, some v, .fin false m e =>
      if touch || decide (visNum 8 args 3 % 2 = 1) || lam.lt (.fin false eigMin 0) then none
      else
        let c : Int := if 0 ≤ e then convDiv ((16 * m * 2 ^ e.toNat : Nat) : Int) (max 1 eigMin)
          else convDiv ((16 * m : Nat) : Int) (2 ^ (-e).toNat * max 1 eigMin)
        some (ofSigned 16 u, ofSigned 16 v, (min 255 c).toNat)
    | _, _, _ => none
  (out, touch)

end Sys2Proof.Machine
end

