-- ==== Sys2Proof/Machine/Sgc.lean ====
section
/-! DEFINITION. The signal chain: lane parameters, restarts, synchronisation, the three stages (07_signal_chain.md). -/

namespace Sys2Proof.Machine

/-- A set of lane fields, as in force or as buffered (SGC_LANE_CFG, SGC_LANE_TAPS, SGC_GRID_PERIOD, SGC_GRID_OFFSET). -/
structure LaneCfg where
  lane : Nat
  custom : Bool
  preset : Nat
  cic4 : Bool
  fdec : Nat
  dec : Nat
  ntaps : Nat
  period : Nat
  offset : Nat
  /-- Modulator clock in 100 kHz units; RATE and NCH of an IMU lane, RATE 0 where no stream is bound. -/
  freq : Nat
  rate : Nat
  nch : Nat
  deriving DecidableEq, Repr

def LaneCfg.sdi (c : LaneCfg) : Bool := decide (c.lane < 16)

/-- Taps K and CIC order N (Table 07-1, R210, R211). -/
def LaneCfg.taps (c : LaneCfg) : Nat :=
  if c.custom then c.ntaps
  else match c.preset with
    | 0 => 12
    | 1 => 24
    | 2 => 48
    | _ => 96

def LaneCfg.order (c : LaneCfg) : Nat := if c.custom then (if c.cic4 then 4 else 3) else if c.preset < 2 then 3 else 4

/-- Lane fields read through `rd`, which gives a register cell. -/
def Dev.laneCfg (d : Dev) (l : Nat) (rd : Nat → Nat) : LaneCfg :=
  let f (x : Fld) : Nat := bitsOf (rd (x.off l 0)) x.hi x.lo
  let b := d.ing.binds.find? (fun b => decide (laneOf b.stream = some l))
  { lane := l, custom := decide (f R.SGC_LANE_CFG.CUSTOM = 1), preset := f R.SGC_LANE_CFG.PRESET,
    cic4 := decide (f R.SGC_LANE_CFG.CIC4 = 1), fdec := f R.SGC_LANE_CFG.FDEC_M1 + 1, dec := f R.SGC_LANE_CFG.DEC,
    ntaps := f R.SGC_LANE_TAPS.NTAPS, period := f R.SGC_GRID_PERIOD.PERIOD, offset := f R.SGC_GRID_OFFSET.OFFSET,
    freq := max 50 (min 250 (d.get R.SDI_CFG.FREQ l 0)),
    rate := match b with | some b => fieldAt b.ld 24 4 | none => 0,
    nch := match b with | some b => if l < 16 then 1 else max 1 (fieldAt b.spi 2 1) | none => 1 }

def Dev.laneNow (d : Dev) (l : Nat) : LaneCfg := d.laneCfg l (cellOf d.regs)

/-- Ceiling of a finite FP64 number. -/
def fpCeil (v : Nat) : Nat :=
  match fp64.decode v with
  | .fin false m x => if 0 ≤ x then m * 2 ^ x.toNat else ceilDiv m (2 ^ (-x).toNat)
  | _ => 0

/-- R216: the support in ns, on a sigma-delta lane in FP64 as the rule writes it. -/
def LaneCfg.support (c : LaneCfg) : Nat :=
  if c.sdi then
    let i (n : Nat) : Nat := fp64.ofInt n
    let tm := fp64.div (i 1000000000) (i (c.freq * 100000))
    let a := fp64.mul (i (c.order * c.dec)) tm
    let b := fp64.mul (i (c.taps * c.dec)) tm
    let e := fp64.mul (i (8 * c.fdec * c.dec)) tm
    fpCeil (fp64.add (fp64.add a b) e)
  else c.taps * c.rate + 8 * c.fdec * c.rate

def LaneCfg.settle (c : LaneCfg) : Nat := ceilDiv c.support c.period

/-- R219: group delay rounded to the nanosecond. -/
def LaneCfg.delay (c : LaneCfg) : Nat :=
  if c.sdi then
    (convDiv ((c.order * (c.dec - 1) + (c.taps - 1) * c.dec + 8 * c.fdec * c.dec) * 10000 : Nat) (2 * c.freq)).toNat
  else (convDiv ((c.taps - 1 + 8 * c.fdec) * c.rate : Nat) 2).toNat

/-- R215: number of the first check that fails. An IMU lane without a bound stream has no input rate to check. -/
def LaneCfg.bad (c : LaneCfg) : Option Nat :=
  let known := c.sdi || decide (c.rate ≠ 0)
  if c.sdi && !decide (16 ≤ c.dec ∧ c.dec ≤ 256) then some 1
  else if c.custom && !decide (1 ≤ c.ntaps ∧ c.ntaps ≤ 384) then some 2
  else if !decide (10000 ≤ c.period ∧ c.period ≤ 10000000 ∧ c.offset < c.period) then some 3
  else if known && !(if c.sdi then decide (c.fdec * c.dec * 10000 ≤ c.period * c.freq) else decide (c.fdec * c.rate ≤ c.period)) then
    some 3
  else if known && !(if c.sdi then decide (c.taps * 1000000000 * c.freq ≤ 48000000 * c.fdec * c.dec * 10000)
      else decide (c.taps * c.nch * 1000000000 ≤ 48000000 * c.fdec * c.rate)) then some 4
  else if 255 < c.settle then some 5
  else none

/-! ### Lanes -/

def Dev.lane (d : Dev) (l : Nat) : Lane := SMap.read Lane.reset d.lanes l

def Dev.syncLane (d : Dev) (l : Nat) : Dev :=
  let x := d.lane l
  (d.set R.SGC_LANE_STAT.ACTIVE l 0 (b2n x.active)).set R.SGC_LANE_STAT.SETTLING l 0 (b2n (decide (0 < x.settle)))

def Dev.setLane (d : Dev) (l : Nat) (f : Lane → Lane) : Dev :=
  { d with lanes := SMap.write Lane.reset d.lanes l (f (d.lane l)) }.syncLane l

/-- Coefficients of a lane: the bank of a custom FIR, the device's own for a preset (symmetric, R211). -/
def Dev.laneTaps (d : Dev) (c : LaneCfg) : List Int :=
  (List.range c.taps).map (fun k =>
    if c.custom then toSigned 24 (d.get R.SGC_COEF.COEF c.lane k)
    else
      let j := min k (c.taps - 1 - k)
      toSigned 24 (Config.firTap ((c.preset * 2 ^ 32 + c.period) * 2 ^ 32 + (if c.sdi then c.dec * 10000 / c.freq else c.rate)) j).toNat)

/-- R217: a restart: the stages are cleared and a settling span begins. -/
def Dev.restartLane (d : Dev) (l : Nat) (invalid synced : Bool) : Dev :=
  let c := d.laneNow l
  d.setLane l (fun x => { x with
    integ := [], comb := [], bits := 0, firIn := [], firOut := [], inputs := 0, quals := [], settle := c.settle,
    invalid := invalid, synced := x.synced || synced, taps := d.laneTaps c })

/-- The registers that report the configuration in force. -/
def Dev.reportLane (d : Dev) (l : Nat) : Dev :=
  let c := d.laneNow l
  ((d.set R.SGC_LANE_STAT.SETTLE_N l 0 c.settle).set R.SGC_LANE_DELAY.DELAY l 0 c.delay).orreryDelay l

/-- R202, R208, R217: a lane starts at the binding of its stream on base `tb`. -/
def Dev.startLane (d : Dev) (l tb : Nat) : Dev :=
  let c := d.laneNow l
  let d := (d.reportLane l).setLane l (fun x => { x with
    active := true, next := nextOnGrid c.period c.offset (d.tbVal tb), fifo := [] })
  d.restartLane l false false

/-- A lane stops with its binding or its EN bit; what is known of its input stays. -/
def Dev.stopLane (d : Dev) (l : Nat) : Dev :=
  d.setLane l (fun x => { Lane.reset with broken := x.broken })

/-- R215, R217: a configuration has been applied to lane `l`. -/
def Dev.appliedLane (d : Dev) (l tb : Nat) : Dev :=
  let d := d.reportLane l
  if (d.lane l).active then
    let c := d.laneNow l
    (d.setLane l (fun x => { x with next := nextOnGrid c.period c.offset (max (d.tbVal tb) (x.next - c.period)), lastSync := some d.now })).restartLane
      l false false
  else d

/-- R218: every lane with SYNC_EN resynchronises. -/
def Dev.syncLanes (d : Dev) : Dev :=
  let d := d.addWrap R.SGC_SYNC.COUNT 0 0 1
  (List.range 24).foldl (fun d l =>
    let x := d.lane l
    if !x.active || !d.bit R.SGC_LANE_CFG.SYNC_EN l 0 then d
    else if x.broken then d.setLane l (fun x => { x with syncHeld := true })
    else
      let tm := ceilDiv 10000 (d.laneNow l).freq
      let near := match x.lastSync with | some t => decide (d.now < t + tm) | none => false
      let d := d.setLane l (fun x => { x with lastSync := some d.now })
      if near then d else d.restartLane l false true) d

/-! ### Stages (R209, R210, R212 to R214) -/

def wrap42 (x : Int) : Nat := ofSigned 42 x

/-- One modulator bit through the integrators, each from the one before it. -/
def integrate (acc : List Nat) (x : Int) : List Nat :=
  match acc with
  | [] => []
  | a :: r => let y := wrap42 (toSigned 42 a + x); y :: integrate r (toSigned 42 y)

/-- A decimated sample through the combs: the delays and the result. -/
def combs (ds : List Nat) (x : Int) : List Nat × Int :=
  match ds with
  | [] => ([], x)
  | a :: r =>
    let y := toSigned 42 (wrap42 (x - toSigned 42 a))
    let t := combs r y
    (wrap42 x :: t.1, t.2)

/-- FIR inputs of one sample per channel: a FIR output at every FDEC-th (R210). -/
def Lane.firStep (x : Lane) (c : LaneCfg) (vs : List (Int × Bool)) (q : Nat × Nat) : Lane :=
  let keep := max 1 c.taps
  let hist := (List.range vs.length).map (fun i =>
    (((vs[i]?).getD (0, false)) :: ((x.firIn[i]?).getD [])).take keep)
  let x := { x with firIn := hist, inputs := x.inputs + 1, quals := (q :: x.quals).take (c.taps + 8 * c.fdec) }
  if x.inputs < c.fdec then x
  else
    let outs := (List.range vs.length).map (fun i =>
      let h := (hist[i]?).getD []
      let acc := (x.taps.zip (h.map (·.1))).foldl (fun a p => a + p.1 * p.2) 0
      let y := convDiv acc (2 ^ 23)
      let z := satSigned 32 y
      (((z, decide (z ≠ y) || h.any (·.2))) :: ((x.firOut[i]?).getD [])).take 8)
    { x with firOut := outs, inputs := 0 }

/-- One modulator bit (R209). -/
def Lane.bitStep (x : Lane) (c : LaneCfg) (b : Bool) : Lane :=
  let n := c.order
  let ig := integrate (if x.integ.isEmpty then List.replicate n 0 else x.integ) (if b then 1 else -1)
  let x := { x with integ := ig, bits := x.bits + 1 }
  if x.bits < c.dec then x
  else
    let r := combs (if x.comb.isEmpty then List.replicate n 0 else x.comb) (toSigned 42 (ig.getLastD 0))
    let y := convDiv (r.2 * 2 ^ 31) (c.dec ^ n)
    let z := satSigned 32 y
    { x with comb := r.1, bits := 0 }.firStep c [(z, decide (z ≠ y))] (0, 0)

/-- R212, R213: the output of every channel at a grid instant, from the kernel at this output's phase. -/
def Lane.resample (x : Lane) (nch phase : Nat) : List (Int × Bool) :=
  (List.range nch).map (fun i =>
    let h := (x.firOut[i]?).getD []
    let acc := (List.range h.length).foldl (fun a j =>
      a + toSigned 24 (Config.kernelTap phase j).toNat * ((h[j]?).getD (0, false)).1) 0
    let y := convDiv acc (2 ^ 23)
    let z := satSigned 32 y
    (z, decide (z ≠ y) || h.any (·.2)))

end Sys2Proof.Machine
end

