-- ==== Sys2Proof/Machine/Tim.lean ====
section
/-! DEFINITION. Time bases, the servo and its domains, triggers, SYNC_IN (05_time.md). -/

namespace Sys2Proof.Machine

/-! ### Bases -/

/-- R152. -/
def Dev.tbInUse (d : Dev) (n : Nat) : Bool :=
  d.ing.binds.any (fun b => decide (b.tb = n)) ||
  d.tim.trigs.any (fun t => t.armed && decide (t.base = n)) ||
  d.cal.entries.any (fun e => decide (d.schedTb e.part = n)) ||
  d.ctxs.any (fun c => c.2.enabled && decide (c.2.tb = n) &&
    (decide (0 < d.inflight c.1) || d.cal.entries.any (fun e => decide (e.ctx = some c.1))))

/-- R175: where the events of a base go. -/
def Dev.tbCtxs (d : Dev) (n : Nat) : List Nat := 0 :: d.enabledCtxs (fun c => decide ((d.ctx c).tb = n))

/-- A change of state, with event 0x20 (Table 05-4). -/
def Dev.setTbState (d : Dev) (n st : Nat) : Dev :=
  let old := d.get R.TB_STATUS.STATE n 0
  if old = st then d
  else (d.set R.TB_STATUS.STATE n 0 st).eventAll (d.tbCtxs n) 0x20 0 0 (leBytes 1 n ++ leBytes 1 st ++ leBytes 1 old) 0

/-- R151: a rate clamped to its limit. -/
def clampRate (r : Int) : Int := max (-4194304) (min 4194304 r)

def Dev.setRate (d : Dev) (n : Nat) (r : Int) : Dev := d.set R.TB_RATE.RATE n 0 (ofSigned 32 (clampRate r))

/-- SW_THRESH in ns; 0 is taken as 1. -/
def Dev.thresh (d : Dev) (n : Nat) : Nat := 50 * max 1 (d.get R.TB_CFG.SW_THRESH n 0)

/-- The slot that steers base `n`, and the other one. -/
def Dev.activeSlot (d : Dev) (n : Nat) : Nat :=
  if d.bit R.TB_STATUS.ACTIVE n 0 then d.get R.TB_CFG.SHD_SLOT n 0 else d.get R.TB_CFG.PRI_SLOT n 0
def Dev.otherSlot (d : Dev) (n : Nat) : Nat :=
  if d.bit R.TB_STATUS.ACTIVE n 0 then d.get R.TB_CFG.PRI_SLOT n 0 else d.get R.TB_CFG.SHD_SLOT n 0

def Dev.slot (d : Dev) (s : Nat) : PtpSlot := (d.tim.slots[s]?).getD PtpSlot.reset

def Dev.setSlot (d : Dev) (s : Nat) (f : PtpSlot → PtpSlot) : Dev :=
  { d with tim := { d.tim with slots := modifyAt d.tim.slots s f } }

/-- R167: within the threshold for every Sync of the last 2 s. -/
def Dev.qualified (d : Dev) (n : Nat) : Bool :=
  d.bit R.TB_CFG.SHD_EN n 0 && !(d.slot (d.otherSlot n)).faulted &&
    (match (d.tb n).qualSince with | some t => decide (t + 2000000000 ≤ d.now) | none => false)

def Dev.syncQual (d : Dev) (n : Nat) : Dev := d.set R.TB_STATUS.SHD_QUAL n 0 (b2n (d.qualified n))

/-- R168, R169: the two slots of base `n` swap roles. -/
def Dev.switchTb (d : Dev) (n : Nat) : Dev :=
  let act := d.bit R.TB_STATUS.ACTIVE n 0
  let off := if act then (d.tb n).offPri else (d.tb n).offShd
  let new := d.otherSlot n
  let rate := d.tbRate n
  let d := d.set R.TB_STATUS.ACTIVE n 0 (b2n (!act))
  let d := d.setTb n (fun t => { t with slewFrom := rate, slewing := true, qualSince := none, disagree := 0 })
  (d.syncQual n).eventAll (d.tbCtxs n) 0x21 0 0
    (leBytes 1 n ++ leBytes 1 new ++ leBytes 4 (ofSigned 32 (satSigned 32 off))) 0

/-- R166, R168: the active slot of base `n` is faulted. -/
def Dev.activeFault (d : Dev) (n : Nat) : Dev :=
  if d.bit R.TB_CFG.AUTO_SW n 0 && d.qualified n then d.switchTb n
  else
    let rs := (d.tb n).rates
    let d := if rs.isEmpty then d else d.setRate n (convDiv (rs.foldl (· + ·) 0) rs.length)
    d.setTbState n 3

/-- R167: slot `s` is faulted. -/
def Dev.faultSlot (d : Dev) (s : Nat) : Dev :=
  let d := d.setSlot s (fun x => { x with faulted := true })
  (List.range 4).foldl (fun d n =>
    if !d.bit R.TB_CFG.PRI_EN n 0 then d
    else if d.activeSlot n = s then d.activeFault n
    else if d.otherSlot n = s ∧ d.bit R.TB_CFG.SHD_EN n 0 = true then (d.setTb n (fun t => { t with qualSince := none })).syncQual n
    else d) d

/-! ### The servo (R161, R166 to R170) -/

/-- R170: offsets that disagree for 8 Syncs. -/
def Dev.checkDisagree (d : Dev) (n : Nat) : Dev :=
  let t := d.tb n
  let diff := t.offPri - t.offShd
  let ok := d.bit R.TB_CFG.SHD_EN n 0 && !(d.slot (d.activeSlot n)).faulted && !(d.slot (d.otherSlot n)).faulted &&
    (d.slot (d.otherSlot n)).lastSync.isSome && decide (d.thresh n < diff.natAbs)
  if !ok then d.setTb n (fun t => { t with disagree := 0 })
  else
    let d := d.setTb n (fun t => { t with disagree := t.disagree + 1 })
    if (d.tb n).disagree = 8 then
      (d.set R.TB_STATUS.DISAGREE n 0 1).eventAll (d.tbCtxs n) 0x22 0 0
        (leBytes 1 n ++ leBytes 4 (ofSigned 32 (satSigned 32 diff))) 0
    else d

/-- R169: while a switch is being slewed out, the rate stays within 10 ppm of the one before it. -/
def Tb.slewLimit (t : Tb) (r : Int) : Int :=
  if t.slewing then max (t.slewFrom - 42949) (min (t.slewFrom + 42949) r) else r

/-- What base keeps of a Sync: the rate set, Syncs within the threshold in a row. -/
def Tb.noteSync (t : Tb) (r off : Int) (within : Bool) : Tb :=
  { t with
    rates := (r :: t.rates).take 16
    locks := if within then min 16 (t.locks + 1) else 0
    slewing := t.slewing && decide (off ≠ 0) }

/-- The active slot of base `n` has measured offset `off` ns. -/
def Dev.servo (d : Dev) (n : Nat) (off : Int) : Dev :=
  let within := decide (off.natAbs ≤ d.thresh n)
  let d := if d.get R.TB_STATUS.STATE n 0 = 3 then d.setTbState n 1 else d
  let step := decide (d.get R.TB_STATUS.STATE n 0 = 1) && decide (100000 < off.natAbs) && !d.tbInUse n
  if step then d.setTb n (fun t => { t with val := ((t.val : Int) - off).toNat % 2 ^ 64, locks := 0 })
  else
    let r := (d.tb n).slewLimit (clampRate (toSigned 32 (Config.servoRate d.freeIx).toNat))
    let d : Dev := { d with freeIx := d.freeIx + 1 }
    let d := (d.setRate n r).setTb n (fun t => t.noteSync r off within)
    let locked : Bool := decide ((d.tb n).locks = 16)
    if locked then d.setTbState n 2 else if within then d else d.setTbState n 1

/-- Slot `s` has completed a Sync: origin instant (with correction) and receipt on each base. -/
def Dev.completeSync (d : Dev) (s : Nat) (recv : List Nat) (origin : Int) : Dev :=
  let delay := (d.slot s).delay
  let base := ((List.range 4).find? (fun n => d.bit R.TB_CFG.PRI_EN n 0 && decide (d.activeSlot n = s))).getD 0
  let d := d.setSlot s (fun x => { x with
    lastSync := some d.now, faulted := false, pendSync := none, syncDiff := (recv.getD base 0 : Int) - origin })
  (List.range 4).foldl (fun d n =>
    if !d.bit R.TB_CFG.PRI_EN n 0 then d
    else
      let off : Int := (recv.getD n 0 : Int) - origin - delay
      let pri := decide (d.get R.TB_CFG.PRI_SLOT n 0 = s)
      let shd := d.bit R.TB_CFG.SHD_EN n 0 && decide (d.get R.TB_CFG.SHD_SLOT n 0 = s)
      if !pri && !shd then d
      else
        let d := d.setTb n (fun t => if pri then { t with offPri := off } else { t with offShd := off })
        let d :=
          if d.activeSlot n = s then d.servo n off
          else
            let d := if d.get R.TB_STATUS.STATE n 0 = 3 then d.setTbState n 1 else d
            let d := d.setTb n (fun t => { t with
              qualSince := if off.natAbs ≤ d.thresh n then (t.qualSince.orElse (fun _ => some d.now)) else none })
            d.syncQual n
        d.checkDisagree n) d

/-! ### Messages (R160 to R165) -/

/-- T64 of an IEEE 1588 timestamp (R162). -/
def ptpT64 (m : PtpMsg) : Nat := m.seconds.toNat * 1000000000 + m.nanos.toNat

/-- correctionField in whole ns, toward −∞. -/
def ptpCorr (m : PtpMsg) : Int := toSigned 64 m.correction.toNat / 65536

/-- The base that slot `s` serves: TX_BASE of a transmitter, the first base it steers or shadows of a receiver. -/
def Dev.slotBase (d : Dev) (s : Nat) : Nat :=
  if d.bit R.PTP_SLOT.ROLE s 0 then d.get R.PTP_SLOT.TX_BASE s 0
  else
    ((List.range 4).find? (fun n => d.bit R.TB_CFG.PRI_EN n 0 &&
      (decide (d.get R.TB_CFG.PRI_SLOT n 0 = s) || (d.bit R.TB_CFG.SHD_EN n 0 && decide (d.get R.TB_CFG.SHD_SLOT n 0 = s))))).getD 0

def Dev.slotNow (d : Dev) (s : Nat) : Nat := d.tbVal (d.slotBase s)

/-- R163: clockIdentity of a slot: the port's MAC address with FF FE after its third byte. -/
def Dev.clockId (d : Dev) (s : Nat) : Nat :=
  let e := d.get R.PTP_SLOT.PORT s 0
  let hi := d.get R.ETH_MAC_HI.MAC e 0
  let lo := d.get R.ETH_MAC_LO.MAC e 0
  (hi * 256 + lo / 2 ^ 24) * 2 ^ 40 + 0xFFFE * 2 ^ 24 + lo % 2 ^ 24

/-- R194: the port may send for a slot. -/
def Dev.slotSends (d : Dev) (s : Nat) : Bool :=
  let e := d.get R.PTP_SLOT.PORT s 0
  d.bit R.PTP_SLOT.EN s 0 && decide (d.get R.ETH_MAC_HI.MAC e 0 ≠ 0 ∨ d.get R.ETH_MAC_LO.MAC e 0 ≠ 0) &&
  (match d.get R.PTP_SLOT.TRANSPORT s 0 with
   | 1 => decide (d.get R.ETH_IP4.ADDR e 0 ≠ 0)
   | 2 => (List.range 4).any (fun m => decide (bitsOf (cellOf d.regs (0x3060C + 4 * m + 0x40 * e)) 31 0 ≠ 0))
   | _ => true)

def Dev.isRx (d : Dev) (s : Nat) : Bool := d.bit R.PTP_SLOT.EN s 0 && !d.bit R.PTP_SLOT.ROLE s 0
def Dev.isTx (d : Dev) (s : Nat) : Bool := d.bit R.PTP_SLOT.EN s 0 && d.bit R.PTP_SLOT.ROLE s 0

/-- R160: the slot's filter accepts the sender. -/
def Dev.accepts (d : Dev) (s : Nat) (m : PtpMsg) : Bool :=
  let x := d.slot s
  (decide (x.filtId = 0) || decide (x.filtId = m.clockId.toNat)) && (decide (x.filtPort = 0) || decide (x.filtPort = m.portNum.toNat))

/-- A message of slot `s`: its identity, a sequence number, a T64. -/
def Dev.ptpMsg (d : Dev) (s seq t : Nat) (twoStep : Bool) : PtpMsg :=
  { clockId := BitVec.ofNat 64 (d.clockId s), portNum := BitVec.ofNat 16 (1 + d.get R.PTP_SLOT.PORT s 0),
    seqId := BitVec.ofNat 16 seq, twoStep := twoStep, correction := 0, seconds := BitVec.ofNat 48 (t / 1000000000),
    nanos := BitVec.ofNat 32 (t % 1000000000), reqId := 0, reqPort := 0, gmId := 0, clockQuality := 0, timeSource := 0,
    utcOffset := 0, utcValid := false, steps := 0, prio1 := 0, prio2 := 0, logInterval := 0 }

/-- Send a message of kind messageType. -/
def Dev.sendPtp (d : Dev) (s kind : Nat) (m : PtpMsg) : Dev :=
  if d.slotSends s then d.emit (.ptp (d.get R.PTP_SLOT.PORT s 0) s kind m) else d

/-- 2^l seconds in ns, for a signed 4-bit l clamped to a range. -/
def interval (raw : Nat) (lo hi : Int) : Nat :=
  let l := max lo (min hi (toSigned 4 raw))
  if 0 ≤ l then 1000000000 * 2 ^ l.toNat else 1000000000 / 2 ^ (-l).toNat

def Dev.syncInt (d : Dev) (s : Nat) : Nat := interval (d.get R.PTP_SLOT.LOG_SYNC s 0) (-7) 1
def Dev.annInt (d : Dev) (s : Nat) : Nat := interval (d.get R.PTP_SLOT_ANN.LOG_ANN s 0) (-3) 4
def Dev.delayInt (d : Dev) (s : Nat) : Nat := interval (d.get R.PTP_SLOT_ANN.LOG_DELAY s 0) (-7) 5

/-- An interval has passed since an instant of the reference clock. -/
def Dev.passed (d : Dev) (t : Option Nat) (n : Nat) : Bool := match t with | some x => decide (x + n ≤ d.now) | none => true

/-! ### Triggers (R171 to R173, R542) -/

def Dev.trig (d : Dev) (t : Nat) : Trig := (d.tim.trigs[t]?).getD Trig.reset

def Dev.setTrig (d : Dev) (t : Nat) (f : Trig → Trig) : Dev :=
  let d : Dev := { d with tim := { d.tim with trigs := modifyAt d.tim.trigs t f } }
  d.set R.TRIG_STAT.ACTIVE t 0 (b2n (d.trig t).armed)

/-- Why the program of trigger `t`, as its registers and its buffered window stand, is refused: its status bit (R172). -/
def Dev.trigBad (d : Dev) (t : Nat) : Option Nat :=
  let x := d.trig t
  let per := d.get R.TRIG_PERIOD.PERIOD t 0
  if !d.bit R.TRIG_CTRL.ARM t 0 then none
  else if x.bufStop ≠ 0 ∧ x.bufStop < x.bufStart then some 2
  else if (per ≠ 0 ∧ (per < 16 ∨ per < d.get R.TRIG_CTRL.WIDTH t 0 + 8)) ∨ d.bit R.TB_CFG.EN (d.get R.TRIG_CTRL.BASE t 0) 0 = false then some 3
  else none

/-- The strobe applies the program of trigger `t` from its registers and its buffered window. -/
def Dev.applyTrig (d : Dev) (t : Nat) : Dev :=
  let base := d.get R.TRIG_CTRL.BASE t 0
  let w := d.get R.TRIG_CTRL.WIDTH t 0
  let per := d.get R.TRIG_PERIOD.PERIOD t 0
  let note (d : Dev) (b : Nat) : Dev := d.eventAll (d.tbCtxs base) 0x23 0 0 (leBytes 1 t ++ leBytes 1 b) 0
  if !d.bit R.TRIG_CTRL.ARM t 0 then d.setTrig t (fun x => { x with armed := false })
  else
    match d.trigBad t with
    | some 2 => note (d.set R.TRIG_STAT.ORDER_ERR t 0 1) 2
    | some _ => note (d.set R.TRIG_STAT.PARAM_ERR t 0 1) 4
    | none =>
    let d := d.setTrig t (fun x => { x with
      armed := true, base := base, pol := d.bit R.TRIG_CTRL.POL t 0, width := max 8 w, period := per,
      start := x.bufStart, stop := x.bufStop, next := 0, strobeAt := d.tbVal base })
    if w < 8 then note (d.set R.TRIG_STAT.STRETCHED t 0 1) 1 else d

/-- The pulse that is due on trigger `t`: emitted, or skipped under R173. -/
def Dev.pulse (d : Dev) (t : Nat) : Dev :=
  let x := d.trig t
  let edge := x.start + x.next * x.period
  if !x.armed || decide (d.tbVal x.base < edge) then d
  else
    let skip := decide (edge < x.strobeAt + 1000)
    let d :=
      if skip then (d.set R.TRIG_STAT.SKIPPED t 0 1).setTrig t (fun x => { x with skipped := (x.skipped + 1) % 2 ^ 32 })
      else
        ((d.emit (.trig t (!x.pol))).emit (.trig t x.pol)).setTrig t (fun x => { x with
          emitted := (x.emitted + 1) % 2 ^ 32, lastEdge := edge })
    let last := decide (x.period = 0) || (decide (x.stop ≠ 0) && decide (x.stop ≤ edge + x.period))
    d.setTrig t (fun x => { x with next := x.next + 1, armed := !last })

/-! ### SYNC_IN (R174) -/

def Dev.syncIn (d : Dev) : Dev :=
  let d := { d with tim := { d.tim with syncEdges := (d.tim.syncEdges + 1) % 2 ^ 32 } }
  let d := (List.range 4).foldl (fun d n => if d.bit R.TB_CFG.EN n 0 then d.setTb n (fun t => { t with stamp := t.val }) else d) d
  let load := d.get R.SYNC_CFG.LOAD 0 0
  let d := (onesOf load 4).foldl (fun d n =>
    if d.tbInUse n then d.set R.TB_STATUS.WR_DENIED n 0 1
    else d.setTb n (fun t => { t with val := t.preset, frac := 0 })) d
  d.set R.SYNC_CFG.LOAD 0 0 0

end Sys2Proof.Machine
end

