-- ==== Sys2Proof/Machine/Ing.lean ====
section
/-! DEFINITION. Sensor ingest: landing descriptors, the slot protocol, loss and return (06_sensor_ingest.md). -/

namespace Sys2Proof.Machine

/-! ### The landing descriptor (Table 06-2) -/

def ldFormat (b : List Byte) : Nat := fieldAt b 0 2
def ldSlots (b : List Byte) : Nat := fieldAt b 2 1
def ldChkId (b : List Byte) : Bool := bitOf (fieldAt b 3 1) 0
def ldSlotBytes (b : List Byte) : Nat := fieldAt b 4 4
def ldBase (b : List Byte) : Nat := fieldAt b 8 8
def ldReady (b : List Byte) : Nat := fieldAt b 16 2
def ldConsumed (b : List Byte) : Nat := fieldAt b 18 2
def ldWidth (b : List Byte) : Nat := fieldAt b 20 2
def ldHeight (b : List Byte) : Nat := fieldAt b 22 2
def ldRate (b : List Byte) : Nat := fieldAt b 24 4
def ldDt (b : List Byte) : Nat := fieldAt b 28 1
def ldLoss (b : List Byte) : Nat := if fieldAt b 30 2 = 0 then 3 else fieldAt b 30 2
def ldExpect (b : List Byte) : Nat := fieldAt b 32 6

def isImage (f : Nat) : Bool := decide (1 ≤ f ∧ f ≤ 6)

/-- Bytes per pixel and row stride of an image format. -/
def pixBytes (f : Nat) : Nat := if f = 1 then 1 else 2
def ldStride (b : List Byte) : Nat := roundUp (ldWidth b * pixBytes (ldFormat b)) 128

/-- Bytes of a record of a non-image format (R197, R199, R220). -/
def recBytes (f : Nat) : Nat := if f = 0x11 then 32 else 64

/-- Kinds of sources by stream ID (Table 06-1). -/
inductive StreamSrc where
  | csi (p v : Nat)
  | eth (n : Nat)
  | spi (i : Nat)
  | enc (i : Nat)
  | sdi (c : Nat)
  | host (h : Nat)
  | bad
  deriving DecidableEq, Repr

def srcOf (s : Nat) : StreamSrc :=
  if s < 0x100 then .csi (s / 16) (s % 16)
  else if s < 0x140 then .eth (s - 0x100)
  else if 0x200 ≤ s ∧ s < 0x208 then .spi (s - 0x200)
  else if 0x210 ≤ s ∧ s < 0x218 then .enc (s - 0x210)
  else if 0x220 ≤ s ∧ s < 0x230 then .sdi (s - 0x220)
  else if 0x300 ≤ s ∧ s < 0x320 then .host (s - 0x300)
  else .bad

/-- R179, R208: the format suits the source. -/
def Dev.formatOk (d : Dev) (s f : Nat) : Bool :=
  match srcOf s with
  | .csi _ _ => isImage f
  | .eth n => decide (f = (if d.bit R.ETH_SM_CFG.FORMAT n 0 then 6 else 5))
  | .spi i => decide (f = (if d.bit R.SGC_LANE_CFG.EN (16 + i) 0 then 0x12 else 0x10))
  | .enc _ => decide (f = 0x11)
  | .sdi c => decide (f = 0x12) && d.bit R.SGC_LANE_CFG.EN c 0
  | .host _ => decide (f = 0x13)
  | .bad => false

/-- Reserved fields of Table 06-2 and Table 06-7 are 0. -/
def ldReservedOk (b : List Byte) : Bool :=
  decide (fieldAt b 3 1 < 2 ∧ fieldAt b 29 1 = 0 ∧ fieldAt b 38 2 = 0) && (slice b 40 24).all (· == 0)

def spiReservedOk (b : List Byte) : Bool :=
  decide (fieldAt b 3 1 = 0) && (slice b 32 32).all (· == 0) &&
    (List.range 12).all (fun i => decide (fieldAt b (9 + 2 * i) 1 < 16))

/-- R196: the ranges of the SPI program block. -/
def spiOk (b : List Byte) : Bool :=
  decide (fieldAt b 0 1 ≤ 4 ∧ 1 ≤ fieldAt b 1 1 ∧ fieldAt b 1 1 ≤ 60 ∧ 1 ≤ fieldAt b 2 1 ∧ fieldAt b 2 1 ≤ 12) &&
    (List.range (fieldAt b 2 1)).all (fun i =>
      decide (fieldAt b (8 + 2 * i) 1 + fieldAt b (9 + 2 * i) 1 % 4 + 1 ≤ fieldAt b 1 1))

/-- R179: the fields of Table 06-2 for stream `s`. -/
def Dev.ldOk (d : Dev) (s p : Nat) (b : List Byte) : Bool :=
  let f := ldFormat b
  let img := isImage f
  let share := d.flagShare p
  d.formatOk s f && decide (2 ≤ ldSlots b ∧ ldSlots b ≤ 64 ∧ fieldAt b 30 2 ≠ 1 ∧ fieldAt b 30 2 ≤ 255) &&
  (if img then
    decide (ldSlotBytes b % 4096 = 0 ∧ 4096 + ldStride b * ldHeight b ≤ ldSlotBytes b ∧ ldBase b % 4096 = 0 ∧
      16 ≤ ldWidth b ∧ ldWidth b ≤ 4096 ∧ 1 ≤ ldHeight b ∧ ldHeight b ≤ 3072 ∧ 1 ≤ ldRate b)
  else
    decide (ldSlotBytes b % 64 = 0 ∧ 64 + recBytes f * ldWidth b ≤ ldSlotBytes b ∧ ldBase b % 64 = 0 ∧
      1 ≤ ldWidth b ∧ ldWidth b ≤ 1024 ∧ ldHeight b = 0) &&
    (match srcOf s with | .host _ => decide (ldRate b = 0) | _ => decide (1 ≤ ldRate b))) &&
  (match srcOf s with
   | .csi _ _ => if f = 6 then decide (0x30 ≤ ldDt b ∧ ldDt b ≤ 0x37) else decide (ldDt b = 0)
   | _ => decide (ldDt b = 0)) &&
  d.inShare p (ldBase b) (ldSlots b * ldSlotBytes b) &&
  decide (share.1 ≤ ldReady b ∧ ldReady b + ldSlots b ≤ share.1 + share.2 ∧
    share.1 ≤ ldConsumed b ∧ ldConsumed b + ldSlots b ≤ share.1 + share.2)

/-- Declared pixel rate in millipixel/s (R177). -/
def Bind.pixRate (b : Bind) : Nat :=
  if isImage (ldFormat b.ld) then ldWidth b.ld * ldHeight b.ld * ldRate b.ld else 0

def pixLd (b : List Byte) : Nat := if isImage (ldFormat b) then ldWidth b * ldHeight b * ldRate b else 0

/-- R177: the limits with a further binding. -/
def Dev.limitsOk (d : Dev) (s : Nat) (b : List Byte) : Bool :=
  if isImage (ldFormat b) then
    let imgs := d.ing.binds.filter (fun x => isImage (ldFormat x.ld))
    let port (x : Nat) : Nat := match srcOf x with | .csi p _ => p | _ => 99
    decide (imgs.length < 24) && decide (sumBy Bind.pixRate imgs + pixLd b ≤ 3600000000000) &&
      (port s == 99 ||
        decide (sumBy Bind.pixRate (imgs.filter (fun x => decide (port x.stream = port s))) + pixLd b ≤ 1200000000000))
  else true

def Dev.bind (d : Dev) (s : Nat) : Option Bind := d.ing.binds.find? (fun b => decide (b.stream = s))

def Dev.setBind (d : Dev) (s : Nat) (f : Bind → Bind) : Dev :=
  { d with ing := { d.ing with binds := d.ing.binds.map (fun b => if b.stream = s then f b else b) } }

/-- ING_STATUS. -/
def Dev.syncIng (d : Dev) : Dev :=
  let imgs := d.ing.binds.filter (fun x => isImage (ldFormat x.ld))
  (d.set R.ING_STATUS.IMG_STREAMS 0 0 imgs.length).set R.ING_STATUS.PIX_RATE 0 0
    (ceilDiv (sumBy Bind.pixRate imgs) 1000000000)

/-- R180: bind a stream: clear its ready flags, set its consumed flags. -/
def Dev.addBind (d : Dev) (s : Nat) (ctx : Option Nat) (p tb : Nat) (ld spi : List Byte) : Dev :=
  let n := ldSlots ld
  let d := (List.range n).foldl (fun d i => d.writeFlag (flagOcc p) (ldReady ld + i) false) d
  let d := (List.range n).foldl (fun d i => d.writeFlag (flagOcc p) (ldConsumed ld + i) true) d
  let b : Bind := ⟨s, ctx, p, ld, spi, tb, 0, 0, 0, none, none, d.tbVal tb, none, none⟩
  let d := { d with ing := { d.ing with binds := d.ing.binds ++ [b] } }.syncIng
  match laneOf s with
  | some l => if ldFormat ld = 0x12 then d.startLane l tb else d
  | none => d

/-- R203: a stream is detached; a slot in progress is abandoned. -/
def Dev.dropBind (d : Dev) (s : Nat) : Dev :=
  let d := ({ d with ing := { d.ing with
      binds := d.ing.binds.filter (fun b => decide (b.stream ≠ s)) } }).syncIng
  match laneOf s with
  | some l => d.stopLane l
  | none => d

/-- R105, R108: detach every stream bound by context `c`. -/
def Dev.detachCtx (d : Dev) (c : Nat) : Dev :=
  (d.ing.binds.filter (fun b => decide (b.ctx = some c))).foldl (fun d b => d.dropBind b.stream) d

/-- Where the events of a stream go (R204, R521). -/
def Dev.bindCtxs (d : Dev) (b : Bind) : List Nat :=
  match b.ctx with
  | some c => [c, 0]
  | none => d.safeCtxs

/-- R204: a bound stream is declared lost. -/
def Dev.loseStream (d : Dev) (s cause : Nat) : Dev :=
  match d.bind s with
  | some b =>
    if b.lost.isSome then d
    else
      let d := d.setBind s (fun b => { b with lost := some cause })
      (d.orreryLost s).eventAll (d.bindCtxs b) 0x02 0 0 (leBytes 2 s ++ leBytes 1 cause) 0
  | none => d

/-- R205: a lost stream has delivered a valid frame or record again. -/
def Dev.restoreStream (d : Dev) (s : Nat) : Dev :=
  match d.bind s with
  | some b =>
    if b.lost.isSome then
      let d := d.setBind s (fun b => { b with lost := none })
      (d.orreryBack s).eventAll (d.bindCtxs b) 0x30 0 0 (leBytes 2 s ++ [0]) 0
    else d
  | none => d

/-! ### Slots -/

def Bind.slotAddr (b : Bind) (i : Nat) : Nat := ldBase b.ld + i * ldSlotBytes b.ld

/-- R180, R457: slot `i` is free. -/
def Dev.slotFree (d : Dev) (b : Bind) (i : Nat) : Bool :=
  d.flag (ldConsumed b.ld + i) && !d.saf.chans.any (fun c => decide ((b.stream, i) ∈ c.mirrored))

def ingWho (p : Nat) : Who := Who.device p 3

/-- R181: drop an item. -/
def Dev.dropItem (d : Dev) (s : Nat) : Dev :=
  d.setBind s (fun b => { b with seq := (b.seq + 1) % 2 ^ 32, dropped := min 65535 (b.dropped + 1) })

/-- R180 step 1: open the next slot, if it is free; a drop otherwise. -/
def Dev.openSlot (d : Dev) (s stamp unc cls flags rtp seqx : Nat) : Dev :=
  match d.bind s with
  | some b =>
    if d.slotFree b b.next then
      let d := d.writeFlag (flagOcc b.part) (ldConsumed b.ld + b.next) false
      d.setBind s (fun b => { b with
        seq := (b.seq + 1) % 2 ^ 32
        slot := some ⟨b.next, b.seq, stamp, unc, cls, flags, 0, 0, 0, 0xFFFF, 0, rtp, seqx, [], stamp⟩ })
    else d.dropItem s
  | none => d

/-- Slot header (Table 06-3). -/
def Bind.header (b : Bind) (o : OpenSlot) : List Byte :=
  leBytes 2 b.stream ++ leBytes 2 (ldFormat b.ld) ++ leBytes 4 o.seq ++ leBytes 8 o.stamp ++ leBytes 4 o.unc ++
    leBytes 1 o.cls ++ leBytes 1 o.flags ++ leBytes 2 b.dropped ++ leBytes 2 o.rows ++ leBytes 2 o.emb ++
    leBytes 4 (if isImage (ldFormat b.ld) then ldStride b.ld else 0) ++ leBytes 2 o.firstBad ++ leBytes 2 o.bad ++
    List.replicate 28 0

/-- R457: a slot of a mirrored stream goes to the partner. -/
def Dev.mirror (d : Dev) (b : Bind) (slot : Nat) : Dev :=
  d.saf.chans.foldl (fun d c =>
    if c.xcmp && (List.range 5).any (fun m =>
        decide (fieldAt c.blk (48 + 16 * m) 2 = b.stream ∧ fieldAt c.blk (50 + 16 * m) 1 = 0)) then
      let bytes := leBytes 2 b.stream ++ leBytes 2 slot ++ d.mem.bytes (b.slotAddr slot) (ldSlotBytes b.ld)
      (d.wakeSend c.peer 0 9 bytes).setChan c.num (fun c => { c with mirrored := c.mirrored ++ [(b.stream, slot)] })
    else d) d

/-- R180 step 2: complete the header and set the ready flag. -/
def Dev.closeSlot (d : Dev) (s : Nat) : Dev :=
  match d.bind s with
  | some b =>
    match b.slot with
    | some o =>
      let d := (d.write (ingWho b.part) (b.slotAddr o.slot) (b.header o)).1
      let d := d.setBind s (fun b => { b with slot := none, dropped := 0, next := (b.next + 1) % max 1 (ldSlots b.ld) })
      let d := d.writeFlag (flagOcc b.part) (ldReady b.ld + o.slot) true
      d.mirror b o.slot
    | none => d
  | none => d

def Dev.setOpen (d : Dev) (s : Nat) (f : OpenSlot → OpenSlot) : Dev :=
  d.setBind s (fun b => { b with slot := b.slot.map f })

/-- R180: append a record to a non-image stream. -/
def Dev.addRecord (d : Dev) (s stamp unc cls : Nat) (rec : List Byte) : Dev :=
  match d.bind s with
  | some b =>
    let d := if b.slot.isNone then d.openSlot s stamp unc cls 0 0 0 else d
    match (d.bind s).bind (·.slot) with
    | some o =>
      let n := recBytes (ldFormat b.ld)
      let d := (d.write (ingWho b.part) (b.slotAddr o.slot + 64 + n * o.rows) (slice rec 0 n)).1
      let d := d.setOpen s (fun o => { o with rows := o.rows + 1 })
      let d := d.setBind s (fun b => { b with lastAt := stamp })
      if o.rows + 1 = ldWidth b.ld then d.closeSlot s else d
    | none => d.setBind s (fun b => { b with lastAt := stamp })
  | none => d

/-- A bad row: count it and keep the first (Table 06-3). -/
def OpenSlot.badRow (o : OpenSlot) (r n flags : Nat) : OpenSlot :=
  { o with bad := min 65535 (o.bad + n), firstBad := min o.firstBad r, flags := Nat.lor o.flags flags }

/-- R186: an image frame ends; rows that have not come are missing. -/
def Dev.endFrame (d : Dev) (s : Nat) : Dev :=
  match d.bind s with
  | some b =>
    match b.slot with
    | some o =>
      let h := ldHeight b.ld
      let d := if o.row < h then d.setOpen s (fun o => o.badRow o.row (h - o.row) 4) else d
      ((d.closeSlot s).orrerySample s b.tb o.stamp false []).restoreStream s
    | none => d
  | none => d

/-- One period of a stream in ns: of its frame rate for images, its sample period otherwise. -/
def Bind.period (b : Bind) : Nat :=
  if isImage (ldFormat b.ld) then 1000000000000 / max 1 (ldRate b.ld) else ldRate b.ld

/-! ### Pixels (R185) -/

/-- Pixels of a RAW10 line: four high bytes, then the low bits of the four. -/
def raw10 (bs : List Byte) (fuel : Nat) : List Nat :=
  match fuel with
  | 0 => []
  | n + 1 =>
    match bs with
    | a :: b :: c :: e :: l :: r =>
      [a.toNat * 4 + l.toNat % 4, b.toNat * 4 + l.toNat / 4 % 4, c.toNat * 4 + l.toNat / 16 % 4, e.toNat * 4 + l.toNat / 64] ++
        raw10 r n
    | _ => []

def raw12 (bs : List Byte) (fuel : Nat) : List Nat :=
  match fuel with
  | 0 => []
  | n + 1 =>
    match bs with
    | a :: b :: l :: r => [a.toNat * 16 + l.toNat % 16, b.toNat * 16 + l.toNat / 16] ++ raw12 r n
    | _ => []

/-- Swap the bytes of each pair. -/
def swap16 (bs : List Byte) : List Byte :=
  match bs with
  | a :: b :: r => b :: a :: swap16 r
  | _ => []

/-- The stored bytes of a received line of an image format. -/
def storeLine (f : Nat) (bs : List Byte) : List Byte :=
  match f with
  | 2 => (raw10 bs bs.length).flatMap (leBytes 2)
  | 3 => (raw12 bs bs.length).flatMap (leBytes 2)
  | 4 => swap16 bs
  | _ => bs

/-- CSI-2 data type of a format (Table 06-5). -/
def dtOf (b : List Byte) : Nat :=
  match ldFormat b with
  | 1 => 0x2A
  | 2 => 0x2B
  | 3 => 0x2C
  | 4 => 0x2E
  | 5 => 0x1E
  | _ => ldDt b

end Sys2Proof.Machine
end

