-- ==== Sys2Proof/Machine/Vis.lean ====
section
/-! DEFINITION. Engine tasks, surfaces and the band protocol (R223 to R234), shared by the vision engines and the map
tasks. -/

namespace Sys2Proof.Machine

/-! ### Tasks (Table 08-5) and surfaces (Table 08-2) -/

def Task.kind (t : Task) : Nat := fieldAt t.bytes 0 1
def Task.unit (t : Task) : Nat := fieldAt t.bytes 1 1
def Task.nin (t : Task) : Nat := fieldAt t.bytes 2 1
def Task.nout (t : Task) : Nat := fieldAt t.bytes 3 1
def Task.calib (t : Task) : Nat := fieldAt t.bytes 8 8
def Task.inp (t : Task) (i : Nat) : List Byte := slice t.bytes (32 + 16 * i) 16
def Task.out (t : Task) (i : Nat) : List Byte := slice t.bytes (32 + 16 * t.nin + 16 * i) 16
def Task.par (t : Task) : List Byte := slice t.bytes (32 + 16 * t.nin + 16 * t.nout) (fieldAt t.bytes 4 2)
def Task.ins (t : Task) : List (List Byte) := (List.range t.nin).map t.inp
def Task.outs (t : Task) : List (List Byte) := (List.range t.nout).map t.out

/-- Address, TYPE, READER and ROLE of a ref. -/
def refDa (r : List Byte) : Nat := fieldAt r 0 8
def refType (r : List Byte) : Nat := fieldAt r 8 1
def refReader (r : List Byte) : Nat := fieldAt r 9 1
def refRole (r : List Byte) : Nat := fieldAt r 10 1
/-- ROLE of an output ref. -/
def outRole (r : List Byte) : Nat := fieldAt r 8 1

def sfBase (s : List Byte) : Nat := fieldAt s 0 8
def sfBytes (s : List Byte) : Nat := fieldAt s 8 4
def sfStride (s : List Byte) : Nat := fieldAt s 12 4
def sfWidth (s : List Byte) : Nat := fieldAt s 16 2
def sfHeight (s : List Byte) : Nat := fieldAt s 18 2
def sfBandRows (s : List Byte) : Nat := max 1 (fieldAt s 20 2)
def sfFormat (s : List Byte) : Nat := fieldAt s 22 1
def sfNbuf (s : List Byte) : Nat := max 1 (fieldAt s 23 1)
def sfReaders (s : List Byte) : Nat := fieldAt s 24 1
def sfReady (s : List Byte) (r : Nat) : Nat := fieldAt s (32 + 2 * r) 2
def sfCons (s : List Byte) (r : Nat) : Nat := fieldAt s (40 + 2 * r) 2
def sfBands (s : List Byte) : Nat := max 1 (ceilDiv (sfHeight s) (sfBandRows s))
/-- Bytes per pixel of Table 08-3; 0 for lists and deltas. -/
def sfPix (f : Nat) : Nat :=
  match f with
  | 0x01 | 0x22 => 1
  | 0x02 | 0x05 | 0x06 | 0x20 => 2
  | 0x21 => 4
  | _ => 0

def Dev.descAt (d : Dev) (a : Nat) : List Byte := d.mem.bytes a 64

/-- Buffer or slot that comes next: `w` 0 for the writer, 1 + r for reader r. -/
def Dev.ringPos (d : Dev) (da w : Nat) : Nat := SMap.read 0 d.rings (8 * da + w)
def Dev.setRing (d : Dev) (da w v : Nat) : Dev := { d with rings := SMap.write 0 d.rings (8 * da + w) v }

/-- R224: flag of buffer `i` and band `j` from a base. -/
def bandFlag (s : List Byte) (base i j : Nat) : Nat := base + i * sfBands s + j

/-- R225: clear every ready flag of a surface and set every consumed flag; its ring starts over. -/
def Dev.resetSurface (d : Dev) (p a : Nat) : Dev :=
  let s := d.descAt a
  let n := sfNbuf s * sfBands s
  (List.range (sfReaders s)).foldl (fun d r =>
    let d := (List.range n).foldl (fun d k => d.writeFlag (flagOcc p) (sfReady s r + k) false) d
    let d := (List.range n).foldl (fun d k => d.writeFlag (flagOcc p) (sfCons s r + k) true) d
    d.setRing a (1 + r) 0) (d.setRing a 0 0)

/-! ### Inputs -/

/-- An input as a step sees it: its descriptor, the buffer or slot at hand, its frame. -/
structure InRef where
  ref : List Byte
  desc : List Byte
  buf : Nat
  deriving DecidableEq, Repr

def Dev.inRef (d : Dev) (r : List Byte) : InRef :=
  if refType r = 2 then ⟨r, [], 0⟩ else ⟨r, d.descAt (refDa r), d.ringPos (refDa r) (1 + refReader r)⟩

def InRef.landing (i : InRef) : Bool := decide (refType i.ref = 1)
def InRef.isMap (i : InRef) : Bool := decide (refType i.ref = 2)
def InRef.addr (i : InRef) : Nat :=
  if i.landing then ldBase i.desc + i.buf * ldSlotBytes i.desc else sfBase i.desc + i.buf * sfBytes i.desc
def InRef.width (i : InRef) : Nat := if i.landing then ldWidth i.desc else sfWidth i.desc
def InRef.height (i : InRef) : Nat := if i.landing then ldHeight i.desc else sfHeight i.desc
def InRef.fmt (i : InRef) : Nat := if i.landing then (if ldFormat i.desc = 1 ∨ ldFormat i.desc = 5 ∨ ldFormat i.desc = 6 then ldFormat i.desc else 2) else sfFormat i.desc
def InRef.stride (i : InRef) : Nat := if i.landing then ldStride i.desc else sfStride i.desc
/-- A feature list, of which the whole buffer is one input. -/
def InRef.isList (i : InRef) : Bool := !i.landing && decide (sfFormat i.desc = 0x30)

/-- The ready flags of input rows lo to hi − 1. -/
def InRef.readyFlags (i : InRef) (lo hi : Nat) : List Nat :=
  if i.isMap then []
  else if i.landing then [ldReady i.desc + i.buf]
  else
    let b := sfBandRows i.desc
    (List.range (sfBands i.desc)).filter (fun k => decide (k * b < hi ∧ lo < (k + 1) * b)) |>.map
      (bandFlag i.desc (sfReady i.desc (refReader i.ref)) i.buf)

/-- Rows lo to hi − 1 of input `i` that step `j` needs (Table 08-6). -/
def Dev.reach (d : Dev) (t : Task) (j : Nat) (i : InRef) : Nat × Nat :=
  let h := i.height
  let rows (o : List Byte) : Nat × Nat :=
    let s := d.descAt (refDa o)
    (j * sfBandRows s, min (sfHeight s) ((j + 1) * sfBandRows s))
  let live := t.outs.filter (fun o => decide (j < sfBands (d.descAt (refDa o))))
  let span (f : List Byte → Nat × Nat) : Nat × Nat :=
    let ps := live.map f
    (((minBy (fun (a b : Nat) => decide (a < b)) (ps.map (·.1))).getD 0), min h (maxBy (·.2) ps))
  match t.kind with
  | 2 => span (fun o => let n := 2 ^ outRole o; let r := rows o; (n * r.1 - 2 * (n - 1), n * r.2 + 2 * (n - 1)))
  | 3 => span (fun o => let r := rows o; (r.1 - 18, r.2 + 18))
  | 4 => if fieldAt t.par 3 1 = 8 then (0, h) else span (fun o => let r := rows o; (r.1 - 3, r.2 + 3))
  | _ => (0, h)

/-- Steps of a task: the most bands an output has. -/
def Dev.stepsOf (d : Dev) (t : Task) : Nat := maxBy (fun o => sfBands (d.descAt (refDa o))) t.outs

/-- R226, R231: the flags that step `j` waits for are set. -/
def Dev.stepReady (d : Dev) (t : Task) (j : Nat) : Bool :=
  (t.ins.all (fun r => let i := d.inRef r; let q := d.reach t j i; (i.readyFlags q.1 q.2).all d.flag)) &&
  (t.outs.all (fun o =>
    let s := d.descAt (refDa o)
    let b := d.ringPos (refDa o) 0
    sfBands s ≤ j || (List.range (sfReaders s)).all (fun r => d.flag (bandFlag s (sfCons s r) b j))))

/-! ### Reading -/

/-- Read a range in the engine's name. -/
def Dev.readRows (d : Dev) (w : Who) (a stride n : Nat) (ys : List Nat) : Dev × Except AccErr (List Byte) :=
  match ys with
  | [] => (d, .ok [])
  | y :: r =>
    match d.readDev w (a + y * stride) n with
    | (e, .error x) => (e, .error x)
    | (e, .ok b) =>
      match e.readRows w a stride n r with
      | (f, .error x) => (f, .error x)
      | (f, .ok c) => (f, .ok (b ++ c))

/-- What a step has of one input: its header and the bytes read so far. -/
structure InData where
  ref : InRef
  hdr : List Byte
  bytes : List Byte
  deriving DecidableEq, Repr

/-- The rows of input `i` read before were `have_`, their bytes `old`; rows below `hi` are needed now. -/
def Dev.readInput (d : Dev) (w : Who) (i : InRef) (have_ hi : Nat) (old : List Byte) : Dev × Except AccErr InData :=
  if i.isMap then (d, .ok ⟨i, [], []⟩)
  else
    match d.readDev w i.addr 64 with
    | (d, .error x) => (d, .error x)
    | (d, .ok hdr) =>
      if i.isList then
        match d.readDev w (i.addr + 0x1000) (64 * fieldAt hdr 32 4) with
        | (d, .error x) => (d, .error x)
        | (d, .ok b) => (d, .ok ⟨i, hdr, b⟩)
      else
        let n := i.width * (if i.landing then pixBytes (ldFormat i.desc) else sfPix i.fmt)
        match d.readRows w (i.addr + 0x1000) i.stride n ((List.range (hi - have_)).map (fun y => have_ + y)) with
        | (d, .error x) => (d, .error x)
        | (d, .ok b) => (d, .ok ⟨i, hdr, old ++ b⟩)

def Dev.readInputs (d : Dev) (w : Who) (t : Task) (j k : Nat) (rs : List (List Byte)) : Dev × Except AccErr (List InData) :=
  match rs with
  | [] => (d, .ok [])
  | r :: rest =>
    let i := d.inRef r
    match d.readInput w i (t.work.getD k 0) (max (t.work.getD k 0) (d.reach t j i).2) (t.res.getD k []) with
    | (d, .error x) => (d, .error x)
    | (d, .ok v) =>
      match d.readInputs w t j (k + 1) rest with
      | (d, .error x) => (d, .error x)
      | (d, .ok vs) => (d, .ok (v :: vs))

/-- First missing row of an input (R229): FIRST_BAD where the flags say so; every row of an INVALID buffer. -/
def InData.miss (v : InData) : Nat :=
  let h := v.ref.height
  let f := fieldAt v.hdr 21 1
  if v.ref.landing then (if bitOf f 2 || bitOf f 4 then min h (fieldAt v.hdr 32 2) else h)
  else if bitOf f 4 then 0
  else if bitOf f 2 then min h (fieldAt v.hdr 26 2)
  else h

def InData.img (v : InData) : Img :=
  { w := v.ref.width, h := v.ref.height, bpp := if v.ref.landing then pixBytes (ldFormat v.ref.desc) else sfPix v.ref.fmt,
    fmt := v.ref.fmt, miss := v.miss, bytes := v.bytes }

/-- Flags carried to the outputs: DEMOTED, CRC_ERR (R229). -/
def InData.carried (v : InData) : Nat :=
  let f := fieldAt v.hdr 21 1
  if v.ref.isMap then 0
  else if v.ref.landing then f % 2 + 2 * b2n (bitOf f 3)
  else f % 4

/-! ### Writing -/

/-- What a step makes for one output: bytes by offset in the buffer, the first bad row of the band, the features or
records so far, LIMIT. -/
structure BandOut where
  parts : List (Nat × List Byte)
  bad : Option Nat
  count : Nat
  limit : Bool
  deriving DecidableEq, Repr

/-- Rows y0 on of an image output. -/
def rowParts (stride y0 : Nat) (rows : List (List Byte)) : List (Nat × List Byte) :=
  (List.range rows.length).map (fun k => (0x1000 + (y0 + k) * stride, rows.getD k []))

/-- What an engine computes: band `j` of every output that has one, from what the step has read. -/
abbrev Engine := Dev → Who → Run → Task → List InData → List Byte → Nat → Dev × Except AccErr (List BandOut)

/-- Table 08-4. -/
def visHeader (ins : List InData) (s : List Byte) (flags u level rows firstBad count : Nat) : List Byte :=
  let src := ins.filter (fun v => !v.ref.isMap)
  let h := ((src.head?).map (·.hdr)).getD []
  let q : Nat := match src with | _ :: v :: _ => fieldAt v.hdr 4 4 | _ => 0
  slice h 0 2 ++ leBytes 2 (sfFormat s) ++ slice h 4 17 ++ leBytes 1 flags ++ leBytes 1 u ++ leBytes 1 level ++
    leBytes 2 rows ++ leBytes 2 firstBad ++ leBytes 4 (sfStride s) ++ leBytes 4 count ++ leBytes 4 q ++ List.replicate 24 0

/-- State of a task carried between its bands: rows read per input, then first bad row per output, then count and LIMIT. -/
def Task.firstBad (t : Task) (o : Nat) : Nat := t.work.getD (t.nin + o) 0xFFFF
def Task.count (t : Task) : Nat := t.work.getD (t.nin + t.nout) 0
def Task.limited (t : Task) : Nat := t.work.getD (t.nin + t.nout + 1) 0

/-- INPUT_SEQ2 is for SDU and OFU only (Table 08-4). -/
def headIns (t : Task) (ins : List InData) : List InData :=
  if t.kind = 4 ∨ t.kind = 5 then ins else (ins.filter (fun v => !v.ref.isMap)).take 1

/-- Index u of the writing engine (Table 08-1); a map task's is its island's unit number (DESIGN CHOICE, unsafe, log entry 22). -/
def visIndex (kind unit : Nat) : Nat :=
  match kind with
  | 1 => unit
  | 2 => 8 + unit
  | 3 => 12 + unit
  | 4 => 20 + unit
  | 5 => 24 + unit
  | _ => unit

/-- LEVEL of an output's header. -/
def levelOf (t : Task) (o : List Byte) (h : List Byte) : Nat :=
  match t.kind with
  | 2 => outRole o
  | 3 => fieldAt t.par 3 1
  | _ => fieldAt h 23 1

/-- Write one band of output `o` (number `n`) and set its ready flags (R226, R228). -/
def Dev.putBand (d : Dev) (w : Who) (t : Task) (ins : List InData) (j n : Nat) (o : List Byte) (r : BandOut) :
    Dev × Option AccErr :=
  let s := d.descAt (refDa o)
  if sfBands s ≤ j then (d, none)
  else
    let i := d.ringPos (refDa o) 0
    let a := sfBase s + i * sfBytes s
    let occ : Occ := w.occ a
    let rs := List.range (sfReaders s)
    let d := rs.foldl (fun d k => d.writeFlag occ (bandFlag s (sfCons s k) i j) false) d
    let fb := min (t.firstBad n) (r.bad.getD 0xFFFF)
    let carried := ins.foldl (fun f v => Nat.lor f v.carried) 0
    let flags := carried + 4 * b2n (decide (fb ≠ 0xFFFF)) + 8 * b2n r.limit
    let src := ((ins.filter (fun v => !v.ref.isMap)).head?).map (fun v => if v.ref.landing then [] else v.hdr)
    let hdr := visHeader (headIns t ins) s flags (visIndex t.kind t.unit) (levelOf t o (src.getD []))
      (min (sfHeight s) ((j + 1) * sfBandRows s)) fb r.count
    match d.writeList w (r.parts.map (fun p => (a + p.1, p.2)) ++ [(a, hdr)]) with
    | (d, some x) => (d, some x)
    | (d, none) => (rs.foldl (fun d k => d.writeFlag occ (bandFlag s (sfReady s k) i j) true) d, none)

def Dev.putBands (d : Dev) (w : Who) (t : Task) (ins : List InData) (j n : Nat) (os : List (List Byte))
    (rs : List BandOut) : Dev × Option AccErr :=
  match os, rs with
  | o :: os, r :: rs =>
    match d.putBand w t ins j n o r with
    | (d, some x) => (d, some x)
    | (d, none) => d.putBands w t ins j (n + 1) os rs
  | _, _ => (d, none)

/-! ### Ends -/

/-- Release of an input after step `j` of `steps`: bands wholly read and not needed again, a landing slot at the end
(R226, R227). -/
def Dev.releaseInput (d : Dev) (w : Who) (t : Task) (j steps was now : Nat) (i : InRef) : Dev :=
  let last := decide (steps ≤ j + 1)
  if i.isMap then d
  else if i.landing then
    if last then
      let d := d.writeFlag (w.occ i.addr) (ldReady i.desc + i.buf) false
      let d := d.writeFlag (w.occ i.addr) (ldConsumed i.desc + i.buf) true
      d.setRing (refDa i.ref) 1 ((i.buf + 1) % max 1 (ldSlots i.desc))
    else d
  else
    let r := refReader i.ref
    let b := sfBandRows i.desc
    let whole := decide (t.kind = 1 ∨ 5 ≤ t.kind ∨ (t.kind = 4 ∧ fieldAt t.par 3 1 = 8))
    let first := if whole then 0 else was / b
    let past := if last then sfBands i.desc else if whole then 0 else now / b
    let d := ((List.range (past - first)).map (fun k => first + k)).foldl (fun d k =>
      let d := d.writeFlag (w.occ i.addr) (bandFlag i.desc (sfReady i.desc r) i.buf k) false
      d.writeFlag (w.occ i.addr) (bandFlag i.desc (sfCons i.desc r) i.buf k) true) d
    if last then d.setRing (refDa i.ref) (1 + r) ((i.buf + 1) % sfNbuf i.desc) else d

/-- R234: the buffers being made are INVALID; the ready flags of their remaining bands are set. -/
def Dev.invalidate (d : Dev) (w : Who) (t : Task) (j : Nat) : Dev :=
  t.outs.foldl (fun d o =>
    let s := d.descAt (refDa o)
    let i := d.ringPos (refDa o) 0
    let a := sfBase s + i * sfBytes s
    let d := (d.write w (a + 21) (leBytes 1 (Nat.lor (fieldAt (d.mem.bytes (a + 21) 1) 0 1) 16))).1
    let bands := (List.range (sfBands s)).filter (fun k => decide (j ≤ k))
    let d := (List.range (sfReaders s)).foldl (fun d r =>
      bands.foldl (fun d k => d.writeFlag (w.occ a) (bandFlag s (sfReady s r) i k) true) d) d
    d.setRing (refDa o) 0 ((i + 1) % sfNbuf s)) d

/-- VIS_ERR_LOG. -/
def Dev.logVis (d : Dev) (u kind a : Nat) : Dev :=
  (((d.set R.VIS_ERR_LOG.TIME 0 0 (d.tbVal 0)).set R.VIS_ERR_LOG.UNIT 0 0 u).set R.VIS_ERR_LOG.KIND 0 0 kind).set
    R.VIS_ERR_LOG.ADDR 0 0 a

/-- The error registers of a unit: VIS for KIND 1 to 5, FTE for the map tasks, whose track is in their parameters. -/
def Dev.logTask (d : Dev) (t : Task) (kind a : Nat) : Dev :=
  if t.kind ≤ 5 then
    let u := visIndex t.kind t.unit
    let d := d.logVis u kind a
    if kind = 1 then d.set R.VIS_UNIT_STAT.POISON_IN u 0 1
    else if kind = 2 then d.set R.VIS_UNIT_STAT.ECC_UE u 0 1
    else if kind = 5 then d.set R.VIS_UNIT_STAT.STOPPED u 0 1
    else d
  else d.logFte (fieldAt t.par 0 1) kind a

/-- R234: an access error ends the run. -/
def Dev.failTask (d : Dev) (w : Who) (r : Run) (t : Task) (j : Nat) (e : AccErr) : Dev :=
  let d := match e with
    | .poison _ a => d.logTask t 1 a
    | .tier f _ a => d.logTask t (if f then 4 else 3) a
    | _ => d
  (d.invalidate w t j).failAcc r e

/-- Address of the first byte of the band being made. -/
def Dev.bandAddr (d : Dev) (t : Task) (j : Nat) : Nat :=
  match t.outs.head? with
  | some o =>
    let s := d.descAt (refDa o)
    sfBase s + d.ringPos (refDa o) 0 * sfBytes s + 0x1000 + j * sfBandRows s * sfStride s
  | none => 0

/-- R234: an uncorrectable error in the engine's internal store. -/
def Dev.internalUe (d : Dev) (w : Who) (r : Run) (t : Task) (j : Nat) : Dev :=
  let a := d.bandAddr t j
  let d := d.logTask t 2 a
  let blk := if t.kind ≤ 5 then 5 else 6
  let d := (d.annal 2 2 blk (annUnit r.part (visIndex t.kind t.unit)) (leBytes 8 a)).suspect ⟨blk, visIndex t.kind t.unit⟩
  (d.invalidate w t j).failRun r 0x21 0 (leBytes 6 a) (some 7) a

def Dev.setTask (d : Dev) (run k : Nat) (f : Task → Task) : Dev :=
  d.setRun run (fun r => { r with tasks := modifyAt r.tasks k f })

/-! ### A step -/

/-- Bytes of CALIB_DA that a task reads: the RWU's mesh (R235), the FDU's pattern (R239). -/
def Dev.calibBytes (d : Dev) (t : Task) : Nat :=
  match t.kind with
  | 1 =>
    if fieldAt t.par 0 1 = 0 then
      let n := 2 ^ fieldAt t.par 2 1
      let s := d.descAt (refDa (t.out 0))
      8 * ((ceilDiv (sfWidth s) n + 1) * (ceilDiv (sfHeight s) n + 1))
    else 0
  | 3 => 1024
  | _ => 0

/-- The task's calibration bytes: kept from the first step on. -/
def Dev.taskCalib (d : Dev) (w : Who) (t : Task) (j : Nat) : Dev × Except AccErr (List Byte) :=
  if j = 0 then d.readDev w t.calib (d.calibBytes t) else (d, .ok (t.res.getD t.nin []))

/-- After the last step of a task: the rings of its outputs go on. -/
def Dev.endTask (d : Dev) (t : Task) : Dev :=
  t.outs.foldl (fun d o => d.setRing (refDa o) 0 ((d.ringPos (refDa o) 0 + 1) % sfNbuf (d.descAt (refDa o)))) d

/-- What is kept of a task after step `j`. -/
def Task.advance (t : Task) (j steps : Nat) (ins : List InData) (cal : List Byte) (tops : List Nat) (rs : List BandOut) : Task :=
  let bads := (List.range t.nout).map (fun n => min (t.firstBad n) ((((rs[n]?).bind (·.bad))).getD 0xFFFF))
  { t with
    band := j + 1
    work := tops ++ bads ++ [maxBy (·.count) rs, b2n (rs.any (·.limit))]
    res := ins.map (·.bytes) ++ [cal]
    done := decide (steps ≤ j + 1) }

/-- R231: one step of task `k` of run `r`. -/
def Dev.taskStep (d : Dev) (eng : Engine) (r : Run) (k : Nat) (t : Task) (ue : Bool) : Dev :=
  let j := t.band
  let steps := d.stepsOf t
  let w := r.who (if t.kind ≤ 5 then 5 else 6) (visIndex t.kind t.unit) none
  let d := d.markStarted r.id
  let irefs := t.ins.map d.inRef
  let tops := (List.range t.nin).map (fun n =>
    max (t.work.getD n 0) ((d.reach t j (d.inRef (t.inp n))).2))
  if ue then d.internalUe w r t j
  else
    match d.taskCalib w t j with
    | (d, .error e) => d.failTask w r t j e
    | (d, .ok cal) =>
      match d.readInputs w t j 0 t.ins with
      | (d, .error e) => d.failTask w r t j e
      | (d, .ok ins) =>
        match eng d w r t ins cal j with
        | (d, .error e) => d.failTask w r t j e
        | (d, .ok rs) =>
          match d.putBands w t ins j 0 t.outs rs with
          | (d, some e) => d.failTask w r t j e
          | (d, none) =>
            let d := (List.range t.nin).foldl (fun d n =>
              match irefs[n]? with
              | some i => d.releaseInput w t j steps (t.work.getD n 0) (tops.getD n 0) i
              | none => d) d
            let d := if steps ≤ j + 1 then d.endTask t else d
            let d := d.setTask r.id k (fun _ => t.advance j steps ins cal tops rs)
            if t.kind ≤ 5 then
              (d.addWrap R.VIS_UNIT_STAT.BANDS (visIndex t.kind t.unit) 0 1).count 4 0 1 (w.occ (d.bandAddr t j))
            else d

/-- First task of a run for a unit whose next step can start. -/
def Dev.readyTask (d : Dev) (r : Run) (kind unit : Nat) : Option Nat :=
  (List.range r.tasks.length).find? (fun k =>
    match r.tasks[k]? with
    | some t => decide (t.sort = 0 ∧ t.kind = kind ∧ t.unit = unit) && !t.done && !t.failed && d.stepReady t t.band
    | none => false)

/-- R232: a run whose next step on the unit waits for a flag has a cause of lateness (DESIGN CHOICE, unsafe, log entry 22). -/
def Dev.noteWaits (d : Dev) (kind unit : Nat) : Dev :=
  let waits (r : Run) : Bool := r.eligible &&
    r.tasks.any (fun t => decide (t.sort = 0 ∧ t.kind = kind ∧ t.unit = unit) && !t.done && !d.stepReady t t.band)
  { d with runs := d.runs.map (fun r => if waits r then r.addCause 1 else r) }

/-- R49, R231: dispatch one step on a unit; none while no step can start. -/
def Dev.unitStep (d : Dev) (eng : Engine) (kind unit : Nat) (ue : Bool) : Dev :=
  let d := d.noteWaits kind unit
  match minBy edf (d.runs.filter (fun r => r.eligible && (d.readyTask r kind unit).isSome)) with
  | none => d
  | some r =>
    match d.readyTask r kind unit with
    | none => d
    | some k =>
      match r.tasks[k]? with
      | some t => d.unlessFenced r.id (d.isFenced (if kind ≤ 5 then 5 else 6) (visIndex kind unit)) (d.taskStep eng r k t ue)
      | none => d

end Sys2Proof.Machine
end

