-- ==== Sys2Proof/Machine/Map.lean ====
section
/-! DEFINITION. The map stores: layout, voxel table, commits, publication, retirement, rebuild, journal (10_map_stores.md). -/

namespace Sys2Proof.Machine

/-! ### The map block (Table 10-1) and the arena (Table 10-2) -/

def mbVoxCm (b : List Byte) : Nat := fieldAt b 1 1
def mbTabLog2 (b : List Byte) : Nat := fieldAt b 2 1
def mbVoxMax (b : List Byte) : Nat := fieldAt b 3 1
def mbFeatMax (b : List Byte) : Nat := fieldAt b 4 2
def mbKfCap (b : List Byte) : Nat := fieldAt b 8 4
def mbLmCap (b : List Byte) : Nat := fieldAt b 12 4
def mbDelta (b : List Byte) : Nat := fieldAt b 16 4
def mbSpare (b : List Byte) : Nat := fieldAt b 20 4
def mbReclaim (b : List Byte) : Nat := fieldAt b 24 4
def mbHoldUs (b : List Byte) : Nat := fieldAt b 28 4
def mbRoot (b : List Byte) : Nat := fieldAt b 32 8
def mbArena (b : List Byte) : Nat := fieldAt b 40 8
def mbArenaBytes (b : List Byte) : Nat := fieldAt b 48 8
def mbJournal (b : List Byte) : Nat := fieldAt b 56 8
def mbJournalBytes (b : List Byte) : Nat := fieldAt b 64 4
def mbReplay (b : List Byte) : Nat := fieldAt b 68 4

def mbKfSlots (b : List Byte) : Nat := mbKfCap b + 2 * mbDelta b
def mbLmSlots (b : List Byte) : Nat := mbLmCap b + 2 * mbDelta b
def mbPages (b : List Byte) : Nat := 3 * 2 ^ (mbVoxMax b - 14) + mbSpare b
/-- Entries of one page table. -/
def mbPt (b : List Byte) : Nat := 2 ^ (mbVoxMax b - 13)

/-- Sizes of the regions of Table 10-2 in their order. -/
def mbSizes (b : List Byte) : List Nat :=
  [mbKfSlots b * 256, mbKfSlots b * mbFeatMax b * 64, 2 * mbKfCap b * 4, mbLmSlots b * 64, 2 * mbLmCap b * 4,
    3 * mbPt b * 4, mbPages b * 65536, mbReplay b]

/-- Base of region `n` (0 to 7), and for n = 8 the end of the last. -/
def mbBase (b : List Byte) (n : Nat) : Nat :=
  let s := mbSizes b
  (List.range n).foldl (fun a k => a + (if k + 1 = 8 then s.getD k 0 else roundUp (s.getD k 0) 65536)) (mbArena b)

/-- Bytes that the regions take (R274). -/
def mbNeed (b : List Byte) : Nat := mbBase b 8 - mbArena b

/-! ### Memory of the map -/

/-- Write bytes in the device's own name: a wholly written granule is clean. -/
def Mem.store (m : Mem) (x : Nat) (bs : List Byte) : Mem :=
  (splitWrite x bs (bs.length + 1)).foldl (fun m p =>
    let m : Mem := if p.2.length = 64 then (m.setPoison (p.1 / 64) false).setUpset (p.1 / 64) .none else m
    (m.touch p.1).put p.1 p.2) m

def Mem.word (m : Mem) (x n : Nat) : Nat := leNat (m.bytes x n)

/-- An indirection or page table entry that names nothing (DESIGN CHOICE, unsafe, log entry 23). -/
def noSlot : Nat := 0xFFFFFFFF

/-- Address of the indirection entry of local ID `i` in a bank; store 0 keyframes, 1 landmarks. -/
def mbInd (b : List Byte) (store bank i : Nat) : Nat :=
  if store = 0 then mbBase b 2 + (bank * mbKfCap b + i) * 4 else mbBase b 4 + (bank * mbLmCap b + i) * 4

def mbCap (b : List Byte) (store : Nat) : Nat := if store = 0 then mbKfCap b else mbLmCap b
def mbSlots (b : List Byte) (store : Nat) : Nat := if store = 0 then mbKfSlots b else mbLmSlots b
def mbRecBytes (store : Nat) : Nat := if store = 0 then 256 else 64
def mbRec (b : List Byte) (store slot : Nat) : Nat :=
  if store = 0 then mbBase b 0 + 256 * slot else mbBase b 3 + 64 * slot
def mbFeat (b : List Byte) (slot : Nat) : Nat := mbBase b 1 + slot * mbFeatMax b * 64

/-- Record slot of a local ID in a bank. -/
def Mem.slotOf (m : Mem) (b : List Byte) (store bank i : Nat) : Option Nat :=
  let v := m.word (mbInd b store bank i) 4
  if v = noSlot then none else some v

def Mem.usedIds (m : Mem) (b : List Byte) (store bank : Nat) : List Nat :=
  (List.range (mbCap b store)).filter (fun i => (m.slotOf b store bank i).isSome)

/-- FLAGS bit 0, TOMB, and EPOCH of a record. -/
def Mem.tomb (m : Mem) (b : List Byte) (store slot : Nat) : Bool :=
  bitOf (m.word (mbRec b store slot + (if store = 0 then 19 else 62)) 1) 0
def Mem.recEpoch (m : Mem) (b : List Byte) (store slot : Nat) : Nat := m.word (mbRec b store slot + 4) 4

/-- The next epoch (R280). -/
def nextEpoch (e : Nat) : Nat := if e = 0xFFFFFFFF then 1 else e + 1

/-- R280: a − b as a signed number. -/
def epochDiff (a b : Nat) : Int := toSigned 32 ((a + 2 ^ 32 - b % 2 ^ 32) % 2 ^ 32)

/-- Page table and table size of a bank, from the root. -/
def Mem.ptSel (m : Mem) (b : List Byte) (bank : Nat) : Nat := m.word (mbRoot b + 18 + bank) 1
def Mem.tabLog2 (m : Mem) (b : List Byte) (bank : Nat) : Nat := m.word (mbRoot b + 16 + bank) 1

/-- The root with its CHK made right. -/
def Mem.sealRoot (m : Mem) (b : List Byte) : Mem := m.store (mbRoot b + 4092) (leBytes 4 (crc32c (m.bytes (mbRoot b) 4092)))

/-! ### The voxel table (R278, R279) -/

def voxEmpty : Nat := 2 ^ 64 - 1
/-- Key of an entry: bits [63:25]. -/
def voxKey (e : Nat) : Nat := e / 2 ^ 25
def voxTomb (e : Nat) : Bool := bitOf e 24
def voxEntry (key : Nat) (tomb : Bool) (lo hits sem : Nat) : Nat :=
  key * 2 ^ 25 + b2n tomb * 2 ^ 24 + lo % 256 * 65536 + hits % 256 * 256 + sem % 256

/-- R279. -/
def voxHome (key n : Nat) : Nat :=
  let x := key / 2 ^ 26 % 2 ^ 13
  let y := key / 2 ^ 13 % 2 ^ 13
  let z := key % 2 ^ 13
  let h := Nat.xor (Nat.xor (x * 0x9E3779B1 % 2 ^ 32) (y * 0x85EBCA77 % 2 ^ 32)) (z * 0xC2B2AE3D % 2 ^ 32)
  h / 2 ^ (32 - n)

/-- A table: page table number and size. -/
structure Vt where
  pt : Nat
  n : Nat
  deriving DecidableEq, Repr

def mbPtEntry (b : List Byte) (pt lp : Nat) : Nat := mbBase b 5 + (pt * mbPt b + lp) * 4

def Mem.page (m : Mem) (b : List Byte) (pt lp : Nat) : Nat := m.word (mbPtEntry b pt lp) 4

/-- Entry of slot `s`; a page that is not there is empty. -/
def Mem.vox (m : Mem) (b : List Byte) (v : Vt) (s : Nat) : Nat :=
  let p := m.page b v.pt (s / 8192)
  if p = noSlot then voxEmpty else m.word (mbBase b 6 + 65536 * p + 8 * (s % 8192)) 8

/-- Probe from slot `s`: the slot of the key, or the first tombstone passed or else the empty entry that ends it. -/
def Mem.probe (m : Mem) (b : List Byte) (v : Vt) (key s : Nat) (free : Option Nat) (fuel : Nat) : Bool × Option Nat :=
  match fuel with
  | 0 => (false, free)
  | k + 1 =>
    let e := m.vox b v s
    if e = voxEmpty then (false, some (free.getD s))
    else if voxKey e = key then (true, some s)
    else m.probe b v key ((s + 1) % 2 ^ v.n) (if voxTomb e && free.isNone then some s else free) k

def Mem.find (m : Mem) (b : List Byte) (v : Vt) (key : Nat) : Bool × Option Nat :=
  m.probe b v key (voxHome key v.n) none (2 ^ v.n)

/-- Pages that page tables use. -/
def Mem.pagesOf (m : Mem) (b : List Byte) (pts : List Nat) : List Nat :=
  pts.flatMap (fun pt => ((List.range (mbPt b)).map (m.page b pt)).filter (fun p => decide (p ≠ noSlot)))

/-- Write an entry of a table whose pages that `keep` tables share are copied first (R282); none without a free page. -/
def Mem.setVox (m : Mem) (b : List Byte) (v : Vt) (keep others : List Nat) (s e : Nat) : Option Mem :=
  let lp := s / 8192
  let p := m.page b v.pt lp
  let put (m : Mem) (p : Nat) : Mem := m.store (mbBase b 6 + 65536 * p + 8 * (s % 8192)) (leBytes 8 e)
  if p ≠ noSlot ∧ p ∉ m.pagesOf b keep then some (put m p)
  else
    let used := m.pagesOf b (v.pt :: keep ++ others)
    match (List.range (mbPages b)).find? (fun q => decide (q ∉ used)) with
    | none => none
    | some q =>
      let old := if p = noSlot then List.replicate 65536 (0xFF : Byte) else m.bytes (mbBase b 6 + 65536 * p) 65536
      let m := m.store (mbBase b 6 + 65536 * q) old
      some (put (m.store (mbPtEntry b v.pt lp) (leBytes 4 q)) q)

/-- Live entries and tombstones of a table. -/
def Mem.voxCount (m : Mem) (b : List Byte) (v : Vt) : Nat × Nat :=
  let es := ((List.range (2 ^ v.n)).map (m.vox b v)).filter (fun e => decide (e ≠ voxEmpty))
  ((es.filter (fun e => !voxTomb e)).length, (es.filter voxTomb).length)

/-- VOX_ADD of one entry (R286). -/
def addEntry (old new_ : Nat) (present : Bool) : Nat :=
  let dl := toSigned 8 (new_ / 65536)
  let h := new_ / 256 % 256
  let sem := new_ % 256
  if present then
    let lo := max (-127) (min 127 (toSigned 8 (old / 65536) + dl))
    voxEntry (voxKey new_) false (ofSigned 8 lo) (min 255 (old / 256 % 256 + h)) (if sem = 0 then old % 256 else sem)
  else voxEntry (voxKey new_) false (ofSigned 8 (max (-127) dl)) h sem

/-- One voxel change: the memory, or bytes that lack. -/
def Mem.voxAdd (m : Mem) (b : List Byte) (v : Vt) (keep others : List Nat) (e : Nat) : Mem × Nat :=
  let f := m.find b v (voxKey e)
  match f.2 with
  | none => (m, 8)
  | some s =>
    let old := m.vox b v s
    let present := f.1 && !voxTomb old
    match m.setVox b v keep others s (addEntry old e present) with
    | some m => (m, 0)
    | none => (m, 65536)

def Mem.voxClear (m : Mem) (b : List Byte) (v : Vt) (keep others : List Nat) (key : Nat) : Mem × Nat :=
  let f := m.find b v key
  match f with
  | (true, some s) =>
    if voxTomb (m.vox b v s) then (m, 0)
    else match m.setVox b v keep others s (voxEntry key true 0 0 0) with
      | some m => (m, 0)
      | none => (m, 65536)
  | _ => (m, 0)

/-! ### Delta blocks (R284, Table 10-4) -/

def opCode (o : List Byte) : Nat := fieldAt o 0 1
def opId (o : List Byte) : Nat := fieldAt o 4 4

/-- Split the ops of a delta block: none where a header or a length breaks R284. -/
def splitOps (b : List Byte) (n : Nat) (bs : List Byte) : Option (List (List Byte)) :=
  match n with
  | 0 => if bs.isEmpty then some [] else none
  | k + 1 =>
    let len := fieldAt bs 8 4
    let id := fieldAt bs 4 4
    let want : Option Nat := match fieldAt bs 0 1 with
      | 0x01 => if fieldAt bs (16 + 20) 2 ≤ mbFeatMax b then some (16 + 256 + 64 * fieldAt bs (16 + 20) 2) else none
      | 0x02 => some 128
      | 0x03 => some 16
      | 0x11 => some 80
      | 0x12 => some 32
      | 0x13 => some 16
      | 0x21 => if 1 ≤ id ∧ id ≤ 2 ^ 20 then some (16 + 8 * id) else none
      | 0x22 => if 1 ≤ id ∧ id ≤ 2 ^ 20 then some (16 + 8 * id) else none
      | 0x30 => some 136
      | _ => none
    if want = some len ∧ len ≤ bs.length ∧ fieldAt bs 1 3 = 0 ∧ fieldAt bs 12 4 = 0 then
      (splitOps b k (bs.drop len)).map (fun r => bs.take len :: r)
    else none

/-- R284: the ops of a block. -/
def opsOf (b bs : List Byte) : Option (List (List Byte)) :=
  if bs.length < 16 ∨ (slice bs 4 12).any (· != 0) then none else splitOps b (fieldAt bs 0 4) (bs.drop 16)

/-- Store an op works on. -/
def opStore (o : List Byte) : Option Nat :=
  match opCode o with
  | 0x01 | 0x02 | 0x03 => some 0
  | 0x11 | 0x12 | 0x13 => some 1
  | _ => none

/-- A commit at work: the memory with what has been written, IDs allocated per store, checks failed, shortfall. -/
structure Work where
  mem : Mem
  /-- The IDs that the delta's allocating PUTs take, in order, and those taken so far. -/
  allK : List Nat
  allL : List Nat
  kfs : List Nat
  lms : List Nat
  bad : Bool
  conflict : Bool
  short : Nat
  /-- Ranges read (R287 step 4), allocated IDs by the index of their op. -/
  reads : List (Nat × Nat)
  ids : List (Nat × Nat)
  /-- Slots that this commit writes, per store. -/
  newK : List Nat
  newL : List Nat
  deriving DecidableEq, Repr

/-- What a commit rests on: the map block, shard, published epoch, retired epoch, base epoch. -/
structure MapCtx where
  b : List Byte
  shard : Nat
  epoch : Nat
  retired : Nat
  base : Nat
  deriving DecidableEq, Repr

def MapCtx.cur (c : MapCtx) : Nat := c.epoch % 2
def MapCtx.next (c : MapCtx) : Nat := nextEpoch c.epoch % 2

def Work.alloc (w : Work) (store : Nat) : List Nat := if store = 0 then w.kfs else w.lms

/-- Global ID of a local one (R273). -/
def MapCtx.gid (c : MapCtx) (i : Nat) : Nat := c.shard * 2 ^ 28 + i

/-- Local ID that a field names: a placeholder of R285 or a global ID. -/
def Work.resolve (w : Work) (c : MapCtx) (store x : Nat) : Option Nat :=
  if 0xFFFE0000 ≤ x ∧ x < 0xFFFFFFFF then (w.alloc store)[x - 0xFFFE0000]?
  else
    let i := x % 2 ^ 28
    if x / 2 ^ 28 = c.shard ∧ i < mbCap c.b store then some i else none

/-- ID fields inside records: placeholders become IDs, everything else stays. A record may name an ID that a later op
allocates, as the deltas of R293 do (DESIGN CHOICE, unsafe, log entry 23). -/
def Work.idField (w : Work) (c : MapCtx) (store x : Nat) : Nat :=
  if 0xFFFE0000 ≤ x ∧ x < 0xFFFFFFFF then
    (match (if store = 0 then w.allK else w.allL)[x - 0xFFFE0000]? with | some i => c.gid i | none => x) else x

/-- R285: the free local IDs, lowest first. -/
def MapCtx.freeIds (c : MapCtx) (m : Mem) (store : Nat) : List Nat :=
  (List.range (mbCap c.b store)).filter (fun i =>
    match m.slotOf c.b store c.cur i with
    | none => true
    | some s =>
      let e := m.recEpoch c.b store s
      m.tomb c.b store s && decide ((mbReclaim c.b : Int) < epochDiff c.epoch e) && decide (epochDiff e c.retired < 0))

/-- The lowest ID that is still free. -/
def Work.freeId (w : Work) (store : Nat) : Option Nat :=
  if store = 0 then w.allK[w.kfs.length]? else w.allL[w.lms.length]?

/-- A slot for a new version of a record: the one this commit wrote before, or the lowest free one. -/
def Work.slotFor (w : Work) (c : MapCtx) (store i : Nat) : Option Nat × Work :=
  let mine := if store = 0 then w.newK else w.newL
  match (w.mem.slotOf c.b store c.next i).bind (fun s => if s ∈ mine then some s else none) with
  | some s => (some s, w)
  | none =>
    let used := mine ++ (List.range (mbCap c.b store)).filterMap (w.mem.slotOf c.b store c.cur)
    match (List.range (mbSlots c.b store)).find? (fun s => decide (s ∉ used)) with
    | some s => (some s, if store = 0 then { w with newK := s :: w.newK } else { w with newL := s :: w.newL })
    | none => (none, w)

/-- Write a new version of record `i` and its features (keyframes only). -/
def Work.put (w : Work) (c : MapCtx) (store i : Nat) (rc : List Byte) (feats : Option (List Byte)) : Work :=
  let old := w.mem.slotOf c.b store c.next i
  let r := w.slotFor c store i
  let w := r.2
  match r.1 with
  | none => { w with short := w.short + mbRecBytes store + (if store = 0 then 64 * mbFeatMax c.b else 0) }
  | some s =>
    let rc := leBytes 4 (c.gid i) ++ leBytes 4 (nextEpoch c.epoch) ++ rc.drop 8
    let m := w.mem.store (mbRec c.b store s) rc
    let m := match feats, old with
      | some f, _ => m.store (mbFeat c.b s) f
      | none, some o =>
        if store = 0 ∧ o ≠ s then m.store (mbFeat c.b s) (m.bytes (mbFeat c.b o) (64 * mbFeatMax c.b)) else m
      | none, none => m
    { w with mem := m.store (mbInd c.b store c.next i) (leBytes 4 s) }

/-- R287 steps 1 and 2 for an op that names a record: its local ID and the record at hand. -/
def Work.target (w : Work) (c : MapCtx) (store x : Nat) (noTomb : Bool) : Option (Nat × Nat) × Work :=
  match w.resolve c store x with
  | none => (none, { w with bad := true })
  | some i =>
    match w.mem.slotOf c.b store c.next i with
    | none => (none, { w with bad := true })
    | some s =>
      let w := { w with reads := w.reads ++ [(mbRec c.b store s, mbRecBytes store)] }
      let own := decide (s ∈ (if store = 0 then w.newK else w.newL))
      let w := if noTomb && w.mem.tomb c.b store s then { w with bad := true } else w
      let w := if !own && decide (0 < epochDiff (w.mem.recEpoch c.b store s) c.base) then { w with conflict := true } else w
      (some (i, s), w)

/-- Placeholders in the records of a KF_PUT: NEIGH, and the landmarks of its features. -/
def Work.fixKf (w : Work) (c : MapCtx) (rc feats : List Byte) : List Byte × List Byte :=
  let rc := (List.range 8).foldl (fun r k => putSlice r (140 + 4 * k) (leBytes 4 (w.idField c 0 (fieldAt r (140 + 4 * k) 4)))) rc
  let feats := (List.range (feats.length / 64)).foldl (fun f k =>
    putSlice f (64 * k + 8) (leBytes 4 (w.idField c 1 (fieldAt f (64 * k + 8) 4)))) feats
  (rc, feats)

/-- A PUT: the ID it names or allocates, then the new version. A tombstoned ID stays tombstoned (R286). -/
def Work.doPut (w : Work) (c : MapCtx) (k store : Nat) (o : List Byte) : Work :=
  let body := o.drop 16
  let rec0 := body.take (mbRecBytes store)
  let feats0 := body.drop 256
  let x := opId o
  if x = 0xFFFFFFFF then
    match w.freeId store with
    | none => { w with short := w.short + mbRecBytes store,
                       kfs := if store = 0 then w.kfs ++ [mbCap c.b 0] else w.kfs,
                       lms := if store = 0 then w.lms else w.lms ++ [mbCap c.b 1] }
    | some i =>
      let w := if store = 0 then { w with kfs := w.kfs ++ [i], ids := w.ids ++ [(k, c.gid i)] }
        else { w with lms := w.lms ++ [i], ids := w.ids ++ [(k, c.gid i)] }
      if store = 0 then let f := w.fixKf c rec0 feats0; w.put c 0 i f.1 (some f.2)
      else w.put c 1 i (putSlice rec0 56 (leBytes 4 (w.idField c 0 (fieldAt rec0 56 4)))) none
  else
    let t := w.target c store x false
    let w := t.2
    match t.1 with
    | none => w
    | some (i, s) =>
      let keep := b2n (w.mem.tomb c.b store s)
      if store = 0 then
        let f := w.fixKf c rec0 feats0
        w.put c 0 i (putSlice f.1 19 (leBytes 1 (Nat.lor (fieldAt f.1 19 1) keep))) (some f.2)
      else
        let r := putSlice rec0 56 (leBytes 4 (w.idField c 0 (fieldAt rec0 56 4)))
        w.put c 1 i (putSlice r 62 (leBytes 1 (Nat.lor (fieldAt r 62 1) keep))) none

/-- Tables of the two banks. -/
def MapCtx.curVt (c : MapCtx) (m : Mem) : Vt := ⟨m.ptSel c.b c.cur, m.tabLog2 c.b c.cur⟩
def MapCtx.nextVt (c : MapCtx) (m : Mem) : Vt := ⟨m.ptSel c.b c.next, m.tabLog2 c.b c.next⟩

/-- A voxel op on a table. -/
def Mem.voxOp (m : Mem) (b : List Byte) (v : Vt) (keep others : List Nat) (o : List Byte) : Mem × Nat :=
  (List.range (opId o)).foldl (fun (a : Mem × Nat) k =>
    let e := fieldAt o (16 + 8 * k) 8
    let r := if opCode o = 0x21 then a.1.voxAdd b v keep others e else a.1.voxClear b v keep others (voxKey e)
    (r.1, a.2 + r.2)) (m, 0)

/-- One op (R286). `others` are page tables whose pages are taken. -/
def Work.step (w : Work) (c : MapCtx) (others : List Nat) (k : Nat) (o : List Byte) : Work :=
  match opCode o with
  | 0x01 => w.doPut c k 0 o
  | 0x11 => w.doPut c k 1 o
  | 0x02 =>
    let t := w.target c 0 (opId o) true
    match t.1 with
    | none => t.2
    | some (i, s) => t.2.put c 0 i (putSlice (t.2.mem.bytes (mbRec c.b 0 s) 256) 24 ((o.drop 16).take 112)) none
  | 0x12 =>
    let t := w.target c 1 (opId o) true
    match t.1 with
    | none => t.2
    | some (i, s) => t.2.put c 1 i (putSlice (t.2.mem.bytes (mbRec c.b 1 s) 64) 8 ((o.drop 16).take 16)) none
  | 0x03 =>
    let t := w.target c 0 (opId o) true
    match t.1 with
    | none => t.2
    | some (i, s) =>
      let r := t.2.mem.bytes (mbRec c.b 0 s) 256
      t.2.put c 0 i (putSlice r 19 (leBytes 1 (Nat.lor (fieldAt r 19 1) 1))) none
  | 0x13 =>
    let t := w.target c 1 (opId o) true
    match t.1 with
    | none => t.2
    | some (i, s) =>
      let r := t.2.mem.bytes (mbRec c.b 1 s) 64
      t.2.put c 1 i (putSlice r 62 (leBytes 1 (Nat.lor (fieldAt r 62 1) 1))) none
  | 0x21 | 0x22 =>
    let r := w.mem.voxOp c.b (c.nextVt w.mem) [(c.curVt w.mem).pt] others o
    { w with mem := r.1, short := w.short + r.2 }
  | _ => w

/-- R282: bank (e + 1) mod 2 made equal to bank e mod 2; its page table stays its own. -/
def MapCtx.equalise (c : MapCtx) (m : Mem) : Mem :=
  let m := m.store (mbInd c.b 0 c.next 0) (m.bytes (mbInd c.b 0 c.cur 0) (4 * mbKfCap c.b))
  let m := m.store (mbInd c.b 1 c.next 0) (m.bytes (mbInd c.b 1 c.cur 0) (4 * mbLmCap c.b))
  let m := m.store (mbPtEntry c.b (m.ptSel c.b c.next) 0) (m.bytes (mbPtEntry c.b (m.ptSel c.b c.cur) 0) (4 * mbPt c.b))
  m.store (mbRoot c.b + 16 + c.next) (leBytes 1 (m.tabLog2 c.b c.cur))

/-- Ops of a store beyond DELTA_MAX, in bytes of records. -/
def deltaShort (b : List Byte) (ops : List (List Byte)) (store : Nat) : Nat :=
  ((ops.filter (fun o => decide (opStore o = some store))).length - mbDelta b) * mbRecBytes store

/-- R287: the whole of a commit on a copy of the memory. -/
def runOps (c : MapCtx) (m : Mem) (others : List Nat) (ops : List (List Byte)) : Work :=
  let take (store code : Nat) : List Nat :=
    (c.freeIds m store).take (ops.filter (fun o => decide (opCode o = code ∧ opId o = 0xFFFFFFFF))).length
  let w : Work := ⟨c.equalise m, take 0 0x01, take 1 0x11, [], [], decide (0 < epochDiff c.base c.epoch), false,
    deltaShort c.b ops 0 + deltaShort c.b ops 1, [], [], [], []⟩
  let w := (List.range ops.length).foldl (fun w k => w.step c others k (ops.getD k [])) w
  if ops.any (fun o => decide (opCode o = 0x21 ∨ opCode o = 0x22)) then
    let v := c.nextVt w.mem
    let n := w.mem.voxCount c.b v
    let cap := 2 ^ v.n * 7 / 8
    { w with short := w.short + 8 * (n.1 - 2 ^ 28) + 8 * (n.1 + n.2 - cap) }
  else w

/-! ### The device's map -/

/-- R297: CTX0 and the context that loaded the map's workbook. -/
def Dev.mapCtxs (d : Dev) (m : MapSt) : List Nat := 0 :: (((d.wb m.wb).bind (·.ctx)).toList)

/-- MAP_STATUS and the registers beside it. -/
def Dev.syncMap (d : Dev) : Dev :=
  match d.map with
  | none => d.clearMapRegs
  | some m =>
    let bank := m.epoch % 2
    let v : Vt := ⟨d.mem.ptSel m.blk bank, d.mem.tabLog2 m.blk bank⟩
    let d := (((d.set R.MAP_STATUS.VALID 0 0 1).set R.MAP_STATUS.AUTH 0 0 (b2n d.hasAuthority)).set
      R.MAP_STATUS.COMMIT_BUSY 0 0 (b2n m.staged.isSome)).set R.MAP_STATUS.REBUILD 0 0 (b2n m.rebuild.isSome)
    let d := (d.set R.MAP_STATUS.PART 0 0 m.part).set R.MAP_STATUS.SHARD 0 0 d.shard
    let d := ((d.set R.MAP_EPOCH.EPOCH 0 0 m.epoch).set R.MAP_RETIRED.RETIRED 0 0 m.retired).set
      R.MAP_KF_USED.USED 0 0 (d.mem.usedIds m.blk 0 bank).length
    let d := ((d.set R.MAP_LM_USED.USED 0 0 (d.mem.usedIds m.blk 1 bank).length).set R.MAP_VOX_USED.LIVE 0 0
      (d.mem.voxCount m.blk v).1).set R.MAP_VOX_TAB.TAB_LOG2 0 0 v.n
    (d.set R.MAP_VOX_TAB.SHADOW_LOG2 0 0 (((m.rebuild).map (·.log2)).getD 0)).set R.MAP_JOURNAL.ENTRIES 0 0 m.jcount

def Dev.setMap (d : Dev) (f : MapSt → MapSt) : Dev := { d with map := d.map.map f }.syncMap

/-- R275: a map block goes into effect. -/
def Dev.loadMap (d : Dev) (wb part : Nat) (b : List Byte) : Dev :=
  if bitOf (fieldAt b 0 1) 0 then
    let e := d.mem.word (mbRoot b) 4
    { d with map := some ⟨wb, part, b, e, d.mem.word (mbRoot b + 4) 4, d.now, [], none, none, 0, 0, []⟩ }.syncMap
  else
    let m := d.mem.store (mbBase b 2) (List.replicate (8 * mbKfCap b) 0xFF)
    let m := m.store (mbBase b 4) (List.replicate (8 * mbLmCap b) 0xFF)
    let m := m.store (mbBase b 5) (List.replicate (12 * mbPt b) 0xFF)
    let m := m.store (mbRoot b) (leBytes 4 1 ++ leBytes 4 1 ++ leBytes 8 (d.schedNow part) ++ leBytes 1 (mbTabLog2 b) ++
      leBytes 1 (mbTabLog2 b) ++ [0, 1] ++ List.replicate 4072 0)
    { d with mem := m.sealRoot b, map := some ⟨wb, part, b, 1, 1, d.now, [], none, none, 0, 0, []⟩ }.syncMap

/-- R275: a root that RESUME finds is wrong: its CHK, or a size that differs from the block. -/
def Dev.rootBad (d : Dev) (b : List Byte) : Bool :=
  let r := d.mem.bytes (mbRoot b) 4096
  decide (fieldAt r 4092 4 ≠ crc32c (r.take 4092)) || decide (fieldAt r 0 4 = 0) ||
    (let bank := fieldAt r 0 4 % 2
     decide (fieldAt r (16 + bank) 1 < 16 ∨ mbVoxMax b < fieldAt r (16 + bank) 1 ∨ 2 < fieldAt r 18 1 ∨ 2 < fieldAt r 19 1 ∨
       fieldAt r 18 1 = fieldAt r 19 1))

/-- R294: the tables that hold pages beside the two banks: that of a running rebuild. -/
def MapSt.others (m : MapSt) : List Nat := match m.rebuild with | some r => [r.pt] | none => []

/-- Page table that neither bank uses. -/
def spareOf (a b : Nat) : Nat := ([0, 1, 2].find? (fun p => decide (p ≠ a ∧ p ≠ b))).getD 2

/-- R297: stores that have reached 90 percent: code and percentage. -/
def Dev.capacity (d : Dev) (m : MapSt) : List (Nat × Nat) :=
  let pc (u c : Nat) : Nat := 100 * u / max 1 c
  [(0, pc (d.get R.MAP_KF_USED.USED 0 0) (mbKfCap m.blk)), (1, pc (d.get R.MAP_LM_USED.USED 0 0) (mbLmCap m.blk)),
    (2, pc (d.get R.MAP_VOX_USED.LIVE 0 0) (min (2 ^ 28) (2 ^ mbVoxMax m.blk * 7 / 8)))]

/-- The device posts MAP_CAPACITY for stores that have come to 90 percent. -/
def Dev.warnMap (d : Dev) : Dev :=
  match d.map with
  | none => d
  | some m =>
    let now := (d.capacity m).filter (fun x => decide (90 ≤ x.2))
    let new_ := now.filter (fun x => decide (x.1 ∉ m.full))
    let d := new_.foldl (fun d x =>
      (d.set R.MAP_STATUS.CAP_WARN 0 0 1).eventAll (d.mapCtxs m) 0x4B 0 0 (leBytes 1 x.1 ++ leBytes 1 x.2) 0) d
    d.setMap (fun m => { m with full := now.map (·.1) })

/-- R294: start a rebuild where the published table asks for one. -/
def Dev.startRebuild (d : Dev) : Dev :=
  match d.map with
  | none => d
  | some m =>
    let bank := m.epoch % 2
    let v : Vt := ⟨d.mem.ptSel m.blk bank, d.mem.tabLog2 m.blk bank⟩
    let n := d.mem.voxCount m.blk v
    if m.rebuild.isSome ∨ 4 * (n.1 + n.2) ≤ 3 * 2 ^ v.n then d
    else
      let log2 := if 3 * 2 ^ v.n < 8 * n.1 ∧ v.n < mbVoxMax m.blk then v.n + 1 else v.n
      let r : Rebuild := ⟨log2, spareOf (d.mem.ptSel m.blk 0) (d.mem.ptSel m.blk 1), false, [], 0⟩
      let d := d.setMap (fun m => { m with rebuild := some r })
      { d with cal := { d.cal with maint := d.cal.maint ++ [⟨m.part, .mapRebuild, (d.pcal m.part).orbits⟩] } }

/-- R282: the root names epoch e + 1. -/
def Dev.newEpoch (d : Dev) (rebuild prior : Bool) : Dev :=
  match d.map with
  | none => d
  | some m =>
    let e := nextEpoch m.epoch
    let mem := d.mem.store (mbRoot m.blk) (leBytes 4 e ++ leBytes 4 m.retired ++ leBytes 8 (d.schedNow m.part))
    let d := { d with mem := mem.sealRoot m.blk }
    let d := d.setMap (fun m => { m with
      epoch := e, pubNow := d.now, before := d.runs.map (·.id), staged := none })
    let d := d.eventAll (d.mapCtxs m) 0x48 0 0 (leBytes 4 e ++ leBytes 1 (b2n rebuild + 2 * b2n prior)) 0
    d.warnMap.startRebuild

/-- R289: offer a PRIOR op to its track. -/
def Dev.offerPrior (d : Dev) (m : MapSt) (o : List Byte) : Dev :=
  let t := opId o
  match d.track t with
  | none => d
  | some k =>
    let take := k.admitted && decide (k.state = 0 ∨ k.state = 3)
    let d :=
      if take then
        let args := (o.drop 16).map (·.toNat) ++ k.hist.flatMap (fun h => h.at_ :: h.nom) ++ k.nom ++ k.cov
        let w := freeNums 20 args 136
        (d.setTrackState t 2).setTrack t (fun k => { k with nom := w.take 16, cov := w.drop 16, lastPass := d.trackNow k })
      else d
    d.eventAll (d.mapCtxs m) 0x4A 0 0 (leBytes 1 t ++ leBytes 1 (b2n take)) 0

/-- Voxel ops of a commit go to the replay ring of a running rebuild (R294, R295). -/
def Dev.appendReplay (d : Dev) (m : MapSt) (ops : List (List Byte)) : Dev :=
  match m.rebuild with
  | none => d
  | some r =>
    let vs := ops.filter (fun o => decide (opCode o = 0x21 ∨ opCode o = 0x22))
    let bytes := vs.flatMap id
    if mbReplay m.blk < r.used + bytes.length then
      d.setMap (fun m => { m with rebuild := some { r with copied := false, ops := [], used := 0 } })
    else
      let d := { d with mem := d.mem.store (mbBase m.blk 7 + r.used) bytes }
      d.setMap (fun m => { m with rebuild := some { r with ops := if r.copied then r.ops ++ vs else r.ops, used := r.used + bytes.length } })

/-- R282, R288, R289: publication of the staged commit, or of a finished rebuild, at an orbit boundary of partition `p`. -/
def Dev.publishMap (d : Dev) (p : Nat) : Dev :=
  match d.map with
  | none => d
  | some m =>
    if m.part ≠ p then d
    else
      match m.staged.bind (fun s => (d.req s.1).map (fun r => (r, s.2))) with
      | some (r, ops) =>
        let priors := ops.filter (fun o => decide (opCode o = 0x30))
        let d := (d.newEpoch false (!priors.isEmpty)).appendReplay m ops
        let d := priors.foldl (fun d o => d.offerPrior m o) d
        (d.finishReq r 0 0 none 0 (leBytes 4 (nextEpoch m.epoch))).settleWaits (d.reqs.length + 1)
      | none =>
        let d := d.setMap (fun m => { m with staged := none })
        match m.rebuild with
        | some r =>
          if r.copied && r.ops.isEmpty && decide (m.retired = m.epoch) then
            let c : MapCtx := ⟨m.blk, d.shard, m.epoch, m.retired, m.epoch⟩
            let mem := (c.equalise d.mem).store (mbRoot m.blk + 16 + c.next) (leBytes 1 r.log2)
            let mem := mem.store (mbRoot m.blk + 18 + c.next) (leBytes 1 r.pt)
            let d := { d with
              mem := mem, cal := { d.cal with maint := d.cal.maint.filter (fun x => decide (x.kind ≠ MaintKind.mapRebuild)) } }
            let d := d.setMap (fun m => { m with rebuild := none })
            let d := d.newEpoch true false
            d.eventAll (d.mapCtxs m) 0x49 0 0 (leBytes 1 r.log2 ++ leBytes 4 (nextEpoch m.epoch)) 0
          else d
        | none => d

/-- R283: retirement. -/
def Dev.retireMap (d : Dev) : Dev :=
  match d.map with
  | none => d
  | some m =>
    if m.retired ≠ m.epoch ∧ m.pubNow + 1000 * mbHoldUs m.blk ≤ d.now ∧ (d.runs.all (fun r => decide (r.id ∉ m.before))) = true then
      let mem := d.mem.store (mbRoot m.blk + 4) (leBytes 4 m.epoch)
      { d with mem := mem.sealRoot m.blk }.setMap (fun m => { m with retired := m.epoch })
    else d

/-- R294: a step of the rebuild: the copy of the published epoch's live entries, then the ops that wait. -/
def Dev.rebuildMap (d : Dev) : Dev :=
  match d.map with
  | none => d
  | some m =>
    match m.rebuild with
    | none => d
    | some r =>
      let bank := m.epoch % 2
      let cur : Vt := ⟨d.mem.ptSel m.blk bank, d.mem.tabLog2 m.blk bank⟩
      let keep := [d.mem.ptSel m.blk 0, d.mem.ptSel m.blk 1]
      let new_ : Vt := ⟨r.pt, r.log2⟩
      if r.copied then
        let mem := r.ops.foldl (fun m' o => (m'.voxOp m.blk new_ keep [] o).1) d.mem
        { d with mem := mem }.setMap (fun m => { m with rebuild := some { r with ops := [] } })
      else
        let blank := d.mem.store (mbPtEntry m.blk r.pt 0) (List.replicate (4 * mbPt m.blk) 0xFF)
        let mem := (List.range (2 ^ cur.n)).foldl (fun m' s =>
          let e := d.mem.vox m.blk cur s
          if e = voxEmpty ∨ voxTomb e then m' else (m'.voxAdd m.blk new_ keep [] e).1) blank
        { d with mem := mem }.setMap (fun m => { m with rebuild := some { r with copied := true, ops := [], used := 0 } })

/-- R296: journal a refused delta. -/
def Dev.journal (d : Dev) (base : Nat) (bs : List Byte) : Dev :=
  match d.map with
  | none => d
  | some m =>
    if mbJournalBytes m.blk < m.jused + 32 + bs.length then d.set R.MAP_STATUS.JOURNAL_FULL 0 0 1
    else
      let h := leBytes 4 m.jcount ++ leBytes 4 base ++ leBytes 8 (d.schedNow m.part) ++ leBytes 4 bs.length ++ List.replicate 12 0
      { d with mem := d.mem.store (mbJournal m.blk + m.jused) (h ++ bs) }.setMap (fun m => { m with
        jused := m.jused + 32 + bs.length, jcount := m.jcount + 1 })

/-- R296: the host empties the journal. -/
def Dev.clearJournal (d : Dev) : Dev := d.setMap (fun m => { m with jused := 0, jcount := 0 })

/-- R296: a commit without authority. -/
def Dev.refuseCommit (d : Dev) (r : Req) : Dev :=
  match d.map with
  | none => d
  | some m =>
    let d := d.journal (dArg1 r.desc % 2 ^ 32) (d.mem.bytes (dArg0 r.desc) (dLen r.desc))
    let d := { d with cal := { d.cal with maint := d.cal.maint.filter (fun x => decide (x.kind ≠ MaintKind.hostReq r.id)) } }
    d.finishReq r 0x40 0 none 0 (leBytes 4 m.epoch)

end Sys2Proof.Machine
end

