-- ==== Sys2Proof/Machine/Solve.lean ====
section
/-! DEFINITION. The solver lattice's arithmetic: canonical sums, the six problem kinds, how a problem fails (R302 to R311).
Where Table 11-3 fixes no order of operations (QR, the sums of SCHUR_BA over points and observations) the numbers are free
values of everything the problem reads (DESIGN CHOICE, safe, log entry 24). -/

namespace Sys2Proof.Machine

/-- Formats of a PREC: arithmetic, elements in memory. -/
structure Prec where
  a : Fp
  e : Fp
  deriving DecidableEq, Repr

def precOf (p : Nat) : Prec :=
  match p with
  | 0 => ⟨fp32, fp32⟩
  | 1 => ⟨fp64, fp32⟩
  | _ => ⟨fp64, fp64⟩

/-- Bytes of an element. -/
def Prec.bytes (p : Prec) : Nat := p.e.width / 8

/-- An element of memory as a number of the arithmetic, and back. -/
def Prec.load (p : Prec) (v : Nat) : Nat := p.a.ofNum (p.e.decode v)
def Prec.elem (p : Prec) (v : Nat) : Nat := p.e.ofNum (p.a.decode v)
/-- A value stored as an element and read again. -/
def Prec.st (p : Prec) (v : Nat) : Nat := p.load (p.elem v)

def Fp.isFin (F : Fp) (v : Nat) : Bool := match F.decode v with | .fin _ _ _ => true | _ => false
def Fp.isZero (F : Fp) (v : Nat) : Bool := match F.decode v with | .fin _ m _ => decide (m = 0) | _ => false
def Fp.le (F : Fp) (v w : Nat) : Bool := (F.decode v).lt (F.decode w) || (F.decode v).eq (F.decode w)
def Fp.abs (F : Fp) (v : Nat) : Nat := v % 2 ^ (F.eb + F.fb)

/-- R308. -/
def csum (F : Fp) (init : Nat) (xy : List (Nat × Nat)) : Nat :=
  let p0 : List Nat := List.replicate 16 0
  let p := (List.range xy.length).foldl (fun p k =>
    modifyAt p (k % 16) (fun v => F.fma (xy.getD k (0, 0)).1 (xy.getD k (0, 0)).2 v)) p0
  let tree (p : List Nat) (w : Nat) : List Nat := (List.range w).map (fun l => F.add (p.getD (2 * l) 0) (p.getD (2 * l + 1) 0))
  F.add init ((([8, 4, 2, 1] : List Nat).foldl tree p).getD 0 0)

/-- Element (i, j) of a matrix with `n` columns. -/
def mat (m : List Nat) (n i j : Nat) : Nat := m.getD (i * n + j) 0
/-- Of a symmetric matrix of which only the upper triangle counts. -/
def sym (m : List Nat) (n i j : Nat) : Nat := if i ≤ j then mat m n i j else mat m n j i

/-- Why a problem fails (Table 11-6): CODE, BLOCK, INDEX. -/
structure Fail where
  code : Nat
  block : Nat
  index : Nat
  deriving DecidableEq, Repr

def Fail.payload (f : Fail) : Nat := f.code % 16 * 2 ^ 18 + f.block % 2 * 2 ^ 17 + f.index % 2 ^ 17

/-- τ and the place of the columns in an error. -/
structure Rule where
  tau : Nat
  block : Nat
  first : Nat
  deriving DecidableEq, Repr

/-- Largest magnitude among values. -/
def Fp.top (F : Fp) (vs : List Nat) : Nat := vs.foldl (fun m v => if (F.decode m).lt (F.decode (F.abs v)) then F.abs v else m) 0

/-- R310: a pivot against τ × base: its ratio to the base, or the failure. -/
def pivotCheck (p : Prec) (r : Rule) (base d k : Nat) : Except Fail Nat :=
  if !p.a.isFin d then .error ⟨3, r.block, r.first + k⟩
  else if p.a.isZero d then .error ⟨1, r.block, r.first + k⟩
  else if p.a.le d (p.a.mul (p.a.ofNum (fp32.decode r.tau)) base) then .error ⟨2, r.block, r.first + k⟩
  else .ok (fp32.ofNum (p.a.decode (p.a.div d base)))

/-- A value that must be finite. -/
def finite (p : Prec) (r : Rule) (k v : Nat) : Except Fail Nat :=
  if p.a.isFin v then .ok v else .error ⟨3, r.block, r.first + k⟩

/-- Smaller of two ratios. -/
def minRatio (a b : Nat) : Nat := if (fp32.decode b).lt (fp32.decode a) then b else a

/-- +∞ as an f32: the smallest ratio before any pivot. -/
def noRatio : Nat := 0x7F800000

/-- Columns of a factor made so far, each from its diagonal down, and the smallest ratio. -/
structure Factor where
  cols : List (List Nat)
  diag : List Nat
  ratio : Nat
  deriving DecidableEq, Repr

/-- l_ij of the columns made so far, i ≥ j. -/
def Factor.l (f : Factor) (i j : Nat) : Nat := (f.cols.getD j []).getD (i - j) 0

/-- A list computed in order, up to the first failure. -/
def mapE {α β : Type} (f : α → Except Fail β) (l : List α) : Except Fail (List β) :=
  match l with
  | [] => .ok []
  | x :: r =>
    match f x with
    | .error e => .error e
    | .ok y =>
      match mapE f r with
      | .error e => .error e
      | .ok ys => .ok (y :: ys)

def foldE {α β : Type} (f : β → α → Except Fail β) (b : β) (l : List α) : Except Fail β :=
  match l with
  | [] => .ok b
  | x :: r =>
    match f b x with
    | .error e => .error e
    | .ok c => foldE f c r

/-- Column k of A = LLᵀ. -/
def cholCol (p : Prec) (r : Rule) (a : Nat → Nat → Nat) (base n : Nat) (f : Factor) (k : Nat) : Except Fail Factor :=
  let row (i : Nat) : List (Nat × Nat) := (List.range k).map (fun j => (p.a.negate (f.l i j), f.l k j))
  let d := csum p.a (a k k) (row k)
  match pivotCheck p r base d k with
  | .error e => .error e
  | .ok q =>
    let lkk := p.st (p.a.sqrt d)
    match mapE (fun i => finite p r k (p.st (p.a.div (csum p.a (a i k) (row i)) lkk)))
        ((List.range (n - k - 1)).map (fun i => k + 1 + i)) with
    | .error e => .error e
    | .ok col => .ok { cols := f.cols ++ [lkk :: col], diag := f.diag ++ [lkk], ratio := minRatio f.ratio q }

/-- A = LLᵀ (Table 11-3). -/
def chol (p : Prec) (r : Rule) (a : Nat → Nat → Nat) (n : Nat) : Except Fail Factor :=
  let base := p.a.top ((List.range n).map (fun i => a i i))
  foldE (cholCol p r a base n) ⟨[], [], noRatio⟩ (List.range n)

/-- Column k of A = LDLᵀ; `diag` holds D, a column its unit diagonal first. -/
def ldltCol (p : Prec) (r : Rule) (a : Nat → Nat → Nat) (base n : Nat) (f : Factor) (k : Nat) : Except Fail Factor :=
  let w (j : Nat) : Nat := p.a.mul (f.l k j) (f.diag.getD j 0)
  let row (i : Nat) : List (Nat × Nat) := (List.range k).map (fun j => (p.a.negate (f.l i j), w j))
  let d := csum p.a (a k k) (row k)
  match pivotCheck p r base (if p.a.isFin d then p.a.abs d else d) k with
  | .error e => .error e
  | .ok q =>
    match mapE (fun i => finite p r k (p.st (p.a.div (csum p.a (a i k) (row i)) (p.st d))))
        ((List.range (n - k - 1)).map (fun i => k + 1 + i)) with
    | .error e => .error e
    | .ok col =>
      let one := p.a.ofInt 1
      .ok { cols := f.cols ++ [one :: col], diag := f.diag ++ [p.st d], ratio := minRatio f.ratio q }

def ldlt (p : Prec) (r : Rule) (a : Nat → Nat → Nat) (n : Nat) : Except Fail Factor :=
  let base := p.a.top ((List.range n).map (fun i => a i i))
  foldE (ldltCol p r a base n) ⟨[], [], noRatio⟩ (List.range n)

/-- Forward substitution: L y = b. -/
def forward (p : Prec) (r : Rule) (f : Factor) (n : Nat) (b : Nat → Nat) : Except Fail (List Nat) :=
  foldE (fun ys i =>
    let s := csum p.a (b i) ((List.range i).map (fun j => (p.a.negate (f.l i j), ys.getD j 0)))
    (finite p r i (p.a.div s (f.l i i))).map (fun v => ys ++ [v])) [] (List.range n)

/-- Back substitution: Lᵀ x = y; the solution's elements are outputs. -/
def backward (p : Prec) (r : Rule) (f : Factor) (n : Nat) (y : Nat → Nat) : Except Fail (List Nat) :=
  foldE (fun xs k =>
    let i := n - 1 - k
    let s := csum p.a (y i) ((List.range k).map (fun j => (p.a.negate (f.l (i + 1 + j) i), xs.getD j 0)))
    (finite p r i (p.st (p.a.div s (f.l i i)))).map (fun v => v :: xs)) [] (List.range n)

def cholSolve (p : Prec) (r : Rule) (f : Factor) (n : Nat) (b : Nat → Nat) : Except Fail (List Nat) :=
  match forward p r f n b with
  | .error e => .error e
  | .ok y => backward p r f n (fun i => y.getD i 0)

def ldltSolve (p : Prec) (r : Rule) (f : Factor) (n : Nat) (b : Nat → Nat) : Except Fail (List Nat) :=
  match forward p r f n b with
  | .error e => .error e
  | .ok y =>
    match mapE (fun i => finite p r i (p.a.div (y.getD i 0) (f.diag.getD i 0))) (List.range n) with
    | .error e => .error e
    | .ok z => backward p r f n (fun i => z.getD i 0)

/-- Solutions of `k` right-hand sides as an n × k matrix. -/
def solveAll (n k : Nat) (s : (Nat → Nat) → Except Fail (List Nat)) (b : List Nat) : Except Fail (List Nat) :=
  match mapE (fun c => s (fun i => mat b k i c)) (List.range k) with
  | .error e => .error e
  | .ok cols => .ok ((List.range n).flatMap (fun i => (List.range k).map (fun c => (cols.getD c []).getD i 0)))

/-- L as a full matrix, upper part 0. -/
def Factor.lower (f : Factor) (n : Nat) : List Nat :=
  (List.range n).flatMap (fun i => (List.range n).map (fun j => if j ≤ i then f.l i j else 0))

/-- A problem descriptor (Table 11-2). -/
def pdKind (b : List Byte) : Nat := fieldAt b 0 1
def pdPrec (b : List Byte) : Nat := fieldAt b 1 1
def pdGang (b : List Byte) : Nat := fieldAt b 2 1
def pdDamp (b : List Byte) : Bool := bitOf (fieldAt b 3 1) 0
def pdKeep (b : List Byte) : Bool := bitOf (fieldAt b 3 1) 1
def pdN (b : List Byte) : Nat := fieldAt b 4 2
def pdK (b : List Byte) : Nat := fieldAt b 6 2
def pdM (b : List Byte) : Nat := fieldAt b 8 4
def pdNobs (b : List Byte) : Nat := fieldAt b 12 4
def pdLambda (b : List Byte) : Nat := fieldAt b 16 4
def pdOut (b : List Byte) : Nat := fieldAt b 20 4
def pdA (b : List Byte) : Nat := fieldAt b 24 8
def pdB (b : List Byte) : Nat := fieldAt b 32 8
def pdC (b : List Byte) : Nat := fieldAt b 40 8
def pdD (b : List Byte) : Nat := fieldAt b 48 8
def pdAnchor (b : List Byte) : Nat := fieldAt b 56 8
def pdEl (b : List Byte) : Nat := (precOf (pdPrec b)).bytes
/-- Bytes of an observation record. -/
def pdObs (b : List Byte) : Nat := 8 + 18 * pdEl b

/-- Table 11-1: the largest N. -/
def gangMax (gang prec : Nat) : Nat :=
  match gang with
  | 0 => 64
  | 1 => 128
  | _ => if prec = 2 then 256 else 384

/-- Table 11-2. -/
def pdOk (b : List Byte) : Bool :=
  let kd := pdKind b
  let al (x : Nat) : Bool := decide (x % 64 = 0)
  let n := if kd = 5 then 6 * pdN b else pdN b
  decide (1 ≤ kd ∧ kd ≤ 6 ∧ pdPrec b ≤ 2 ∧ pdGang b ≤ 2 ∧ fieldAt b 3 1 < 4 ∧ 1 ≤ pdN b ∧ n ≤ gangMax (pdGang b) (pdPrec b)) &&
  (if kd ≤ 3 then decide (1 ≤ pdK b ∧ pdK b ≤ 16) else if kd = 6 then decide (1 ≤ pdK b ∧ pdK b < pdN b) else decide (pdK b = 0)) &&
  (if kd = 3 ∨ kd = 4 then decide (pdN b ≤ pdM b ∧ pdM b ≤ 65536)
   else if kd = 5 then decide (1 ≤ pdM b ∧ pdM b ≤ 32768) else decide (pdM b = 0)) &&
  (if kd = 5 then decide (1 ≤ pdNobs b ∧ pdNobs b ≤ 1048576)
   else decide (pdNobs b = 0 ∧ pdC b = 0 ∧ pdD b = 0 ∧ pdAnchor b = 0)) &&
  (if kd = 4 ∨ kd = 5 then fp32.isFin (pdLambda b) && (!bitOf (pdLambda b) 31 || fp32.isZero (pdLambda b)) else decide (pdLambda b = 0)) &&
  al (pdOut b) && al (pdA b) && al (pdB b) && al (pdC b) && al (pdD b)

/-- Elements of each output in order (Table 11-3). -/
def pdOuts (b : List Byte) : List Nat :=
  let n := pdN b
  let k := pdK b
  let keep (x : List Nat) : List Nat := if pdKeep b then x else []
  match pdKind b with
  | 1 => [n * k] ++ keep [n * n]
  | 2 => [n * k] ++ keep [n * n, n]
  | 3 => [n * k, k] ++ keep [n * n]
  | 4 => [n, 1]
  | 5 => [6 * n, 3 * pdM b]
  | _ => [(n - k) * (n - k), n - k]

/-- Offset of output `i` from the result base. -/
def pdOutOff (b : List Byte) (i : Nat) : Nat :=
  ((pdOuts b).take i).foldl (fun a n => a + roundUp (n * pdEl b) 64) (pdOut b)

/-- Bytes from the result base to the end of the outputs. -/
def pdOutEnd (b : List Byte) : Nat :=
  let os := pdOuts b
  pdOutOff b (os.length - 1) + (os.getLast?.getD 0) * pdEl b

/-- Ranges of the inputs: A, B, C, D; of a symmetric matrix the part of each row from the diagonal on. -/
def pdIns (b : List Byte) : List (List (Nat × Nat)) :=
  let n := if pdKind b = 5 then 6 * pdN b else pdN b
  let e := pdEl b
  let upper := (List.range n).map (fun i => (pdA b + (i * n + i) * e, (n - i) * e))
  match pdKind b with
  | 1 | 2 => [upper, [(pdB b, n * pdK b * e)], [], []]
  | 3 => [[(pdA b, pdM b * n * e)], [(pdB b, pdM b * pdK b * e)], [], []]
  | 4 => [[(pdA b, pdM b * n * e)], [(pdB b, pdM b * e)], [], []]
  | 5 => [upper, [(pdB b, n * e)], [(pdC b, pdM b * 12 * e)], [(pdD b, pdNobs b * pdObs b)]]
  | _ => [upper, [(pdB b, n * e)], [], []]

/-- Whole extents of the inputs, for the checks of R306. -/
def pdExtents (b : List Byte) : List (Nat × Nat) :=
  let n := if pdKind b = 5 then 6 * pdN b else pdN b
  let e := pdEl b
  match pdKind b with
  | 1 | 2 => [(pdA b, n * n * e), (pdB b, n * pdK b * e)]
  | 3 => [(pdA b, pdM b * n * e), (pdB b, pdM b * pdK b * e)]
  | 4 => [(pdA b, pdM b * n * e), (pdB b, pdM b * e)]
  | 5 => [(pdA b, n * n * e), (pdB b, n * e), (pdC b, pdM b * 12 * e), (pdD b, pdNobs b * pdObs b)]
  | _ => [(pdA b, n * n * e), (pdB b, n * e)]

/-- Elements of packed bytes. -/
def elems (e : Nat) (bs : List Byte) : List Nat := (List.range (bs.length / e)).map (fun i => fieldAt bs (e * i) e)

/-- A full matrix from upper rows. -/
def unpackUpper (n : Nat) (vs : List Nat) : List Nat :=
  let start (i : Nat) : Nat := i * n - i * (i - 1) / 2
  (List.range n).flatMap (fun i => (List.range n).map (fun j => if i ≤ j then vs.getD (start i + (j - i)) 0 else 0))

/-- Free numbers of a format. -/
def freeFp (F : Fp) (op : Nat) (args : List Nat) (n : Nat) : List Nat :=
  (List.range n).map (fun i =>
    if F.width = 32 then (Config.orrery op args i).toNat
    else (Config.orrery op args (2 * i)).toNat + 2 ^ 32 * (Config.orrery op args (2 * i + 1)).toNat)

/-- What a problem leaves: its outputs as elements, and the smallest ratio. -/
structure Solved where
  outs : List (List Nat)
  ratio : Nat
  deriving DecidableEq, Repr

/-- Symmetric matrix of H = JᵀJ. -/
def gram (p : Prec) (j : List Nat) (m n : Nat) (a b : Nat) : Nat :=
  csum p.a 0 ((List.range m).map (fun r => (mat j n r a, mat j n r b)))

/-- Damping of a diagonal element. -/
def damp (p : Prec) (diag : Bool) (lam h : Nat) : Nat := if diag then p.a.add h (p.a.mul lam h) else p.a.add h lam

def runChol (p : Prec) (r : Rule) (b : List Byte) (av bv : List Nat) : Except Fail Solved :=
  let n := pdN b
  match chol p r (sym av n) n with
  | .error e => .error e
  | .ok f =>
    match solveAll n (pdK b) (cholSolve p r f n) bv with
    | .error e => .error e
    | .ok x => .ok ⟨[x] ++ (if pdKeep b then [f.lower n] else []), f.ratio⟩

def runLdlt (p : Prec) (r : Rule) (b : List Byte) (av bv : List Nat) : Except Fail Solved :=
  let n := pdN b
  match ldlt p r (sym av n) n with
  | .error e => .error e
  | .ok f =>
    match solveAll n (pdK b) (ldltSolve p r f n) bv with
    | .error e => .error e
    | .ok x => .ok ⟨[x] ++ (if pdKeep b then [f.lower n, f.diag] else []), f.ratio⟩

/-- QR: the reflectors' arithmetic is free; the pivots of R310 are tested on the diagonal they leave. -/
def runQr (p : Prec) (r : Rule) (b : List Byte) (av bv : List Nat) : Except Fail Solved :=
  let n := pdN b
  let k := pdK b
  let w := freeFp p.a 30 (b.map (·.toNat) ++ av ++ bv) (n * n + n * k + k)
  let rm (i j : Nat) : Nat := if i ≤ j then p.st (mat w n i j) else 0
  let base := p.a.top ((List.range n).map (fun c => csum p.a 0 ((List.range (pdM b)).map (fun i => (mat av n i c, mat av n i c)))))
  match foldE (fun q i => (pivotCheck p r base (p.a.mul (p.a.abs (rm i i)) (p.a.abs (rm i i))) i).map (fun v => minRatio q v))
      noRatio (List.range n) with
  | .error e => .error e
  | .ok q =>
    let x := ((w.drop (n * n)).take (n * k)).map p.st
    let res := (w.drop (n * n + n * k)).map p.st
    match mapE (fun i => finite p r ((i % max 1 (n * k)) / max 1 k) ((x ++ res).getD i 0)) (List.range (n * k + k)) with
    | .error e => .error e
    | .ok _ =>
      let full := (List.range n).flatMap (fun i => (List.range n).map (fun j => if i = j then p.a.abs (rm i j) else rm i j))
      .ok ⟨[x, res] ++ (if pdKeep b then [full] else []), q⟩

def runLm (p : Prec) (r : Rule) (b : List Byte) (av bv : List Nat) : Except Fail Solved :=
  let n := pdN b
  let m := pdM b
  let lam := p.a.ofNum (fp32.decode (pdLambda b))
  let h (i j : Nat) : Nat := if i ≤ j then gram p av m n i j else gram p av m n j i
  let g (i : Nat) : Nat := csum p.a 0 ((List.range m).map (fun k => (mat av n k i, bv.getD k 0)))
  let h' (i j : Nat) : Nat := if i = j then damp p (pdDamp b) lam (h i i) else h i j
  match chol p r h' n with
  | .error e => .error e
  | .ok f =>
    match cholSolve p r f n (fun i => p.a.negate (g i)) with
    | .error e => .error e
    | .ok x =>
      let xg := csum p.a 0 ((List.range n).map (fun i => (p.a.negate (x.getD i 0), g i)))
      let hx (i : Nat) : Nat := csum p.a 0 ((List.range n).map (fun j => (h i j, x.getD j 0)))
      let xhx := csum p.a 0 ((List.range n).map (fun i => (x.getD i 0, hx i)))
      let half := p.a.div (p.a.ofInt 1) (p.a.ofInt 2)
      match finite p r 0 (p.st (p.a.sub xg (p.a.mul half xhx))) with
      | .error e => .error e
      | .ok pred => .ok ⟨[x, [pred]], f.ratio⟩

def runMarg (p : Prec) (r : Rule) (b : List Byte) (av bv : List Nat) : Except Fail Solved :=
  let n := pdN b
  let k := pdK b
  let s := sym av n
  match chol p r s k with
  | .error e => .error e
  | .ok f =>
    match mapE (fun c => cholSolve p r f k (fun i => s i (k + c))) (List.range (n - k)) with
    | .error e => .error e
    | .ok ys =>
      match cholSolve p r f k (fun i => bv.getD i 0) with
      | .error e => .error e
      | .ok yb =>
        let row (i : Nat) (y : List Nat) : List (Nat × Nat) := (List.range k).map (fun a => (p.a.negate (s a (k + i)), y.getD a 0))
        let h (i j : Nat) : Nat := p.st (csum p.a (s (k + i) (k + j)) (row i (ys.getD j [])))
        let idx := List.range (n - k)
        match mapE (fun i => mapE (fun j => finite p r (k + j) (if i ≤ j then h i j else h j i)) idx) idx with
        | .error e => .error e
        | .ok hm =>
          match mapE (fun i => finite p r (k + i) (p.st (csum p.a (bv.getD (k + i) 0) (row i yb)))) idx with
          | .error e => .error e
          | .ok bb => .ok ⟨[hm.flatMap id, bb], f.ratio⟩

/-- R304: the observation records are sorted and in range. -/
def obsOk (b dv : List Byte) : Bool :=
  let key (k : Nat) : Nat × Nat := (fieldAt dv (pdObs b * k + 4) 4, fieldAt dv (pdObs b * k) 2)
  (List.range (pdNobs b)).all (fun k =>
    decide ((key k).1 < pdM b ∧ (key k).2 < pdN b) &&
      (k == 0 || (let q := key (k - 1); decide (q.1 < (key k).1 ∨ (q.1 = (key k).1 ∧ q.2 < (key k).2)))))

/-- SCHUR_BA (R304): the point blocks and the camera system by the rules, the sums over points and observations free. -/
def runSchur (p : Prec) (tau : Nat) (b : List Byte) (av bv cv : List Nat) (dv : List Byte) : Except Fail Solved :=
  let m := 6 * pdN b
  let pts := pdM b
  let lam := p.a.ofNum (fp32.decode (pdLambda b))
  let anchored (i : Nat) : Bool := bitOf (pdAnchor b) (i / 6) && decide (i / 6 < 64)
  let args := b.map (·.toNat) ++ av ++ bv ++ cv ++ dv.map (·.toNat)
  let v (j r c : Nat) : Nat :=
    let h := sym ((cv.drop (12 * j)).take 9) 3 r c
    if r = c then damp p (pdDamp b) lam h else h
  match mapE (fun j => chol p ⟨tau, 1, 3 * j⟩ (v j) 3) (List.range pts) with
  | .error e => .error e
  | .ok fs =>
    let w := freeFp p.a 31 args (m * m + m)
    let s (i j : Nat) : Nat :=
      if anchored i || anchored j then (if i = j then p.a.ofInt 1 else 0) else sym w m i j
    let rhs (i : Nat) : Nat := if anchored i then 0 else p.a.negate (w.getD (m * m + i) 0)
    match chol p ⟨tau, 0, 0⟩ s m with
    | .error e => .error e
    | .ok f =>
      match cholSolve p ⟨tau, 0, 0⟩ f m rhs with
      | .error e => .error e
      | .ok dc =>
        let u := freeFp p.a 32 (args ++ dc) (3 * pts)
        match mapE (fun j => cholSolve p ⟨tau, 1, 3 * j⟩ (fs.getD j ⟨[], [], noRatio⟩) 3
            (fun k => p.a.negate (u.getD (3 * j + k) 0))) (List.range pts) with
        | .error e => .error e
        | .ok dp =>
          .ok ⟨[(List.range m).map (fun i => if anchored i then 0 else dc.getD i 0), dp.flatMap id],
            fs.foldl (fun q g => minRatio q g.ratio) f.ratio⟩

/-- Column of the first element that is not finite. -/
def badInput (p : Prec) (cols : Nat) (vs : List Nat) : Option Nat :=
  (List.range vs.length).findSome? (fun i => if p.e.isFin (vs.getD i 0) then none else some (i % max 1 cols))

/-- R303, R310: the problem on the bytes of its inputs. -/
def solveProblem (b : List Byte) (tau : Nat) (ins : List (List Byte)) : Except Fail Solved :=
  let p := precOf (pdPrec b)
  let e := p.bytes
  let n := if pdKind b = 5 then 6 * pdN b else pdN b
  let symm := decide (pdKind b ≠ 3 ∧ pdKind b ≠ 4)
  let a0 := elems e (ins.getD 0 [])
  let am := if symm then unpackUpper n a0 else a0
  let bm := elems e (ins.getD 1 [])
  let cm := elems e (ins.getD 2 [])
  let dv := ins.getD 3 []
  let wv := (List.range (pdNobs b)).flatMap (fun k => elems e (slice dv (pdObs b * k + 8) (18 * e)))
  let kb := if pdKind b ≤ 3 then pdK b else 1
  if pdKind b = 5 && !obsOk b dv then .error ⟨9, 0, 0⟩
  else
    match (((badInput p n am).orElse (fun _ => badInput p kb bm)).orElse (fun _ => badInput p 12 cm)).orElse (fun _ => badInput p 3 wv) with
    | some c => .error ⟨4, 0, c⟩
    | none =>
      let av := am.map p.load
      let bv := bm.map p.load
      let r : Rule := ⟨tau, 0, 0⟩
      let out := match pdKind b with
        | 1 => runChol p r b av bv
        | 2 => runLdlt p r b av bv
        | 3 => runQr p r b av bv
        | 4 => runLm p r b av bv
        | 5 => runSchur p tau b av bv (cm.map p.load) dv
        | _ => runMarg p r b av bv
      match out with
      | .error f => .error f
      | .ok s =>
        match (s.outs.flatMap id).find? (fun v => !p.e.isFin (p.elem v)) with
        | some _ => .error ⟨3, 0, 0⟩
        | none => .ok { s with outs := s.outs.map (fun o => o.map p.elem) }

/-- R311: the NaN that a failed problem writes. -/
def failNan (e payload : Nat) : Nat := if e = 4 then 0x7FC00000 + payload else 0x7FF8000000000000 + payload

end Sys2Proof.Machine
end

