-- ==== Sys2Proof/Machine/Index.lean ====
section
/-! DEFINITION. An index as bytes: its block, arena and root, product codes, distance tables, walks and list scans
(R317 to R327, R341, R342). -/

namespace Sys2Proof.Machine

/-! ### The index block (Table 12-1) -/

def ixKind (b : List Byte) : Nat := fieldAt b 0 1
def ixM (b : List Byte) : Nat := fieldAt b 1 1
def ixDegree (b : List Byte) : Nat := fieldAt b 2 1
def ixResume (b : List Byte) : Bool := bitOf (fieldAt b 3 1) 0
def ixSharded (b : List Byte) : Bool := bitOf (fieldAt b 3 1) 1
def ixId (b : List Byte) : Nat := fieldAt b 4 4
def ixDim (b : List Byte) : Nat := fieldAt b 8 2
def ixShards (b : List Byte) : Nat := fieldAt b 10 2
def ixCap (b : List Byte) : Nat := fieldAt b 12 4
def ixSpare (b : List Byte) : Nat := fieldAt b 16 4
def ixFreshMax (b : List Byte) : Nat := fieldAt b 20 2
def ixEfBuild (b : List Byte) : Nat := fieldAt b 22 2
def ixQscale (b : List Byte) : Nat := fieldAt b 24 4
def ixRoot (b : List Byte) : Nat := fieldAt b 32 8
def ixArena (b : List Byte) : Nat := fieldAt b 40 8
def ixArenaBytes (b : List Byte) : Nat := fieldAt b 48 8
def ixCodebook (b : List Byte) : Nat := fieldAt b 56 8
def ixNlist (b : List Byte) : Nat := fieldAt b 64 4
def ixListCap (b : List Byte) : Nat := fieldAt b 68 4
def ixCoarse (b : List Byte) : Nat := fieldAt b 72 8

/-- Elements of a sub-vector. -/
def ixSub (b : List Byte) : Nat := ixDim b / max 1 (ixM b)

/-- R317, R318: whether the block breaks Table 12-1 or lacks the device's own shard. -/
def ixBad (own : Nat) (b : List Byte) : Bool :=
  let one := decide (ixKind b = 1)
  !(decide (ixKind b ≤ 1) && decide (ixM b ∈ [8, 16, 32, 64]) &&
    (if one then decide (ixDegree b = 0) else decide (8 ≤ ixDegree b ∧ ixDegree b ≤ 32)) &&
    decide (fieldAt b 3 1 < 4) && decide (8 ≤ ixDim b ∧ ixDim b ≤ 1024 ∧ ixDim b % max 1 (ixM b) = 0) &&
    bitOf (ixShards b) own && (ixSharded b || decide (ixShards b = 2 ^ own)) &&
    decide (1 ≤ ixCap b ∧ ixCap b ≤ 2 ^ 28) && (!one || decide (ixSpare b % 65536 = 0)) &&
    (!one || decide (ixFreshMax b = 0)) && decide (16 ≤ ixEfBuild b ∧ ixEfBuild b ≤ 256) &&
    fp32.isFin (ixQscale b) && !fp32.isZero (ixQscale b) && !bitOf (ixQscale b) 31 && decide (fieldAt b 28 4 = 0) &&
    decide (tierOf (ixRoot b) = 2 ∧ ixRoot b % 4096 = 0 ∧ tierOf (ixArena b) = 2 ∧ ixArena b % 65536 = 0) &&
    (if one then decide (1 ≤ ixNlist b ∧ ixNlist b ≤ 65536 ∧ 1 ≤ ixListCap b ∧ ixListCap b ≤ 2 ^ 24)
     else decide (ixNlist b = 0 ∧ ixListCap b = 0 ∧ ixCoarse b = 0)) &&
    decide (leNat (slice b 80 48) = 0))

/-- L: bytes of a list slot (R322). -/
def ixL (b : List Byte) : Nat := 64 * ceilDiv (ixDegree b * 4) 64

/-- Bytes of a KIND 1 entry, and of the room that a list takes in the pool (R341). -/
def ixEntry (b : List Byte) : Nat := ixM b + 8
def ixExtent (b : List Byte) : Nat := ixListCap b * ixEntry b

/-- Sizes of the regions of Table 12-2, or of R341. -/
def ixSizes (b : List Byte) : List Nat :=
  if ixKind b = 1 then
    [ixNlist b * 32, 2 * ceilDiv (ixCap b) 8, ixNlist b * ixExtent b + ixSpare b]
  else
    [ixCap b * ixM b, ixCap b * 4, (ixCap b + ixSpare b) * ixL b, 2 * ixCap b * 4, 2 * ceilDiv (ixCap b) 8,
      2 * ixFreshMax b * 4]

/-- Base of region `n`: each starts at a 64 KiB boundary. -/
def ixBase (b : List Byte) (n : Nat) : Nat :=
  ((ixSizes b).take n).foldl (fun a k => a + roundUp k 65536) (ixArena b)

/-- Bytes that the regions take. -/
def ixNeed (b : List Byte) : Nat :=
  let s := ixSizes b
  ixBase b (s.length - 1) + s.getLastD 0 - ixArena b

def ixCode (b : List Byte) (i : Nat) : Nat := ixBase b 0 + i * ixM b
def ixTag (b : List Byte) (i : Nat) : Nat := ixBase b 1 + i * 4
def ixSlot (b : List Byte) (s : Nat) : Nat := ixBase b 2 + s * ixL b
def ixInd (b : List Byte) (bank i : Nat) : Nat := ixBase b 3 + (bank * ixCap b + i) * 4
/-- Byte of the tombstone bit of local ID `i`. -/
def ixTomb (b : List Byte) (bank i : Nat) : Nat :=
  ixBase b (if ixKind b = 1 then 1 else 4) + bank * ceilDiv (ixCap b) 8 + i / 8
def ixFresh (b : List Byte) (bank k : Nat) : Nat := ixBase b 5 + (bank * ixFreshMax b + k) * 4
/-- Directory entry of list `l` (R341). -/
def ixDir (b : List Byte) (l : Nat) : Nat := ixBase b 0 + 32 * l

/-! ### What the memory says of an index -/

def Mem.ixEntryId (m : Mem) (b : List Byte) (bank : Nat) : Nat := m.word (ixRoot b + 16 + 4 * bank) 4
def Mem.ixFreshN (m : Mem) (b : List Byte) (bank : Nat) : Nat := m.word (ixRoot b + 24 + 4 * bank) 4

def Mem.ixTombed (m : Mem) (b : List Byte) (bank i : Nat) : Bool := bitOf (m.word (ixTomb b bank i) 1) (i % 8)

def Mem.setTomb (m : Mem) (b : List Byte) (bank i : Nat) (v : Bool) : Mem :=
  let x := m.word (ixTomb b bank i) 1
  m.store (ixTomb b bank i) (leBytes 1 (putBits x (i % 8) (i % 8) (b2n v)))

/-- The fresh list of a bank. -/
def Mem.freshList (m : Mem) (b : List Byte) (bank : Nat) : List Nat :=
  if ixKind b = 1 then []
  else (List.range (min (m.ixFreshN b bank) (ixFreshMax b))).map (fun k => m.word (ixFresh b bank k) 4)

/-- List slot of a local ID, none for no list. -/
def Mem.ixListOf (m : Mem) (b : List Byte) (bank i : Nat) : Option Nat :=
  let v := m.word (ixInd b bank i) 4
  if v = noSlot then none else some v

/-- BASE and COUNT of list `l` (R341). -/
def Mem.ixDirOf (m : Mem) (b : List Byte) (bank l : Nat) : Nat × Nat :=
  (m.word (ixDir b l + 8 * bank) 8, m.word (ixDir b l + 16 + 4 * bank) 4)

/-- Local IDs filed in a bank: linked or fresh, or in a list. -/
def Mem.ixFiled (m : Mem) (b : List Byte) (bank : Nat) : List Nat :=
  if ixKind b = 1 then
    (List.range (ixNlist b)).flatMap (fun l =>
      let e := m.ixDirOf b bank l
      (List.range e.2).map (fun k => m.word (e.1 + k * ixEntry b + ixM b) 4))
  else
    let fr := m.freshList b bank
    (List.range (ixCap b)).filter (fun i => (m.ixListOf b bank i).isSome || decide (i ∈ fr))

/-- R338: live vectors of a bank. -/
def Mem.ixLive (m : Mem) (b : List Byte) (bank : Nat) : Nat :=
  ((m.ixFiled b bank).filter (fun i => !m.ixTombed b bank i)).length

/-- CHK of the root (R323). -/
def Mem.sealIx (m : Mem) (b : List Byte) : Mem :=
  m.store (ixRoot b + 4092) (leBytes 4 (crc32c (m.bytes (ixRoot b) 4092)))

/-! ### Codes and distance tables (R319, R320) -/

/-- R319: squared distance of two sub-vectors. -/
def sqDist (x y : List Nat) : Nat :=
  (List.range x.length).foldl (fun acc i =>
    let d := fp32.sub (x.getD i 0) (y.getD i 0)
    fp32.fma d d acc) 0

/-- Sub-vector `m` of a vector. -/
def subVec (b : List Byte) (v : List Nat) (m : Nat) : List Nat := (v.drop (m * ixSub b)).take (ixSub b)

/-- `n` f32 values from memory. -/
def Mem.f32s (m : Mem) (x n : Nat) : List Nat := (List.range n).map (fun i => m.word (x + 4 * i) 4)

/-- Centroid `c` of codebook `j`. -/
def Mem.centroid (m : Mem) (b : List Byte) (j c : Nat) : List Nat :=
  m.f32s (ixCodebook b + (j * 256 + c) * ixSub b * 4) (ixSub b)

/-- The least of f32 values, ties to the smaller index; with a NaN among them no rule states the choice. -/
def nearestOf (ds : List Nat) : Nat :=
  if ds.any (fun v => (fp32.decode v).isNan) then (Config.placeWord ds).toNat % max 1 ds.length
  else (minBy (fun i j => (fp32.decode (ds.getD i 0)).lt (fp32.decode (ds.getD j 0))) (List.range ds.length)).getD 0

/-- R319: the code of a vector. -/
def Mem.encode (m : Mem) (b : List Byte) (v : List Nat) : List Nat :=
  (List.range (ixM b)).map (fun j =>
    nearestOf ((List.range 256).map (fun c => sqDist (subVec b v j) (m.centroid b j c))))

/-- R341: the list in which a vector is filed. -/
def Mem.listFor (m : Mem) (b : List Byte) (v : List Nat) : Nat :=
  nearestOf ((List.range (ixNlist b)).map (fun l => sqDist v (m.f32s (ixCoarse b + l * ixDim b * 4) (ixDim b))))

/-- The vector that a code stands for. -/
def Mem.decoded (m : Mem) (b : List Byte) (code : List Nat) : List Nat :=
  (List.range (ixM b)).flatMap (fun j => m.centroid b j (code.getD j 0))

/-- A distance table: made from a vector (R320), or as the query carries it. -/
inductive Table where
  | vec (v : List Nat)
  | made (t : List Byte)
  deriving DecidableEq, Repr

/-- R320: an entry of the table. No rule states the entry of a NaN. -/
def Mem.tabEntry (m : Mem) (b : List Byte) (t : Table) (j c : Nat) : Nat :=
  match t with
  | .made bs => fieldAt bs (2 * (256 * j + c)) 2
  | .vec v =>
    let x := fp32.mul (sqDist (subVec b v j) (m.centroid b j c)) (ixQscale b)
    match fp32.decode x with
    | .nan => (Config.placeWord [j, c, x]).toNat % 65536
    | .inf _ => 65535
    | n => ((n.toIntConv.getD 0).toNat) |> min 65535

def Mem.codeOf (m : Mem) (b : List Byte) (i : Nat) : List Nat := (m.bytes (ixCode b i) (ixM b)).map (·.toNat)

/-- R320: distance of a code. -/
def Mem.distCode (m : Mem) (b : List Byte) (t : Table) (code : List Nat) : Nat :=
  sumBy (fun j => m.tabEntry b t j (code.getD j 0)) (List.range (ixM b))

/-! ### The walk (R325) -/

/-- R321: order of candidates, pairs of distance and global ID. -/
def nearer (x y : Nat × Nat) : Bool := decide (x.1 < y.1) || (decide (x.1 = y.1) && decide (x.2 < y.2))

/-- Insert into a bounded queue in the order of R321. -/
def offer (ef : Nat) (x : Nat × Nat) (l : List (Nat × Nat)) : List (Nat × Nat) :=
  match l.getLast? with
  | some y => if l.length < ef || nearer x y then (insertOrd nearer x l).take ef else l
  | none => [x].take ef

/-- What a walk sees of a graph index: the block, the shard, the bank, list slots that replace those of the bank, ENTRY,
the fresh list, and for a rebuild the IDs tombstoned in its snapshot. -/
structure Look where
  b : List Byte
  shard : Nat
  bank : Nat
  log : SMap Nat
  entry : Nat
  fresh : List Nat
  dead : Option (List Nat)
  deriving DecidableEq, Repr

/-- A walk: visited IDs, C, W, and what has been read, last first. -/
structure Walk where
  visited : List Nat
  c : List (Nat × Nat)
  w : List (Nat × Nat)
  reads : List (Nat × Nat)
  deriving DecidableEq, Repr

def Look.gid (k : Look) (i : Nat) : Nat := k.shard * 2 ^ 28 + i

/-- List slot of a local ID as the walk sees it. -/
def Look.slot (k : Look) (m : Mem) (i : Nat) : Option Nat :=
  match k.log.lookup i with
  | some s => if s = noSlot then none else some s
  | none => m.ixListOf k.b k.bank i

/-- Slots of the list of a local ID, all empty for no list. -/
def Look.list (k : Look) (m : Mem) (i : Nat) : List Nat :=
  match k.slot m i with
  | some s => (List.range (ixDegree k.b)).map (fun j => m.word (ixSlot k.b s + 4 * j) 4)
  | none => []

def Look.tombed (k : Look) (m : Mem) (i : Nat) : Bool :=
  match k.dead with
  | some l => decide (i ∈ l)
  | none => m.ixTombed k.b k.bank i

def Walk.read (s : Walk) (x n : Nat) : Walk := { s with reads := (x, n) :: s.reads }

def Walk.visit (s : Walk) (m : Mem) (k : Look) (t : Table) (ef n : Nat) : Walk :=
  let x := (m.distCode k.b t (m.codeOf k.b n), k.gid n)
  { visited := n :: s.visited
    c := offer ef x s.c
    w := if k.tombed m n then s.w else offer ef x s.w
    reads := (ixTomb k.b k.bank n, 1) :: (ixCode k.b n, ixM k.b) :: s.reads }

/-- Expand candidates until the walk ends; `left` is the budget. True when it ends on XMAX. -/
def Walk.go (m : Mem) (k : Look) (t : Table) (ef left : Nat) (s : Walk) : Walk × Bool :=
  match s.c with
  | [] => (s, false)
  | best :: rest =>
    if decide (s.w.length = ef) && (match s.w.getLast? with | some y => nearer y best | none => false) then (s, false)
    else
      match left with
      | 0 => (s, true)
      | n + 1 =>
        let i := best.2 % 2 ^ 28
        let s := { s with c := rest }.read (ixInd k.b k.bank i) 4
        let s := match k.slot m i with | some x => s.read (ixSlot k.b x) (ixDegree k.b * 4) | none => s
        let s := (k.list m i).foldl (fun s v => if v = noSlot ∨ v ∈ s.visited then s else s.visit m k t ef v) s
        Walk.go m k t ef n s

/-- R325: W in order, TRUNC, and what was read, in order. -/
def walk (m : Mem) (k : Look) (t : Table) (ef xmax : Nat) : List (Nat × Nat) × Bool × List (Nat × Nat) :=
  let s : Walk := ⟨[], [], [], []⟩
  let s := if k.entry = noSlot then s else s.visit m k t ef k.entry
  let r := Walk.go m k t ef xmax s
  let s := (List.range k.fresh.length).foldl (fun (s : Walk) j =>
    let f := k.fresh.getD j 0
    let s := (s.read (ixFresh k.b k.bank j) 4).read (ixTomb k.b k.bank f) 1
    if k.tombed m f then s
    else { s with w := offer ef (m.distCode k.b t (m.codeOf k.b f), k.gid f) s.w }.read (ixCode k.b f) (ixM k.b)) r.1
  (s.w, r.2, s.reads.reverse)

/-- What a query of a published bank sees. -/
def Mem.look (m : Mem) (b : List Byte) (shard bank : Nat) : Look :=
  ⟨b, shard, bank, [], m.ixEntryId b bank, m.freshList b bank, none⟩

/-! ### The list scan (R342) -/

/-- Lists that a vector probes. -/
def Mem.probes (m : Mem) (b : List Byte) (v : List Nat) (n : Nat) : List Nat :=
  let ds := (List.range (ixNlist b)).map (fun l => sqDist v (m.f32s (ixCoarse b + l * ixDim b * 4) (ixDim b)))
  if ds.any (fun x => (fp32.decode x).isNan) then
    (List.range n).map (fun i => (Config.placeWord (i :: ds)).toNat % max 1 (ixNlist b))
  else
    (sortBy (fun i j => (fp32.decode (ds.getD i 0)).lt (fp32.decode (ds.getD j 0))) (List.range (ixNlist b))).take n

/-- The first K entries of the probed lists, their tags, and what was read. -/
def scan (m : Mem) (b : List Byte) (shard bank : Nat) (v : List Nat) (nprobe k : Nat) :
    List Hit × List (Nat × Nat) :=
  let ls := sortBy (fun i j => decide (i < j)) (m.probes b v nprobe)
  let lists := ls.map (fun l => (l, m.ixDirOf b bank l))
  let hits := lists.flatMap (fun e =>
    ((List.range e.2.2).map (fun i => e.2.1 + i * ixEntry b)).filterMap (fun x =>
      let id := m.word (x + ixM b) 4
      if m.ixTombed b bank id then none
      else some (⟨m.distCode b (.vec v) ((m.bytes x (ixM b)).map (·.toNat)), shard * 2 ^ 28 + id, m.word (x + ixM b + 4) 4⟩ : Hit)))
  let reads := lists.flatMap (fun e =>
    (ixDir b e.1, 32) :: ((List.range e.2.2).flatMap (fun i =>
      let x := e.2.1 + i * ixEntry b
      [(x, ixEntry b), (ixTomb b bank (m.word (x + ixM b) 4), 1)])))
  ((sortBy (fun (x y : Hit) => nearer (x.dist, x.gid) (y.dist, y.gid)) hits).take k, reads)

/-! ### Query and result blocks (R328, R329) -/

/-- Bytes of a query body. -/
def queryBytes (b : List Byte) (form : Nat) : Nat := if form = 0 then 4 * ixDim b else 512 * ixM b

/-- RS: bytes of a result record. -/
def resultSize (k : Nat) : Nat := 64 * ceilDiv (16 + 16 * k) 64

/-- A query answered on an index at a bank: its list, TRUNC, what was read. -/
def answer (m : Mem) (b : List Byte) (shard bank : Nat) (q : Query) : List Hit × Bool × List (Nat × Nat) :=
  let v := wordsAt q.body 0 (ixDim b)
  let cb : List (Nat × Nat) := if q.form = 0 then [(ixCodebook b, 1024 * ixDim b)] else []
  if ixKind b = 1 then
    let r := scan m b shard bank v q.nprobe q.k
    (r.1, false, cb ++ (ixCoarse b, 4 * ixNlist b * ixDim b) :: r.2)
  else
    let r := walk m (m.look b shard bank) (if q.form = 0 then .vec v else .made q.body) q.ef q.xmax
    let best := r.1.take q.k
    (best.map (fun x => ⟨x.1, x.2, m.word (ixTag b (x.2 % 2 ^ 28)) 4⟩), r.2.1,
      cb ++ r.2.2 ++ best.map (fun x => (ixTag b (x.2 % 2 ^ 28), 4)))

end Sys2Proof.Machine
end

