-- ==== Sys2Proof/Machine/IngRows.lean ====
section
/-! DEFINITION. The commands of sensor ingest and the signal chain (06_sensor_ingest.md, 07_signal_chain.md). -/

namespace Sys2Proof.Machine

/-! ### Attach and detach (R177 to R180, R202, R203) -/

/-- The request `id` as handed on by the fetch, with opcode `opc`. -/
def Dev.fetched (d : Dev) (id opc : Nat) : Option Req :=
  match d.req id with
  | some r => if dOpc r.desc = opc ∧ r.st = .fetched then some r else none
  | none => none

/-- Status of a request that a read of its own argument ends. -/
def Dev.endAcc (d : Dev) (r : Req) (e : AccErr) : Dev :=
  d.finishReq r e.status.1 e.status.2.1 none 0 e.status.2.2

/-- The stream of an IMU port, whose landing descriptor is followed by a port block. -/
def isSpi (x : StreamSrc) : Bool := match x with | .spi _ => true | _ => false

/-- STREAM_ATTACH of request `r`. -/
def Dev.attach (d : Dev) (r : Req) : Dev :=
  let s := dArg1 r.desc % 65536
  let x := dArg0 r.desc
  let spi := isSpi (srcOf s)
  let n := if spi then 128 else 64
  let bad (d : Dev) (sub : Nat) : Dev := d.finishReq r 0x13 sub none 0 []
  if srcOf s = .bad then bad d 7
  else if !d.permits r.part (some r.ctx) x n false then bad d 8
  else if x % 64 ≠ 0 ∨ (tierOf x ≠ 1 ∧ tierOf x ≠ 2) ∨ d.inShare r.part x n = false then bad d 7
  else
    match d.readDev ⟨r.part, some r.ctx, none, privOf (dClass r.desc), 3, 0, none⟩ x n with
    | (d, .error e) => d.endAcc r e
    | (d, .ok bs) =>
      let ld := bs.take 64
      let pb := bs.drop 64
      if !ldReservedOk ld || (spi && !spiReservedOk pb) then bad d 5
      else if (d.bind s).isSome || !d.ldOk s r.part ld || (spi && !spiOk pb) || !d.limitsOk s ld then bad d 7
      else (d.addBind s (some r.ctx) r.part (d.ctx r.ctx).tb ld pb).finishReq r 0 0 none 0 []

/-- STREAM_ATTACH, R179. -/
def execStreamAttach (req : Nat) (s : State) : Host.Outcome State Fault Refusal :=
  onDev true (fun _ d => match d.fetched req 0x80 with | some r => d.attach r | none => d) s

/-- STREAM_DETACH of request `r`: CTX0 may name any stream (R101). -/
def Dev.detach (d : Dev) (r : Req) : Dev :=
  let s := dArg1 r.desc % 65536
  match d.bind s with
  | some b =>
    if r.ctx ≠ 0 ∧ b.ctx ≠ some r.ctx then d.finishReq r 0x13 7 none 0 []
    else
      let d := d.dropBind s
      let d := match b.ctx with
        | some c => if r.ctx = 0 ∧ c ≠ 0 then d.event c 0x02 0 0 (leBytes 2 s ++ [6]) 0 else d
        | none => d
      d.finishReq r 0 0 none 0 []
  | none => d.finishReq r 0x13 7 none 0 []

/-- STREAM_DETACH, R203. -/
def execStreamDetach (req : Nat) (s : State) : Host.Outcome State Fault Refusal :=
  onDev true (fun _ d => match d.fetched req 0x81 with | some r => d.detach r | none => d) s

/-! ### Camera ports -/

def Dev.csi (d : Dev) (p : Nat) : CsiPort := (d.ing.csi[p]?).getD CsiPort.reset

def Dev.setCsi (d : Dev) (p : Nat) (f : CsiPort → CsiPort) : Dev :=
  { d with ing := { d.ing with csi := modifyAt d.ing.csi p f } }

/-- Event 0x01 (Table 06-6). -/
def Dev.attachEvent (d : Dev) (port kind stream dcr bcr phy ident : Nat) : Dev :=
  d.event 0 0x01 0 0 (leBytes 1 (port % 16 + 16 * kind) ++ leBytes 2 stream ++ leBytes 1 dcr ++ leBytes 1 bcr ++ leBytes 1 phy)
    ident

def Dev.csiPhy (d : Dev) (p : Nat) : Nat := d.get R.CSI_CFG.LANES p 0 + 4 * d.get R.CSI_CFG.PHY p 0

/-- CSI_LP11_DETECT, R187; a link detection wakes the device from IDLE (R514). -/
def execCsiLp11Detect (p : Nat) (s : State) : Host.Outcome State Fault Refusal :=
  onDev (decide (p < 16)) (fun _ d =>
    if d.bit R.CSI_CFG.EN p 0 && !d.bit R.CSI_STAT.LINK p 0 then
      (((d.wakeIdle.set R.CSI_STAT.LINK p 0 1).set R.CSI_STAT.IDENT p 0 0).set R.CSI_STAT.I2C_ONLY p 0 0).setCsi p
        (fun c => { c with discovering := true, vcs := 0, ident := 0, bcr := 0, dcr := 0 })
    else d) s

/-- The bound streams of CSI port `p`. -/
def Dev.csiBinds (d : Dev) (p : Nat) : List Bind :=
  d.ing.binds.filter (fun b => match srcOf b.stream with | .csi q _ => decide (q = p) | _ => false)

/-- R204 cause 3: CHK_ID is set and the identity differs. -/
def Dev.idWrong (d : Dev) (p : Nat) (b : Bind) : Bool := ldChkId b.ld && decide ((d.csi p).ident ≠ ldExpect b.ld)

/-- R189: start the oldest waiting I3C transfer of a port. -/
def Dev.startI3c (d : Dev) (p : Nat) : Dev :=
  match (d.csi p).xfers with
  | x :: _ => if (d.csi p).discovering then d else d.emit (.i3c p x)
  | [] => d

/-- CSI_DISCOVERY_DONE, R187: the identity the controller read, if a target answered. -/
def execCsiDiscoveryDone (p : Nat) (ident : Option (BitVec 48 × Byte × Byte)) (s : State) :
    Host.Outcome State Fault Refusal :=
  onDev (decide (p < 16)) (fun _ d =>
    if (d.csi p).discovering then
      let id := if d.get R.CSI_CFG.I3C_MODE p 0 = 0 then ident else none
      let (i, b, c) := match id with | some (i, b, c) => (i.toNat, b.toNat, c.toNat) | none => (0, 0, 0)
      let d := d.setCsi p (fun x => { x with discovering := false, ident := i, bcr := b, dcr := c })
      let d := (d.set R.CSI_STAT.IDENT p 0 (b2n id.isSome)).set R.CSI_STAT.I2C_ONLY p 0 (b2n id.isNone)
      let d := d.attachEvent p 0 (16 * p) c b (d.csiPhy p) i
      let d := (d.csiBinds p).foldl (fun d x => if d.idWrong p x then d.loseStream x.stream 3 else d) d
      d.startI3c p
    else d) s

/-- Stamp, uncertainty, class and DEMOTED of a camera frame (Table 06-4). -/
def Dev.csiStamp (d : Dev) (p : Nat) (b : Bind) : Nat × Nat × Nat × Nat :=
  let t := d.tbVal b.tb
  let late : Nat × Nat × Nat × Nat := (t, 16, 1, b2n (d.bit R.CSI_CFG.TRIG_EN p 0))
  if d.bit R.CSI_CFG.STB_EN p 0 then
    match (d.csi p).strobe with
    | some ts => (ts.getD b.tb 0, 2, 0, 0)
    | none => late
  else if d.bit R.CSI_CFG.TRIG_EN p 0 then
    match d.tim.trigs[d.get R.CSI_CFG.TRIG_SEL p 0]? with
    | some g =>
      if g.base = b.tb ∧ 0 < g.emitted ∧ g.lastEdge ≤ t ∧ (t - g.lastEdge) * ldRate b.ld < 1000000000000 then
        (g.lastEdge, 2, 0, 0)
      else late
    | none => late
  else late

/-- A frame of an image stream starts (R181, R186): an open one ends first. -/
def Dev.startFrame (d : Dev) (s : Nat) (st : Nat × Nat × Nat × Nat) (rtp seqx : Nat) : Dev :=
  let d := d.endFrame s
  match d.bind s with
  | some b =>
    let t := d.tbVal b.tb
    let d := d.setBind s (fun b => { b with lastAt := t })
    let early := match b.lastFrame with
      | some l => decide ((t - l) * ldRate b.ld < 980000000000)
      | none => false
    if early then d.dropItem s
    else
      let d := d.openSlot s st.1 st.2.1 st.2.2.1 st.2.2.2 rtp seqx
      if ((d.bind s).bind (·.slot)).isSome then d.setBind s (fun b => { b with lastFrame := some t }) else d
  | none => d

/-- CSI_FRAME_START, R181. -/
def execCsiFrameStart (p vc : Nat) (s : State) : Host.Outcome State Fault Refusal :=
  onDev (decide (p < 16 ∧ vc < 16)) (fun _ d =>
    if d.bit R.CSI_CFG.EN p 0 && d.bit R.CSI_STAT.LINK p 0 then
      let c := d.csi p
      let d :=
        if 1 ≤ vc ∧ bitOf c.vcs vc = false then
          (d.setCsi p (fun c => { c with vcs := c.vcs + 2 ^ vc })).attachEvent p 0 (16 * p + vc) c.dcr c.bcr (d.csiPhy p) c.ident
        else d
      match d.bind (16 * p + vc) with
      | some b =>
        if d.idWrong p b then d.loseStream b.stream 3
        else d.startFrame b.stream (d.csiStamp p b) 0 0
      | none => d
    else d) s

/-- One image line of a CSI frame (R185, R186). -/
def Dev.csiLine (d : Dev) (s : Nat) (k : CsiPacket) : Dev :=
  match d.bind s with
  | some b =>
    match b.slot with
    | some o =>
      if ldHeight b.ld ≤ o.row then d.setOpen s (fun o => { o with flags := Nat.lor o.flags 2 })
      else if k.headerBad then d.setOpen s (fun o => { o.badRow o.row 1 16 with row := o.row + 1 })
      else
        let line := storeLine (ldFormat b.ld) k.payload
        let n := ldWidth b.ld * pixBytes (ldFormat b.ld)
        let d := (d.write (ingWho b.part) (b.slotAddr o.slot + 4096 + o.row * ldStride b.ld) (line.take n)).1
        d.setOpen s (fun o =>
          let o := if k.crcBad then o.badRow o.row 1 8 else o
          { o with
            row := o.row + 1
            rows := o.rows + 1
            flags := if n < line.length then Nat.lor o.flags 2 else o.flags })
    | none => d
  | none => d

/-- Embedded data of a frame (R182). -/
def Dev.csiEmbedded (d : Dev) (s : Nat) (k : CsiPacket) : Dev :=
  match d.bind s with
  | some b =>
    match b.slot with
    | some o =>
      let bs := k.payload.take (4032 - o.emb)
      let d := (d.write (ingWho b.part) (b.slotAddr o.slot + 64 + o.emb) bs).1
      d.setOpen s (fun o => { o with
        emb := o.emb + bs.length
        flags := if k.crcBad then Nat.lor o.flags 8 else o.flags })
    | none => d
  | none => d

/-- CSI_PACKET, R186. -/
def execCsiPacket (p : Nat) (k : CsiPacket) (s : State) : Host.Outcome State Fault Refusal :=
  onDev (decide (p < 16 ∧ k.vc < 16)) (fun _ d =>
    if d.bit R.CSI_CFG.EN p 0 && d.bit R.CSI_STAT.LINK p 0 then
      let st := 16 * p + k.vc
      let dt := match d.bind st with | some b => dtOf b.ld | none => 0
      if k.headerBad then
        let d := d.addSat R.CSI_STAT.HDR_ERR p 0 1
        if k.dt = dt then d.csiLine st k else d
      else
        let d := if k.crcBad then d.addSat R.CSI_STAT.CRC_ERR p 0 1 else d
        if k.dt = dt ∧ (d.bind st).isSome then d.csiLine st k
        else if k.dt = 0x12 then d.csiEmbedded st k
        else d.addSat R.CSI_STAT.OTHER_DT p 0 1
    else d) s

/-- CSI_FRAME_END, R186. -/
def execCsiFrameEnd (p vc : Nat) (s : State) : Host.Outcome State Fault Refusal :=
  onDev (decide (p < 16 ∧ vc < 16)) (fun _ d =>
    if d.bit R.CSI_CFG.EN p 0 && d.bit R.CSI_STAT.LINK p 0 then d.endFrame (16 * p + vc) else d) s

/-- CSI_STROBE_EDGE, R183: stamped on every base. -/
def execCsiStrobeEdge (p : Nat) (rising : Bool) (s : State) : Host.Outcome State Fault Refusal :=
  onDev (decide (p < 16)) (fun _ d =>
    if d.bit R.CSI_CFG.EN p 0 && d.bit R.CSI_CFG.STB_EN p 0 && (rising != d.bit R.CSI_CFG.STB_EDGE p 0) then
      d.setCsi p (fun c => { c with strobe := some ((List.range 4).map d.tbVal) })
    else d) s

/-- CSI_LINK_LOSS_TIMEOUT, R204 cause 1. -/
def execCsiLinkLossTimeout (p : Nat) (s : State) : Host.Outcome State Fault Refusal :=
  onDev (decide (p < 16)) (fun _ d =>
    let d := (d.set R.CSI_STAT.LINK p 0 0).setCsi p (fun c => { c with discovering := false })
    (d.csiBinds p).foldl (fun d b => d.loseStream b.stream 1) d) s

/-! ### Loss -/

/-- A mirrored stream that this device receives (R457). -/
def Dev.mirroredIn (d : Dev) (s : Nat) : Bool :=
  d.saf.chans.any (fun c => c.xcmp && (List.range 5).any (fun m =>
    decide (fieldAt c.blk (48 + 16 * m) 2 = s ∧ fieldAt c.blk (50 + 16 * m) 1 = 1)))

/-- STREAM_LOSS_TIMEOUT, R204 cause 2: nothing for LOSS_PERIODS periods. -/
def execStreamLossTimeout (stream : Nat) (s : State) : Host.Outcome State Fault Refusal :=
  onDev (decide (srcOf stream ≠ .bad)) (fun _ d =>
    match d.bind stream with
    | some b =>
      if b.lastAt + ldLoss b.ld * b.period ≤ d.tbVal b.tb then
        if d.mirroredIn stream then d.orreryLost stream
        else match srcOf stream with
          | .csi _ _ => d.loseStream stream 2
          | .eth _ => d.loseStream stream 2
          | .spi _ => d.loseStream stream 2
          | _ => d
      else d
    | none => d) s

/-! ### Networked streams (R190 to R193) -/

/-- An Ethernet frame ends: rows without all their bytes are missing. -/
def Dev.endEth (d : Dev) (s : Nat) (short : Bool) : Dev :=
  match d.bind s with
  | some b =>
    match b.slot with
    | some o =>
      let n := ldWidth b.ld * pixBytes (ldFormat b.ld)
      let have_ (r : Nat) : Nat := sumBy (fun (x : Nat × Nat) => if x.1 = r then x.2 else 0) o.got
      let missing := below (ldHeight b.ld) (fun r => decide (have_ r < n))
      let d := missing.foldl (fun d r => d.setOpen s (fun o => o.badRow r 1 0)) d
      let d := d.setOpen s (fun o => { o with
        row := ldHeight b.ld
        rows := (below (ldHeight b.ld) (fun r => decide (0 < have_ r))).length
        flags := Nat.lor o.flags (if short then 4 else 0) })
      d.endFrame s
    | none => d
  | none => d

/-- Stamp of an Ethernet frame (Table 06-4). -/
def Dev.ethStamp (d : Dev) (n : Nat) (b : Bind) (k : RtpPacket) : Nat × Nat × Nat × Nat :=
  let ext := d.get R.ETH_SM_CFG.EXT_ID n 0
  let st := cellOf d.regs (R.TB_STATUS.STATE.off b.tb 0) % 4
  let act := if d.bit R.TB_STATUS.ACTIVE b.tb 0 then d.get R.TB_CFG.SHD_SLOT b.tb 0 else d.get R.TB_CFG.PRI_SLOT b.tb 0
  let src := match k.ext with | some e => if 1 ≤ ext ∧ ext ≤ 14 ∧ e.1 = ext then some e.2.toNat else none | none => none
  match src with
  | some t =>
    if st = 2 ∧ act = d.get R.ETH_SM_CFG.SLOT n 0 then (t, 4, 0, 0)
    else (d.tbVal b.tb, 1000 * d.get R.ETH_SM_CFG.SPREAD n 0, 1, 1)
  | none => (d.tbVal b.tb, 1000 * d.get R.ETH_SM_CFG.SPREAD n 0, 1, b2n (decide (ext ≠ 0)))

/-- Place the line segments of a packet. -/
def Dev.ethSegs (d : Dev) (s : Nat) (b : Bind) (segs : List (Nat × Nat × List Byte)) : Dev :=
  segs.foldl (fun d g =>
    let w := pixBytes (ldFormat b.ld)
    let n := ldWidth b.ld * w
    let bytes := if ldFormat b.ld = 6 then swap16 g.2.2 else g.2.2
    let fit := bytes.take (n - g.2.1 * w)
    if g.1 < ldHeight b.ld ∧ g.2.1 * w < n then
      let d := match (d.bind s).bind (·.slot) with
        | some o => (d.write (ingWho b.part) (b.slotAddr o.slot + 4096 + g.1 * ldStride b.ld + g.2.1 * w) fit).1
        | none => d
      d.setOpen s (fun o => { o with
        got := o.got ++ [(g.1, fit.length)]
        flags := if fit.length < bytes.length then Nat.lor o.flags 2 else o.flags })
    else d.setOpen s (fun o => { o with flags := Nat.lor o.flags 2 })) d

/-- A packet of stream entry `n` (R190 to R192). -/
def Dev.ethPacket (d : Dev) (n : Nat) (k : RtpPacket) : Dev :=
  let s := 0x100 + n
  let d :=
    if n ∈ d.ing.ethSeen then d
    else ({ d with ing := { d.ing with ethSeen := d.ing.ethSeen ++ [n] } }).attachEvent (n / 32) 1 s 0 0 0 0
  match d.bind s with
  | none => d
  | some b =>
    let rtp := k.rtpTime.toNat
    let newer := match b.lastRtp with
      | some l => decide (0 < toSigned 32 (rtp + 2 ^ 32 - l))
      | none => true
    let d :=
      if newer then
        let d := d.endEth s true
        let d := d.startFrame s (d.ethStamp n b k) rtp k.seqExt.toNat
        d.setBind s (fun b => { b with lastRtp := some rtp })
      else d
    match (d.bind s).bind (·.slot) with
    | some o =>
      if o.rtp ≠ rtp then d
      else
        let gap := decide (o.nextSeq ≠ k.seqExt.toNat)
        let d := d.setOpen s (fun o => { o with
          flags := if gap then Nat.lor o.flags 16 else o.flags
          nextSeq := (k.seqExt.toNat + 1) % 2 ^ 32 })
        let d := d.ethSegs s b k.segs
        if k.marker then d.endEth s false else d
    | none => d

/-- ETH_STREAM_PACKET, R191. A packet is taken as a sign that the port's link is up. -/
def execEthStreamPacket (k : RtpPacket) (s : State) : Host.Outcome State Fault Refusal :=
  onDev (decide (k.port < 2)) (fun _ d =>
    let d := { d with ing := { d.ing with ethUp := modifyAt d.ing.ethUp k.port (fun _ => true) } }
    match (List.range 64).find? (fun n =>
        d.bit R.ETH_SM_CFG.EN n 0 && decide (d.get R.ETH_SM_CFG.PORT n 0 = k.port ∧ n / 32 = k.port ∧
          d.get R.ETH_SM_CFG.UDP_PORT n 0 = k.udpPort) &&
        (d.bit R.ETH_SM_CFG.SSRC_ANY n 0 || decide (d.get R.ETH_SM_SSRC.SSRC n 0 = k.ssrc.toNat))) with
    | some n => d.ethPacket n k
    | none => { d with ing := { d.ing with ethDrops := modifyAt d.ing.ethDrops k.port (· + 1) } }) s

/-- ETH_LINK_DOWN, R204 cause 1 and R167. -/
def execEthLinkDown (e : Nat) (s : State) : Host.Outcome State Fault Refusal :=
  onDev (decide (e < 2)) (fun _ d =>
    let d := { d with ing := { d.ing with ethUp := modifyAt d.ing.ethUp e (fun _ => false) } }
    let bs := d.ing.binds.filter (fun b => match srcOf b.stream with | .eth n => decide (n / 32 = e) | _ => false)
    let d := bs.foldl (fun d b => d.loseStream b.stream 1) d
    (below 8 (fun i => d.bit R.PTP_SLOT.EN i 0 && decide (d.get R.PTP_SLOT.PORT i 0 = e))).foldl (fun d i => d.faultSlot i) d) s

/-- ETH_FRAME_DROPPED, R193. -/
def execEthFrameDropped (e : Nat) (s : State) : Host.Outcome State Fault Refusal :=
  onDev (decide (e < 2)) (fun _ d => { d with ing := { d.ing with ethDrops := modifyAt d.ing.ethDrops e (· + 1) } }) s

/-! ### IMU ports (R195 to R197) -/

def Dev.spi (d : Dev) (i : Nat) : SpiPort := (d.ing.spi[i]?).getD ⟨none, none, 0⟩

def Dev.setSpi (d : Dev) (i : Nat) (f : SpiPort → SpiPort) : Dev :=
  { d with ing := { d.ing with spi := modifyAt d.ing.spi i f } }

/-- SPI_DRDY_EDGE, R195. -/
def execSpiDrdyEdge (i : Nat) (rising : Bool) (s : State) : Host.Outcome State Fault Refusal :=
  onDev (decide (i < 8)) (fun _ d =>
    match d.bind (0x200 + i) with
    | some b =>
      if d.bit R.SPI_CFG.EN i 0 && !d.bit R.SPI_CFG.POLLED i 0 && (rising != d.bit R.SPI_CFG.DRDY_EDGE i 0) then
        let t := d.tbVal b.tb
        let d := d.setBind b.stream (fun b => { b with lastAt := t })
        match (d.spi i).running, (d.spi i).waiting with
        | none, _ => (d.setSpi i (fun x => { x with running := some t })).emit (.spi i)
        | some _, none => d.setSpi i (fun x => { x with waiting := some t })
        | some _, some _ => d.setBind b.stream (fun b => { b with dropped := min 65535 (b.dropped + 1) })
      else d
    | none => d) s

/-- SPI_POLL_TIMER, R195: due every RATE ns of the stream's base. -/
def execSpiPollTimer (i : Nat) (s : State) : Host.Outcome State Fault Refusal :=
  onDev (decide (i < 8)) (fun _ d =>
    match d.bind (0x200 + i) with
    | some b =>
      let t := d.tbVal b.tb
      if d.bit R.SPI_CFG.EN i 0 && d.bit R.SPI_CFG.POLLED i 0 && decide ((d.spi i).lastPoll + ldRate b.ld ≤ t) then
        let d := d.setBind b.stream (fun b => { b with lastAt := t })
        let d := d.setSpi i (fun x => { x with lastPoll := t })
        match (d.spi i).running with
        | none => (d.setSpi i (fun x => { x with running := some t })).emit (.spi i)
        | some _ => d
      else d
    | none => d) s

/-- Channel values of a transaction's read bytes (Table 06-7). -/
def spiChannels (pb bytes : List Byte) : List Int :=
  (List.range (fieldAt pb 2 1)).map (fun j =>
    let o := fieldAt pb (8 + 2 * j) 1
    let f := fieldAt pb (9 + 2 * j) 1
    let w := f % 4 + 1
    let bs := slice bytes o w
    let v := if bitOf f 3 then leNat bs.reverse else leNat bs
    if bitOf f 2 then toSigned (8 * w) v else toSigned 32 v)

/-- A 64-byte record of R197. -/
def sampleRecord (stamp cls flags unc : Nat) (vals : List Int) : List Byte :=
  leBytes 8 stamp ++ leBytes 1 cls ++ leBytes 1 flags ++ [0, 0] ++ leBytes 4 unc ++
    slice ((vals.take 12).flatMap (fun v => leBytes 4 (ofSigned 32 v))) 0 48

/-- SPI_TRANSACTION_DONE, R197: a record, or an input of the lane; the waiting edge starts the next transaction. -/
def execSpiTransactionDone (i : Nat) (bytes : List Byte) (s : State) : Host.Outcome State Fault Refusal :=
  onDev (decide (i < 8)) (fun _ d =>
    match (d.spi i).running with
    | none => d
    | some t =>
      let d := match d.bind (0x200 + i) with
        | some b =>
          let polled := d.bit R.SPI_CFG.POLLED i 0
          let cls := b2n polled
          let unc := if polled then ldRate b.ld else 2
          let vs := spiChannels b.spi (bytes.take (fieldAt b.spi 1 1))
          if ldFormat b.ld = 0x12 then
            d.setLane (16 + i) (fun x => { x with fifo := x.fifo ++ [LaneIn.mk cls unc vs] })
          else
            ((d.addRecord b.stream t unc cls (sampleRecord t cls 0 unc vs)).orrerySample b.stream b.tb t false
              (vs.map (ofSigned 32))).restoreStream b.stream
        | none => d
      let w := (d.spi i).waiting
      let d := d.setSpi i (fun x => { x with running := w, waiting := none })
      if w.isSome then d.emit (.spi i) else d) s

/-! ### Encoders (R198, R199) -/

def Dev.enc (d : Dev) (i : Nat) : EncPort :=
  (d.ing.enc[i]?).getD ⟨0, false, false, false, false, false, false, 0, none, 0⟩

def Dev.setEnc (d : Dev) (i : Nat) (f : EncPort → EncPort) : Dev :=
  { d with ing := { d.ing with enc := modifyAt d.ing.enc i f } }

/-- Position of an A–B state in the forward order 00, 10, 11, 01. -/
def quadPos (a b : Bool) : Nat :=
  match a, b with
  | false, false => 0
  | true, false => 1
  | true, true => 2
  | false, true => 3

/-- Reload at an A–B state of 00 after an index edge. -/
def EncPort.reload (e : EncPort) : EncPort :=
  if e.armed && !e.a && !e.b then { e with count := 0, armed := false, suspect := false, indexSeen := true } else e

/-- ENCODER_EDGE, R198: the new levels of A and B. -/
def execEncoderEdge (i : Nat) (a b : Bool) (s : State) : Host.Outcome State Fault Refusal :=
  onDev (decide (i < 8)) (fun _ d =>
    let e := d.enc i
    let soon := match e.lastEdgeNow with
      | some t => decide (d.now < t + 40 + 10 * d.get R.ENC_CFG.FILTER i 0)
      | none => false
    if !d.bit R.ENC_CFG.EN i 0 || (a == e.a && b == e.b) || soon then d
    else
      let tb := match d.bind (0x210 + i) with | some x => x.tb | none => 0
      let step : Int :=
        let k := (quadPos a b + 4 - quadPos e.a e.b) % 4
        let f : Int := if k = 1 then 1 else if k = 3 then -1 else 0
        if d.bit R.ENC_CFG.DIR i 0 then -f else f
      d.setEnc i (fun e => ({ e with
        count := toSigned 32 (ofSigned 32 (e.count + step))
        a := a, b := b
        suspect := e.suspect || (a != e.a && b != e.b)
        fault := false
        lastEdge := d.tbVal tb
        lastEdgeNow := some d.now }).reload)) s

/-- ENCODER_INDEX, R199. -/
def execEncoderIndex (i : Nat) (s : State) : Host.Outcome State Fault Refusal :=
  onDev (decide (i < 8)) (fun _ d =>
    if d.bit R.ENC_CFG.EN i 0 && d.bit R.ENC_CFG.INDEX_EN i 0 then d.setEnc i (fun e => ({ e with armed := true }).reload)
    else d) s

/-- ENCODER_LATCH_TIMER, R199: due every RATE ns of the stream's base. -/
def execEncoderLatchTimer (i : Nat) (s : State) : Host.Outcome State Fault Refusal :=
  onDev (decide (i < 8)) (fun _ d =>
    match d.bind (0x210 + i) with
    | some b =>
      let t := d.tbVal b.tb
      let e := d.enc i
      if d.bit R.ENC_CFG.EN i 0 && decide (e.lastLatch + ldRate b.ld ≤ t) then
        let flags := b2n e.suspect + 2 * b2n e.fault + 4 * b2n e.indexSeen
        let rec_ := leBytes 8 t ++ leBytes 4 (ofSigned 32 e.count) ++ leBytes 4 flags ++ leBytes 8 e.lastEdge ++ List.replicate 8 0
        let d := d.setEnc i (fun e => { e with lastLatch := t })
        let d := (d.addRecord b.stream t 2 0 rec_).orrerySample b.stream b.tb t e.fault [ofSigned 32 e.count]
        if e.fault then d else d.restoreStream b.stream
      else d
    | none => d) s

/-- ENCODER_FAULT, R204 cause 5. -/
def execEncoderFault (i : Nat) (s : State) : Host.Outcome State Fault Refusal :=
  onDev (decide (i < 8)) (fun _ d =>
    if d.bit R.ENC_CFG.EN i 0 then
      (d.setEnc i (fun e => { e with suspect := true, fault := true })).loseStream (0x210 + i) 5
    else d) s

/-! ### Sigma-delta inputs (R206) -/

def Dev.breakSdi (d : Dev) (c cause : Nat) : Dev :=
  ((d.set R.SDI_STAT.RECOVERING c 0 0).setLane c (fun x => { x with broken := true })).loseStream (0x220 + c) cause

/-- SDI_CLOCK_LOSS, R206. -/
def execSdiClockLoss (c : Nat) (s : State) : Host.Outcome State Fault Refusal :=
  onDev (decide (c < 16)) (fun _ d =>
    if d.bit R.SDI_CFG.EN c 0 then (d.set R.SDI_STAT.CLK_LOSS c 0 1).breakSdi c 1 else d) s

/-- SDI_DATA_STUCK, R206. -/
def execSdiDataStuck (c : Nat) (s : State) : Host.Outcome State Fault Refusal :=
  onDev (decide (c < 16)) (fun _ d =>
    if d.bit R.SDI_CFG.EN c 0 then (d.set R.SDI_STAT.STUCK c 0 1).breakSdi c 4 else d) s

/-- SDI_RECOVERY, R206: the lane restarts into an INVALID settling span. -/
def execSdiRecovery (c : Nat) (s : State) : Host.Outcome State Fault Refusal :=
  onDev (decide (c < 16)) (fun _ d =>
    if (d.lane c).broken then
      let d := ((d.set R.SDI_STAT.CLK_LOSS c 0 0).set R.SDI_STAT.STUCK c 0 0).set R.SDI_STAT.RECOVERING c 0 0
      let held := (d.lane c).syncHeld
      let d := d.setLane c (fun x => { x with broken := false, syncHeld := false })
      if (d.lane c).active then d.restartLane c true held else d
    else d) s

/-- SLOT_CLOSE_TIMEOUT, R180: an instant more than one orbit after the slot's first record. -/
def execSlotCloseTimeout (stream : Nat) (s : State) : Host.Outcome State Fault Refusal :=
  onDev (decide (srcOf stream ≠ .bad)) (fun _ d =>
    match d.bind stream with
    | some b =>
      match b.slot with
      | some o =>
        if !isImage (ldFormat b.ld) && decide (o.since + (d.pcal b.part).orbit < d.tbVal b.tb) then d.closeSlot stream else d
      | none => d
    | none => d) s

/-! ### Signal chain (R212 to R220) -/

/-- SGC_SYNC, R218. -/
def execSgcSync (s : State) : Host.Outcome State Fault Refusal :=
  onDev true (fun _ d => if d.hostUp then d.wakeIdle.syncLanes else d) s

/-- Feed a lane with the inputs since its last output. -/
def Dev.feedLane (d : Dev) (l : Nat) (c : LaneCfg) (bits : List Bool) : Dev :=
  if c.sdi then
    if (d.lane l).broken then d else d.setLane l (fun x => bits.foldl (fun x b => x.bitStep c b) x)
  else
    d.setLane l (fun x =>
      let y := x.fifo.foldl (fun x r =>
        x.firStep c ((List.range c.nch).map (fun i => (r.vals.getD i 0, false))) (r.cls, r.unc)) x
      { y with fifo := [] })

/-- The output of a lane at its next grid instant (R212, R220). -/
def Dev.gridOutput (d : Dev) (l : Nat) (bits : List Bool) : Dev :=
  match d.ing.binds.find? (fun b => decide (laneOf b.stream = some l)) with
  | some b =>
    let x := d.lane l
    if !x.active || !d.bit R.SGC_LANE_CFG.EN l 0 || decide (d.tbVal b.tb < x.next) then d
    else
      let c := d.laneNow l
      let d := d.feedLane l c bits
      let x := d.lane l
      let outs := x.resample c.nch d.freeIx
      let d := { d with freeIx := d.freeIx + 1 }
      let clip := outs.any (·.2)
      let inv := x.broken || (x.invalid && decide (0 < x.settle))
      let flags := b2n (decide (0 < x.settle) && !inv) + 2 * b2n inv + 4 * b2n clip + 8 * b2n x.synced
      let cls := if c.sdi then 0 else maxBy (·.1) x.quals
      let unc := if c.sdi then (if d.bit R.SDI_CFG.CLK_OUT l 0 then 2 else 10) else maxBy (·.2) x.quals + 2
      let vals := outs.map (·.1)
      let left := if x.broken then 0 else x.settle
      let rec_ := leBytes 8 x.next ++ leBytes 1 cls ++ leBytes 1 flags ++ leBytes 1 left ++ leBytes 1 c.nch ++ leBytes 4 unc ++
        slice (vals.flatMap (fun v => leBytes 4 (ofSigned 32 v))) 0 48
      let d := if clip then d.set R.SGC_LANE_STAT.CLIPPED l 0 1 else d
      let d := d.setLane l (fun y => { y with
        next := y.next + c.period
        settle := if y.broken then y.settle else y.settle - 1
        invalid := y.invalid && decide (1 < y.settle)
        synced := false })
      let d := (d.addRecord b.stream x.next unc cls rec_).orrerySample b.stream b.tb x.next (decide (flags % 4 ≠ 0))
        (vals.map (ofSigned 32))
      if inv then d else d.restoreStream b.stream
  | none => d

/-- SGC_GRID_OUTPUT, R220: `bits` are the modulator bits since the lane's last output; an IMU lane has its records already. -/
def execSgcGridOutput (lane : Nat) (bits : List Bool) (s : State) : Host.Outcome State Fault Refusal :=
  onDev (decide (lane < 24)) (fun _ d => d.gridOutput lane bits) s

end Sys2Proof.Machine
end

