-- ==== Sys2Proof/Machine/MapRows.lean ====
section
/-! DEFINITION. The commands of the map stores: commits handed in, retirement, the journal, render and lift
(10_map_stores.md). -/

namespace Sys2Proof.Machine

/-! ### MAP_COMMIT -/

def Dev.dropMaint (d : Dev) (k : MaintKind) : Dev :=
  { d with cal := { d.cal with maint := d.cal.maint.filter (fun x => decide (x.kind ≠ k)) } }

/-- Queue a maintenance request (R57). -/
def Dev.queueMaint (d : Dev) (r : Req) : Dev :=
  let d := d.setReq r.id (fun r => { r with st := .queued })
  { d with cal := { d.cal with maint := d.cal.maint ++ [⟨r.part, .hostReq r.id, (d.pcal r.part).orbits⟩] } }

/-- R57: a single step of the request fits in one orbit's reserve at every level in play (R78). -/
def Dev.stepFits (d : Dev) (r : Req) : Bool :=
  d.capLevels.all (fun c => decide ((Config.maintStep (dOpc r.desc) (dLen r.desc) c).toNat ≤ d.reserveCost r.part))

/-- R57: a validated maintenance request is queued, or rejected with reason 0x1. -/
def Dev.takeMaint (d : Dev) (r : Req) : Dev :=
  if d.stepFits r then d.queueMaint r
  else
    (d.count 3 3 1 (hostOcc r.ctx (dClass r.desc))).finishReq r 0x10
      (0x1000 + (Config.maintUnit (dOpc r.desc) (dLen r.desc)).toNat) none 0 []

def Req.who (r : Req) (blk : Nat) : Who := ⟨r.part, some r.ctx, none, privOf (dClass r.desc), blk, 0, none⟩

/-- MAP_COMMIT of request `r` (R284). -/
def Dev.mapCommit (d : Dev) (r : Req) : Dev :=
  let bad (d : Dev) (sub : Nat) : Dev := d.finishReq r 0x13 sub none 0 []
  match d.map with
  | none => bad d 0xC
  | some m =>
    if m.part ≠ r.part then bad d 0xC
    else if !d.inShare r.part (dArg0 r.desc) (dLen r.desc) then bad d 8
    else
      match d.readDev (r.who 6) (dArg0 r.desc) (dLen r.desc) with
      | (d, .error e) => d.endAcc r e
      | (d, .ok bs) => if (opsOf m.blk bs).isNone then bad d 7 else d.takeMaint r

/-- MAP_COMMIT, R284. -/
def execMapCommit (req : Nat) (s : State) : Host.Outcome State Fault Refusal :=
  onDev true (fun _ d => match d.fetched req 0x50 with | some r => d.mapCommit r | none => d) s

/-- The commit that is next, device-wide and in fetch order (R287). -/
def Dev.nextCommit (d : Dev) : Option Req :=
  minBy (fun x y => decide (x.id < y.id)) (d.reqs.filter (fun r => decide (dOpc r.desc = 0x50 ∧ r.st = .queued)))

/-- A commit may start: none waits for publication, and the epoch before the published one has retired (R283). -/
def Dev.commitReady (d : Dev) : Bool :=
  match d.map with
  | some m => m.staged.isNone && decide (m.retired = m.epoch)
  | none => false

/-- Where op `k` begins in its delta block. -/
def opOffset (ops : List (List Byte)) (k : Nat) : Nat := 16 + sumBy List.length (ops.take k)

/-- R287: check the commit and write it, or end it. -/
def Dev.applyCommit (d : Dev) (r : Req) : Dev :=
  match d.map with
  | none => d
  | some m =>
    let d := d.dropMaint (.hostReq r.id)
    match d.readDev (r.who 6) (dArg0 r.desc) (dLen r.desc) with
    | (d, .error e) => d.endAcc r e
    | (d, .ok bs) =>
      match opsOf m.blk bs with
      | none => d.finishReq r 0x13 7 none 0 []
      | some ops =>
        let c : MapCtx := ⟨m.blk, d.shard, m.epoch, m.retired, dArg1 r.desc % 2 ^ 32⟩
        let w := runOps c d.mem m.others ops
        if w.bad || w.conflict then d.finishReq r 0x13 7 none 0 []
        else if w.short ≠ 0 then d.finishReq r 0x11 2 none 0 (leBytes 7 w.short)
        else
          match d.readRanges (r.who 6) w.reads with
          | (d, .error e) => d.endAcc r e
          | (d, .ok _) =>
            let mem := w.ids.foldl (fun (mm : Mem) (p : Nat × Nat) =>
              mm.store (dArg0 r.desc + opOffset ops p.1 + 4) (leBytes 4 p.2)) w.mem
            let d := { d with mem := mem }.setReq r.id (fun r => { r with st := .publishing })
            d.setMap (fun m => { m with staged := some (r.id, ops) })

/-- R288, R296: without authority the commits that wait end PARTITIONED, one per step. -/
def Dev.stepCommit (d : Dev) : Dev :=
  if d.hasAuthority then
    match d.nextCommit with
    | some r => if d.commitReady then d.applyCommit r else d
    | none => d
  else
    let open_ := d.reqs.filter (fun r => decide (dOpc r.desc = 0x50 ∧ (r.st = .queued ∨ r.st = .publishing)))
    match minBy (fun x y => decide (x.id < y.id)) open_ with
    | some r => (d.setMap (fun m => { m with staged := none })).refuseCommit r
    | none => d

/-- MAP_EPOCH_RETIRE, R283. Not due while an older run is open or HOLD_US runs. -/
def execMapEpochRetire (s : State) : Host.Outcome State Fault Refusal :=
  onDev true (fun _ d => d.retireMap) s

/-- MAP_JOURNAL_CLR, R296. -/
def execMapJournalClr (s : State) : Host.Outcome State Fault Refusal :=
  onDev true (fun _ d => if d.hostUp then d.wakeIdle.clearJournal else d) s

/-! ### Render and lift (R290 to R293) -/

/-- What a projection rests on: the state at the frame's instant under R254, the chain, the deflection, the source. -/
def Dev.camArgs (d : Dev) (t src stamp : Nat) : List Nat :=
  match d.track t with
  | none => []
  | some k =>
    let s := (k.srcs[src]?).getD ⟨[], [], none, false, 0, 0, none, []⟩
    let tm := ((stamp : Int) - s.delayNs).toNat
    let h := k.hist.find? (fun h => decide (h.at_ ≤ tm))
    tm :: ((h.map (·.at_)).getD k.grid) :: (((h.map (·.nom)).getD k.nom) ++ k.delta ++ k.chain.map (·.toNat) ++
      k.srcs.flatMap (fun x => x.vals) ++ s.blk.map (·.toNat) ++ s.model.map (·.toNat))

/-- Image size of a camera source (R249). -/
def Dev.camSize (d : Dev) (t src : Nat) : Nat × Nat :=
  match (d.track t).bind (fun k => k.srcs[src]?) with
  | some s => (fieldAt s.model 4 2, fieldAt s.model 6 2)
  | none => (0, 0)

/-- 0.01 m as FP32. -/
def nearLimit : Nat := fp32.div (fp32.ofInt 1) (fp32.ofInt 100)

/-- R256: pixel in Q12.4 and depth of a map point, if it is visible. -/
def projectPoint (args : List Nat) (size : Nat × Nat) (pos : List Nat) : Option (Nat × Nat × Nat) :=
  let w := freeNums 10 (args ++ pos) 3
  let x := w.getD 0 0 % 65536
  let y := w.getD 1 0 % 65536
  let z := w.getD 2 0
  if fpGe z nearLimit && decide (x < 16 * size.1 ∧ y < 16 * size.2) then some (x, y, z) else none

/-- The first image input and its header. -/
def frameOfTask (ins : List InData) : Option InData := ins.find? (fun v => !v.ref.isMap && !v.ref.isList)

/-- The map that a task's map root names, with the bank of the run's epoch (R281). -/
def Dev.taskMap (d : Dev) (r : Run) : Option (List Byte × Nat) := d.map.map (fun m => (m.blk, r.epoch % 2))

/-- Bytes of the view list or delta as the one band of an output. -/
def listOut (parts : List (Nat × List Byte)) (count : Nat) (limit : Bool) : BandOut := ⟨parts, none, count, limit⟩

/-- R290. -/
def renderLmEngine : Engine := fun d w r t ins _ _ =>
  let p := t.par
  match d.readDev w (fieldAt p 8 8) (4 * fieldAt p 2 1) with
  | (d, .error e) => (d, .error e)
  | (d, .ok list) =>
    match d.taskMap r, frameOfTask ins with
    | some (b, bank), some f =>
      let m := d.mem
      let kfs := ((List.range (fieldAt p 2 1)).map (fun k => fieldAt list (4 * k) 4)).filterMap (fun id =>
        if id / 2 ^ 28 = d.shard ∧ id % 2 ^ 28 < mbKfCap b then (m.slotOf b 0 bank (id % 2 ^ 28)).map (fun s => (id, s)) else none)
      let feats := kfs.flatMap (fun k => (List.range (m.word (mbRec b 0 k.2 + 20) 2)).map (fun n => (k.1, mbFeat b k.2 + 64 * n)))
      let lms := feats.filterMap (fun f =>
        let id := m.word (f.2 + 8) 4
        if id / 2 ^ 28 = d.shard ∧ id % 2 ^ 28 < mbLmCap b then (m.slotOf b 1 bank (id % 2 ^ 28)).map (fun s => (f.1, id, s)) else none)
      let once := lms.foldl (fun (acc : List (Nat × Nat × Nat)) x => if acc.any (fun y => decide (y.2.1 = x.2.1)) then acc else acc ++ [x]) []
      let live := once.filter (fun x => !m.tomb b 1 x.2.2)
      let rs := kfs.map (fun k => (mbRec b 0 k.2, 256)) ++ feats.map (fun f => (f.2, 64)) ++ once.map (fun x => (mbRec b 1 x.2.2, 64))
      match d.readRanges w rs with
      | (d, .error e) => (d, .error e)
      | (d, .ok _) =>
        let args := d.camArgs (fieldAt p 0 1) (fieldAt p 1 1) (fieldAt f.hdr 8 8)
        let size := d.camSize (fieldAt p 0 1) (fieldAt p 1 1)
        let recs := live.filterMap (fun x =>
          let pos := (List.range 3).map (fun i => m.word (mbRec b 1 x.2.2 + 8 + 4 * i) 4)
          (projectPoint args size pos).map (fun v =>
            leBytes 4 x.2.1 ++ leBytes 2 v.1 ++ leBytes 2 v.2.1 ++ leBytes 4 v.2.2 ++ leBytes 4 x.1 ++ List.replicate 16 0))
        let room := (sfBytes (d.descAt (refDa (t.out 0))) - 0x1000) / 32
        (d, .ok [listOut [(0x1000, (recs.take room).flatMap id)] (min recs.length room) (decide (room < recs.length))])
    | _, _ => (d, .ok [listOut [] 0 false])

/-- Addresses of the entries that a lookup passes. -/
def Mem.probed (m : Mem) (b : List Byte) (v : Vt) (key s fuel : Nat) : List (Nat × Nat) :=
  match fuel with
  | 0 => []
  | k + 1 =>
    let pg := m.page b v.pt (s / 8192)
    let here := if pg = noSlot then [] else [(mbBase b 6 + 65536 * pg + 8 * (s % 8192), 8)]
    let e := m.vox b v s
    if e = voxEmpty ∨ voxKey e = key then here else here ++ m.probed b v key ((s + 1) % 2 ^ v.n) k

/-- Voxel key of signed indices; none outside 13 bits. -/
def voxKeyOf (w : List Nat) : Option Nat :=
  let i (n : Nat) : Int := toSigned 32 (w.getD n 0)
  if (List.range 3).all (fun n => decide (-4096 ≤ i n ∧ i n < 4096)) then
    some (ofSigned 13 (i 0) * 2 ^ 26 + ofSigned 13 (i 1) * 2 ^ 13 + ofSigned 13 (i 2))
  else none

/-- Voxels that the ray of a pixel passes, one voxel edge at a time up to RANGE_MM. -/
def rayKeys (args : List Nat) (b : List Byte) (range x y : Nat) : List Nat :=
  (List.range (range / (10 * max 1 (mbVoxCm b)))).filterMap (fun n => voxKeyOf (freeNums 11 (args ++ [x, y, n]) 3))

/-- R291: the entry that a ray meets. -/
def rayHit (m : Mem) (b : List Byte) (v : Vt) (thresh : Int) (keys : List Nat) : Option Nat :=
  keys.findSome? (fun k =>
    match m.find b v k with
    | (true, some s) => let e := m.vox b v s; if thresh ≤ toSigned 8 (e / 65536) ∧ voxTomb e = false then some e else none
    | _ => none)

/-- R291. -/
def renderVoxEngine : Engine := fun d w r t ins _ _ =>
  let p := t.par
  match d.taskMap r, frameOfTask ins with
  | some (b, bank), some f =>
    let m := d.mem
    let v : Vt := ⟨m.ptSel b bank, m.tabLog2 b bank⟩
    let args := d.camArgs (fieldAt p 0 1) (fieldAt p 1 1) (fieldAt f.hdr 8 8)
    let s0 := d.descAt (refDa (t.out 0))
    let thresh := toSigned 8 (fieldAt p 2 1)
    let keys (x y : Nat) : List Nat := rayKeys args b (fieldAt p 4 4) x y
    let rs := (List.range (sfHeight s0)).flatMap (fun y => (List.range (sfWidth s0)).flatMap (fun x =>
      (keys x y).flatMap (fun k => m.probed b v k (voxHome k v.n) (2 ^ v.n))))
    match d.readRanges w rs with
    | (d, .error e) => (d, .error e)
    | (d, .ok _) =>
      (d, .ok (t.outs.map (fun o =>
        let s := d.descAt (refDa o)
        let row (y : Nat) : List Byte := (List.range (sfWidth s)).flatMap (fun x =>
          match rayHit m b v thresh (keys x y) with
          | some e => if outRole o = 0 then leBytes 2 (visNum 12 (args ++ [voxKey e]) 0) else leBytes 1 e
          | none => if outRole o = 0 then [0, 0] else [0])
        listOut (rowParts (sfStride s) 0 ((List.range (sfHeight s)).map row)) 0 false)))
  | _, _ => (d, .ok (t.outs.map (fun _ => listOut [] 0 false)))

/-- Sum entries of the same key, saturating, in ascending key order. -/
def sumVox (es : List (Nat × Int)) : List (Nat × Int) :=
  es.foldl (fun acc e =>
    if acc.any (fun x => decide (x.1 = e.1)) then
      acc.map (fun x => if x.1 = e.1 then (x.1, max (-127) (min 127 (x.2 + e.2))) else x)
    else insertOrd (fun a b => decide (a.1 < b.1)) e acc) []

/-- R292: the pixel's entries: HIT, then MISS nearest the point first. -/
def liftPixel (args b : List Byte × List Nat) (p : List Byte) (x y depth : Nat) : List (Nat × Int) :=
  let hit := (voxKeyOf (freeNums 13 (args.2 ++ b.1.map (·.toNat) ++ [x, y, depth]) 3)).map (fun k => (k, toSigned 8 (fieldAt p 2 1)))
  let miss := (List.range (fieldAt p 4 1)).filterMap (fun n =>
    let w := freeNums 14 (args.2 ++ b.1.map (·.toNat) ++ [x, y, depth, n]) 4
    if w.getD 3 0 = 0 then none else (voxKeyOf w).map (fun k => (k, toSigned 8 (fieldAt p 3 1))))
  hit.toList ++ miss

/-- R292: entries of the whole frame as far as the buffer holds them; LIMIT when a pixel's do not fit. -/
def liftAll (room : Nat) (ps : List (List (Nat × Int))) : List (Nat × Int) × Bool :=
  ps.foldl (fun (a : List (Nat × Int) × Bool) es =>
    es.foldl (fun (a : List (Nat × Int) × Bool) e =>
      if a.1.any (fun x => decide (x.1 = e.1)) ∨ a.1.length < room then (sumVox (a.1 ++ [e]), a.2) else (a.1, true)) a) ([], false)

def liftVoxEngine : Engine := fun d _ _ t ins _ _ =>
  let p := t.par
  match frameOfTask ins, d.map with
  | some f, some m =>
    let dep := f.img
    let lab := ins.find? (fun v => decide (refRole v.ref.ref = 1))
    let args := d.camArgs (fieldAt p 0 1) (fieldAt p 1 1) (fieldAt f.hdr 8 8)
    let step := max 1 (fieldAt p 12 1)
    let skip (x y : Nat) : Bool := match lab with
      | some l => let c := l.img.px x y; decide (c < 32) && bitOf (fieldAt p 16 4) c
      | none => false
    let px := (List.range (ceilDiv dep.h step)).flatMap (fun v => (List.range (ceilDiv dep.w step)).filterMap (fun u =>
      let x := u * step
      let y := v * step
      let z := dep.px x y
      if z ≠ 0 ∧ z ≤ 4 * fieldAt p 8 4 ∧ y < dep.miss ∧ skip x y = false then
        some (liftPixel ([], args) (m.blk, []) p x y z) else none))
    let room := (sfBytes (d.descAt (refDa (t.out 0))) - 0x1000 - 32) / 8
    let r := liftAll room px
    let body := r.1.flatMap (fun e => leBytes 8 (voxEntry e.1 false (ofSigned 8 e.2) (if e.2 = toSigned 8 (fieldAt p 2 1) then 1 else 0) 0))
    let n := r.1.length
    let blk := leBytes 4 (if n = 0 then 0 else 1) ++ List.replicate 12 0 ++
      (if n = 0 then [] else leBytes 4 0x21 ++ leBytes 4 n ++ leBytes 4 (16 + 8 * n) ++ leBytes 4 0 ++ body)
    (d, .ok [⟨[(0x1000, blk)], if dep.miss < dep.h then some dep.miss else none, n, r.2⟩])
  | _, _ => (d, .ok [listOut [] 0 false])

/-- R293. -/
def liftFeatEngine : Engine := fun d w _ t ins _ _ =>
  let p := t.par
  let trk := fieldAt p 0 1
  let src := fieldAt p 1 1
  match ins.find? (fun v => v.ref.isList), frameOfTask ins, d.track trk with
  | some l, some f, some k =>
    let n := fieldAt l.hdr 32 4
    match d.readDev w (fieldAt p 8 8) (4 * n) with
    | (d, .error e) => (d, .error e)
    | (d, .ok match_) =>
      let stamp := fieldAt f.hdr 8 8
      let args := d.camArgs trk src stamp
      let dep := f.img
      let rows := List.range n
      let feat (i : Nat) : List Byte := slice l.bytes (64 * i) 64
      let known (i : Nat) : Nat := fieldAt match_ (4 * i) 4
      let depth (i : Nat) : Nat :=
        let x := (convDiv (fieldAt (feat i) 0 2 : Nat) 16).toNat
        let y := (convDiv (fieldAt (feat i) 2 2 : Nat) 16).toNat
        if x < dep.w ∧ y < dep.h ∧ y < dep.miss then dep.px x y else 0
      let isNew (i : Nat) : Bool := decide (known i = noSlot ∧ depth i ≠ 0)
      let news := rows.filter isNew
      let pose := freeNums 17 args 28
      let noise := (((k.srcs[src]?).map (fun s => fieldAt s.blk 24 4))).getD 0
      let fs := rows.flatMap (fun i =>
        let id := if isNew i then 0xFFFE0000 + (news.takeWhile (fun j => decide (j < i))).length else known i
        putSlice (feat i) 8 (leBytes 4 id))
      let kf := leBytes 4 noSlot ++ leBytes 4 0 ++ leBytes 8 stamp ++ slice f.hdr 0 2 ++ leBytes 1 trk ++ [0] ++ leBytes 2 n ++ [0, 0] ++
        pose.flatMap (leBytes 4) ++ leBytes 4 noSlot ++ (List.replicate 8 (leBytes 4 noSlot)).flatMap id ++ List.replicate 16 0 ++
        List.replicate 68 0
      let kfOp := leBytes 4 0x01 ++ leBytes 4 noSlot ++ leBytes 4 (16 + 256 + 64 * n) ++ leBytes 4 0 ++ kf ++ fs
      let lmOp (i : Nat) : List Byte :=
        let pos := freeNums 15 (args ++ [fieldAt (feat i) 0 4, depth i]) 3
        leBytes 4 0x11 ++ leBytes 4 noSlot ++ leBytes 4 80 ++ leBytes 4 0 ++ leBytes 4 noSlot ++ leBytes 4 0 ++ pos.flatMap (leBytes 4) ++
          leBytes 4 (visNum 16 [noise, depth i] 0) ++ slice (feat i) 16 32 ++ leBytes 4 0xFFFE0000 ++ leBytes 2 1 ++ [0] ++ slice (feat i) 5 1
      let blk := leBytes 4 (1 + news.length) ++ List.replicate 12 0 ++ kfOp ++ news.flatMap lmOp
      (d, .ok [⟨[(0x1000, blk)], none, 1 + news.length, false⟩])
  | _, _, _ => (d, .ok [listOut [] 0 false])

/-- RENDER_LM, R290, on an FTE island; `ue` is an uncorrectable error in its store (R234). -/
def execRenderLm (island : Nat) (ue : Bool) (s : State) : Host.Outcome State Fault Refusal :=
  onDev (decide (island < 4)) (fun _ d => d.unitStep renderLmEngine 6 island ue) s

/-- RENDER_VOX, R291. -/
def execRenderVox (island : Nat) (ue : Bool) (s : State) : Host.Outcome State Fault Refusal :=
  onDev (decide (island < 4)) (fun _ d => d.unitStep renderVoxEngine 7 island ue) s

/-- LIFT_VOX, R292. -/
def execLiftVox (island : Nat) (ue : Bool) (s : State) : Host.Outcome State Fault Refusal :=
  onDev (decide (island < 4)) (fun _ d => d.unitStep liftVoxEngine 8 island ue) s

/-- LIFT_FEAT, R293. -/
def execLiftFeat (island : Nat) (ue : Bool) (s : State) : Host.Outcome State Fault Refusal :=
  onDev (decide (island < 4)) (fun _ d => d.unitStep liftFeatEngine 9 island ue) s

end Sys2Proof.Machine
end

