-- ==== Sys2Proof/Machine/Pse.lean ====
section
/-! DEFINITION. The place-search engine: indices, changes, epochs, rebuilds, searches, shards (12_place_search.md). -/

namespace Sys2Proof.Machine

/-! ### Indices -/

def Dev.idx (d : Dev) (slot : Nat) : Option Idx := d.idxs.find? (fun x => decide (x.slot = slot))

/-- A loaded index by its identifier. -/
def Dev.idxById (d : Dev) (id : Nat) : Option Idx := d.idxs.find? (fun x => decide (ixId x.blk = id))

/-- R348: CTX0 and the context that loaded the index's workbook. -/
def Dev.idxCtxs (d : Dev) (x : Idx) : List Nat := 0 :: (((d.wb x.wb).bind (·.ctx)).toList)

/-- The request changes or publishes index `x`. -/
def Req.onIdx (r : Req) (x : Idx) : Bool :=
  decide (dOpc r.desc ∈ [0x41, 0x42, 0x43] ∧ dArg1 r.desc % 2 ^ 32 = ixId x.blk)

/-- PSE_INDEX_STAT and its neighbours. -/
def Dev.syncIdx (d : Dev) (slot : Nat) : Dev :=
  match d.idx slot with
  | none => d.clearIdxRegs slot
  | some x =>
    let bank := x.epoch % 2
    let pend := d.reqs.any (fun r => decide (r.st = .publishing) && r.onIdx x)
    let d := (((d.set R.PSE_INDEX_STAT.VALID slot 0 1).set R.PSE_INDEX_STAT.KIND slot 0 (ixKind x.blk)).set
      R.PSE_INDEX_STAT.REBUILD slot 0 (b2n x.rebuild.isSome)).set R.PSE_INDEX_STAT.PUB_PEND slot 0 (b2n pend)
    let d := ((d.set R.PSE_INDEX_STAT.PART slot 0 x.part).set R.PSE_INDEX_STAT.SHARD slot 0 d.shard).set
      R.PSE_INDEX_STAT.SHARDS slot 0 (ixShards x.blk)
    let d := ((d.set R.PSE_INDEX_ID.INDEX_ID slot 0 (ixId x.blk)).set R.PSE_INDEX_EPOCH.EPOCH slot 0 x.epoch).set
      R.PSE_INDEX_LIVE.LIVE slot 0 (d.mem.word (ixRoot x.blk + 32) 4)
    d.set R.PSE_INDEX_FRESH.FRESH slot 0 (if ixKind x.blk = 1 then 0 else d.mem.ixFreshN x.blk bank)

def Dev.setIdx (d : Dev) (slot : Nat) (f : Idx → Idx) : Dev :=
  let xs : List Idx := d.idxs.map (fun (x : Idx) => if x.slot = slot then f x else x)
  { d with idxs := xs }.syncIdx slot

/-! ### Changes (R334 to R336) -/

/-- Local IDs taken: filed, staged, or unlinked and not yet free. -/
def Idx.taken (x : Idx) (m : Mem) : List Nat :=
  dedup (m.ixFiled x.blk (x.epoch % 2) ++ x.ins.map (·.id) ++ (x.gone.filter (fun g => !g.2)).map (·.1))

/-- R338: free local IDs, ascending. -/
def Idx.freeIds (x : Idx) (m : Mem) : List Nat :=
  let t := x.taken m
  (List.range (ixCap x.blk)).filter (fun i => decide (i ∉ t))

def Idx.next (x : Idx) : Nat := nextEpoch x.epoch % 2

/-- Write the fresh list of a bank. -/
def Mem.putFresh (m : Mem) (b : List Byte) (bank : Nat) (ids : List Nat) : Mem :=
  let ids := sortBy (fun i j => decide (i < j)) ids
  (m.store (ixFresh b bank 0) (ids.flatMap (leBytes 4))).store (ixRoot b + 24 + 4 * bank) (leBytes 4 ids.length)

/-- R341: append an entry to a list of a bank. -/
def Mem.appendEntry (m : Mem) (b : List Byte) (bank l : Nat) (e : List Byte) : Mem :=
  let x := m.ixDirOf b bank l
  (m.store (x.1 + x.2 * ixEntry b) e).store (ixDir b l + 16 + 4 * bank) (leBytes 4 (x.2 + 1))

/-- R336: the staging bank: the published bank with the staged changes. -/
def Idx.stage (x : Idx) (m : Mem) (ins : List Staged) (del : List (Nat × Nat)) : Mem :=
  let b := x.blk
  let c := x.epoch % 2
  let n := x.next
  let m := m.store (ixTomb b n 0) (m.bytes (ixTomb b c 0) (ceilDiv (ixCap b) 8))
  let m :=
    if ixKind b = 1 then
      let m := (List.range (ixNlist b)).foldl (fun m l =>
        let e := m.ixDirOf b c l
        (m.store (ixDir b l + 8 * n) (leBytes 8 e.1)).store (ixDir b l + 16 + 4 * n) (leBytes 4 e.2)) m
      ins.foldl (fun m s => m.appendEntry b n s.list s.entry) m
    else
      let m := m.store (ixInd b n 0) (m.bytes (ixInd b c 0) (4 * ixCap b))
      let m := m.store (ixRoot b + 16 + 4 * n) (leBytes 4 (m.ixEntryId b c))
      m.putFresh b n (m.freshList b c ++ ins.map (·.id))
  let m := ins.foldl (fun m s => m.setTomb b n s.id false) m
  del.foldl (fun m s => m.setTomb b n s.2 true) m

/-- Use of CAP, FRESH_MAX and LIST_SPARE in percent (Table 12-8). -/
def Idx.use (x : Idx) (m : Mem) : List (Nat × Nat) :=
  let pc (u c : Nat) : Nat := 100 * u / max 1 c
  [(0, pc (x.taken m).length (ixCap x.blk)),
    (1, if ixKind x.blk = 1 then 0 else pc (m.ixFreshN x.blk (x.epoch % 2) + x.ins.length) (ixFreshMax x.blk)),
    (2, match x.rebuild with
      | some r => if ixKind x.blk = 1 then pc (r.log.length * ixExtent x.blk) (ixSpare x.blk)
        else pc (r.log.filter (fun e => decide (e.2 ≠ noSlot))).length (ixSpare x.blk)
      | none => 0)]

/-- R348: INDEX_CAPACITY on reaching 90 percent. -/
def Dev.warnIdx (d : Dev) (slot : Nat) : Dev :=
  match d.idx slot with
  | none => d
  | some x =>
    let now := (x.use d.mem).filter (fun u => decide (90 ≤ u.2))
    let new_ := now.filter (fun u => decide (u.1 ∉ x.full))
    let d := new_.foldl (fun d u =>
      (d.set R.PSE_INDEX_STAT.CAP_WARN slot 0 1).eventAll (d.idxCtxs x) 0x51 0 0
        (leBytes 1 slot ++ leBytes 1 u.1 ++ leBytes 1 (min 255 u.2)) 0) d
    d.setIdx slot (fun x => { x with full := now.map (·.1) })

/-- A vector block's record: bytes of a record, its place. -/
def recStride (b : List Byte) (form : Nat) : Nat := roundUp (8 + if form = 0 then 4 * ixDim b else ixM b) 64

/-- R334: the block's header is right and its records lie in LEN. -/
def vectorsOk (b : List Byte) (bs : List Byte) : Bool :=
  let nv := fieldAt bs 0 4
  let form := fieldAt bs 4 1
  decide (16 ≤ bs.length ∧ 1 ≤ nv ∧ nv ≤ 65536 ∧ form ≤ 1 ∧ leNat (slice bs 5 11) = 0) &&
    decide (64 + (nv - 1) * recStride b form + 8 + (if form = 0 then 4 * ixDim b else ixM b) ≤ bs.length)

/-- R335: the list's header is right. -/
def idsOk (bs : List Byte) : Bool :=
  let n := fieldAt bs 0 4
  decide (4 ≤ bs.length ∧ 1 ≤ n ∧ n ≤ 65536 ∧ 4 + 4 * n ≤ bs.length)

/-- R334: vectors of the block that find no room. -/
def Idx.shortfall (x : Idx) (m : Mem) (lists : List Nat) : Nat :=
  let b := x.blk
  let n := lists.length
  let cap := n - (x.freeIds m).length
  if ixKind b = 1 then
    let per := sumBy (fun l =>
      let have_ := (m.ixDirOf b (x.epoch % 2) l).2 + (x.ins.filter (fun s => decide (s.list = l))).length
      have_ + (lists.filter (fun k => decide (k = l))).length - max have_ (ixListCap b)) (dedup lists)
    max cap per
  else max cap (m.ixFreshN b (x.epoch % 2) + x.ins.length + n - ixFreshMax b)

/-- INSERT of request `r` on index `x`, from its block `bs` (R334). -/
def Dev.insertVectors (d : Dev) (r : Req) (x : Idx) (bs : List Byte) : Dev :=
  let b := x.blk
  let nv := fieldAt bs 0 4
  let form := fieldAt bs 4 1
  let at_ (j : Nat) : Nat := 64 + j * recStride b form
  let codes := (List.range nv).map (fun j =>
    if form = 1 then (slice bs (at_ j + 8) (ixM b)).map (·.toNat) else d.mem.encode b (wordsAt bs (at_ j + 8) (ixDim b)))
  let lists := (List.range nv).map (fun j =>
    if ixKind b = 1 then d.mem.listFor b (if form = 1 then d.mem.decoded b (codes.getD j []) else wordsAt bs (at_ j + 8) (ixDim b))
    else 0)
  let short := x.shortfall d.mem lists
  if short ≠ 0 then d.finishReq r 0x11 2 none 0 (leBytes 7 short)
  else
    let ids := (x.freeIds d.mem).take nv
    let tag (j : Nat) : Nat := fieldAt bs (at_ j + 4) 4
    let code (j : Nat) : List Byte := (codes.getD j []).map (BitVec.ofNat 8)
    let ins := (List.range nv).map (fun j =>
      (⟨r.ctx, ids.getD j 0, lists.getD j 0,
        if ixKind b = 1 then code j ++ leBytes 4 (ids.getD j 0) ++ leBytes 4 (tag j) else []⟩ : Staged))
    let m := if ixKind b = 1 then d.mem
      else (List.range nv).foldl (fun (m : Mem) j =>
        (m.store (ixCode b (ids.getD j 0)) (code j)).store (ixTag b (ids.getD j 0)) (leBytes 4 (tag j))) d.mem
    match ({ d with mem := m }).writeList (r.who 10)
        ((List.range nv).map (fun j => (dArg0 r.desc + at_ j, leBytes 4 (d.shard * 2 ^ 28 + ids.getD j 0)))) with
    | (d, some e) => d.endAcc r e
    | (d, none) =>
      let d := { d with mem := x.stage d.mem (x.ins ++ ins) x.del }
      let d := d.setIdx x.slot (fun x => { x with ins := x.ins ++ ins })
      let d := d.finishReq r 0 0 none 0 (leBytes 4 (d.shard * 2 ^ 28 + ids.getD 0 0))
      d.warnIdx x.slot

/-- DELETE of request `r` on index `x`, from its list `bs` (R335). -/
def Dev.deleteVectors (d : Dev) (r : Req) (x : Idx) (bs : List Byte) : Dev :=
  let ids := wordsAt bs 4 (fieldAt bs 0 4)
  let known := dedup (d.mem.ixFiled x.blk (x.epoch % 2) ++ x.ins.map (·.id))
  let ok := ids.all (fun g =>
    decide (g / 2 ^ 28 = d.shard) && decide (g % 2 ^ 28 ∈ known) && !d.mem.ixTombed x.blk (x.epoch % 2) (g % 2 ^ 28))
  if !ok then d.finishReq r 0x13 7 none 0 []
  else
    let old := x.del.map (·.2)
    let new_ := (dedup (ids.map (fun g => g % 2 ^ 28))).filter (fun i => decide (i ∉ old))
    let del := x.del ++ new_.map (fun i => (r.ctx, i))
    let d := { d with mem := x.stage d.mem x.ins del }
    (d.setIdx x.slot (fun x => { x with del := del })).finishReq r 0 0 none 0 []

/-- The change that is next on an index, in fetch order. -/
def Dev.nextChange (d : Dev) (x : Idx) : Option Req :=
  minBy (fun p q => decide (p.id < q.id))
    (d.reqs.filter (fun r => r.onIdx x && decide (dOpc r.desc ≠ 0x43 ∧ r.st = .queued)))

/-- R336: a change may be written: epoch e − 1 has retired. -/
def Idx.writable (x : Idx) : Bool := decide (x.retired = x.epoch)

/-- One queued INSERT or DELETE is applied. -/
def Dev.applyChange (d : Dev) (slot : Nat) (h : HostView) : Dev :=
  match d.idx slot with
  | none => d
  | some x =>
    match d.nextChange x with
    | none => d
    | some r =>
      if !x.writable then d
      else
        let d := d.dropMaint (.hostReq r.id)
        match d.read (r.who 10) h (dArg0 r.desc) (dLen r.desc) with
        | (d, .error e) => (d.endAcc r e).settleWaits (d.reqs.length + 1)
        | (d, .ok bs) =>
          let d :=
            if dOpc r.desc = 0x41 then
              (if vectorsOk x.blk bs then d.insertVectors r x bs else d.finishReq r 0x13 7 none 0 [])
            else (if idsOk bs then d.deleteVectors r x bs else d.finishReq r 0x13 7 none 0 [])
          d.settleWaits (d.reqs.length + 1)

/-- R338: the unpublished changes of the contexts for which `p` holds are never reached. -/
def Dev.dropStaged (d : Dev) (p : Nat → Bool) : Dev :=
  d.idxs.foldl (fun d x =>
    if x.ins.any (fun s => p s.ctx) || x.del.any (fun s => p s.1) then
      let ins := x.ins.filter (fun s => !p s.ctx)
      let gone := (x.ins.filter (fun s => p s.ctx)).map (·.id)
      let del := x.del.filter (fun s => !p s.1 && decide (s.2 ∉ gone))
      let d := if x.writable then { d with mem := x.stage d.mem ins del } else d
      d.setIdx x.slot (fun x => { x with ins := ins, del := del })
    else d) d

/-! ### Rebuild (R339 to R341) -/

/-- The thresholds of PSE_INDEX_CTL, clamped. -/
def Dev.pct (d : Dev) (f : Fld) (slot : Nat) : Nat := max 1 (min 100 (d.get f slot 0))

def Dev.beginRebuild (d : Dev) (slot : Nat) : Dev :=
  match d.idx slot with
  | none => d
  | some x =>
    if x.rebuild.isSome then d
    else
      let bank := x.epoch % 2
      let dead := (d.mem.ixFiled x.blk bank).filter (fun i => d.mem.ixTombed x.blk bank i)
      let r : IdxReb := ⟨x.epoch, [], if ixKind x.blk = 1 then noSlot else d.mem.ixEntryId x.blk bank,
        d.mem.freshList x.blk bank, [], [], [], dead, false⟩
      let item : Maint := ⟨x.part, .rebuild slot, (d.pcal x.part).orbits⟩
      let d : Dev := { d with cal := { d.cal with maint := d.cal.maint ++ [item] } }
      d.setIdx slot (fun x => { x with rebuild := some r })

/-- R339: a published index that asks for a rebuild gets one. -/
def Dev.autoRebuild (d : Dev) (slot : Nat) : Dev :=
  match d.idx slot with
  | none => d
  | some x =>
    let bank := x.epoch % 2
    let n := (d.mem.freshList x.blk bank).length
    let dead := ((d.mem.ixFiled x.blk bank).filter (fun i => d.mem.ixTombed x.blk bank i)).length
    let live := d.mem.ixLive x.blk bank
    if (0 < n ∧ d.pct R.PSE_INDEX_CTL.FRESH_PCT slot * ixFreshMax x.blk ≤ 100 * n) ∨
        (0 < dead ∧ d.pct R.PSE_INDEX_CTL.TOMB_PCT slot * live ≤ 100 * dead) then d.beginRebuild slot else d

/-- What a rebuild's walk sees. -/
def Idx.rebLook (x : Idx) (shard : Nat) (r : IdxReb) : Look :=
  ⟨x.blk, shard, x.epoch % 2, r.log, r.entry, r.todo, some r.dead⟩

/-- A free list slot, while LIST_SPARE lasts. -/
def Idx.freeSlot (x : Idx) (m : Mem) (r : IdxReb) : Option Nat :=
  let b := x.blk
  let used := (List.range (ixCap b)).flatMap (fun i => (m.ixListOf b 0 i).toList ++ (m.ixListOf b 1 i).toList) ++ r.log.map (·.2)
  if ixSpare b ≤ (r.log.filter (fun e => decide (e.2 ≠ noSlot))).length then none
  else (List.range (ixCap b + ixSpare b)).find? (fun s => decide (s ∉ used))

/-- Write the list of local ID `i` to a free slot, or again to the one the rebuild has given it. -/
def Idx.putList (x : Idx) (m : Mem) (r : IdxReb) (i : Nat) (ids : List Nat) : Option (Mem × IdxReb) :=
  let full := (ids ++ List.replicate (ixDegree x.blk) noSlot).take (ixDegree x.blk)
  let old := (r.log.lookup i).bind (fun s => if s = noSlot then none else some s)
  match old.orElse (fun _ => x.freeSlot m r) with
  | none => none
  | some s => some (m.store (ixSlot x.blk s) (full.flatMap (leBytes 4)), { r with log := SMap.put r.log i s })

/-- Distance of local ID `j` from local ID `i`, by a table built from i's centroids. -/
def Mem.between (m : Mem) (b : List Byte) (i j : Nat) : Nat :=
  m.distCode b (.vec (m.decoded b (m.codeOf b i))) (m.codeOf b j)

/-- R339 step 2: neighbour `n` takes `f` into its list. -/
def Idx.linkBack (x : Idx) (shard : Nat) (f n : Nat) (mr : Mem × IdxReb) : Option (Mem × IdxReb) :=
  let m := mr.1
  let k := x.rebLook shard mr.2
  if (k.slot m n).isNone then some mr
  else
    let l := k.list m n
    match l.findIdx? (fun v => decide (v = noSlot)) with
    | some j => x.putList m mr.2 n (modifyAt l j (fun _ => f))
    | none =>
      let key (v : Nat) : Nat × Nat := (m.between x.blk n v, k.gid v)
      match minBy (fun i j => nearer (key (l.getD j 0)) (key (l.getD i 0))) (List.range l.length) with
      | some j => if nearer (key f) (key (l.getD j 0)) then x.putList m mr.2 n (modifyAt l j (fun _ => f)) else some mr
      | none => some mr

/-- R339 steps 1 and 2 for the first fresh ID left. -/
def Idx.linkOne (x : Idx) (shard : Nat) (m : Mem) (r : IdxReb) : Option (Mem × IdxReb) :=
  match r.todo with
  | [] => some (m, r)
  | f :: rest =>
    let b := x.blk
    let w := (walk m (x.rebLook shard r) (.vec (m.decoded b (m.codeOf b f))) (ixEfBuild b) (1024 / max 1 (ixDegree b) * 16)).1
    let near := ((w.map (fun p => p.2 % 2 ^ 28)).filter (fun i => decide (i ≠ f))).take (ixDegree b)
    match x.putList m r f near with
    | none => none
    | some a =>
      let a := near.foldl (fun (o : Option (Mem × IdxReb)) n => o.bind (x.linkBack shard f n)) (some a)
      a.map (fun a => (a.1, { a.2 with
        todo := rest
        linked := a.2.linked ++ [f]
        entry := if a.2.entry = noSlot then f else a.2.entry }))

/-- R339 step 3 for node `n`. -/
def Idx.dropDead (x : Idx) (shard : Nat) (n : Nat) (mr : Mem × IdxReb) : Option (Mem × IdxReb) :=
  let m := mr.1
  let k := x.rebLook shard mr.2
  let l := k.list m n
  if l.any (fun v => decide (v ∈ mr.2.dead)) then
    let key (v : Nat) : Nat × Nat := (m.between x.blk n v, k.gid v)
    let l := (List.range l.length).foldl (fun l j =>
      let v := l.getD j noSlot
      if v ∈ mr.2.dead then
        let cand := (k.list m v).filter (fun c => decide (c ≠ noSlot ∧ c ≠ n ∧ c ∉ mr.2.dead ∧ c ∉ l))
        modifyAt l j (fun _ => (minBy (fun a b => nearer (key a) (key b)) cand).getD noSlot)
      else l) l
    x.putList m mr.2 n l
  else some mr

/-- R339 steps 3 and 4. -/
def Idx.finishRebuild (x : Idx) (shard : Nat) (m : Mem) (r : IdxReb) : Option (Mem × IdxReb) :=
  let k := x.rebLook shard r
  let nodes := (List.range (ixCap x.blk)).filter (fun i => (k.slot m i).isSome && decide (i ∉ r.dead))
  let o := nodes.foldl (fun (o : Option (Mem × IdxReb)) n => o.bind (x.dropDead shard n)) (some (m, r))
  o.map (fun a =>
    let k := x.rebLook shard a.2
    let key (v : Nat) : Nat × Nat := (a.1.between x.blk a.2.entry v, k.gid v)
    let entry := if a.2.entry ∈ a.2.dead then
        (minBy (fun p q => nearer (key p) (key q))
          ((k.list a.1 a.2.entry).filter (fun c => decide (c ≠ noSlot ∧ c ∉ a.2.dead)))).getD a.2.entry
      else a.2.entry
    let freed := a.2.dead.filter (fun i => decide (i ≠ entry))
    (a.1, { a.2 with
      entry := entry
      freed := freed
      log := freed.foldl (fun l i => SMap.put l i noSlot) a.2.log
      finished := true }))

/-- R341: a list without its tombstoned entries at a new base of the pool. -/
def Idx.moveList (x : Idx) (l : Nat) (mr : Mem × IdxReb) : Option (Mem × IdxReb) :=
  let b := x.blk
  let m := mr.1
  let e := m.ixDirOf b (x.epoch % 2) l
  let entries := (List.range e.2).map (fun i => m.bytes (e.1 + i * ixEntry b) (ixEntry b))
  let kept := entries.filter (fun y => decide (fieldAt y (ixM b) 4 ∉ mr.2.dead))
  if kept.length = entries.length then some mr
  else
    let size := ixExtent b
    let pool := ixBase b 2
    let used := (List.range (ixNlist b)).flatMap (fun k => [(m.ixDirOf b 0 k).1, (m.ixDirOf b 1 k).1]) ++ mr.2.log.map (·.2)
    let n := ixNlist b + ixSpare b / max 1 size
    match ((List.range n).map (fun k => pool + k * size)).find? (fun y =>
        used.all (fun u => decide (y + size ≤ u ∨ u + size ≤ y))) with
    | none => none
    | some y => some (m.store y (kept.flatMap id), { mr.2 with
        log := SMap.put mr.2.log l y
        counts := mr.2.counts ++ [(l, kept.length, e.2)] })

/-- A step of a rebuild; none when LIST_SPARE has run out. -/
def Idx.rebuildStep (x : Idx) (shard : Nat) (m : Mem) (r : IdxReb) : Option (Mem × IdxReb) :=
  if r.finished then some (m, r)
  else if ixKind x.blk = 1 then
    let o := (List.range (ixNlist x.blk)).foldl (fun (o : Option (Mem × IdxReb)) l => o.bind (x.moveList l)) (some (m, r))
    o.map (fun a => (a.1, { a.2 with freed := a.2.dead, finished := true }))
  else if r.todo.isEmpty then x.finishRebuild shard m r
  else x.linkOne shard m r

/-- R339, R340: one maintenance step of the rebuild of an index. -/
def Dev.rebuildIdx (d : Dev) (slot : Nat) : Dev :=
  match d.idx slot with
  | none => d
  | some x =>
    match x.rebuild with
    | none => d
    | some r =>
      match x.rebuildStep d.shard d.mem r with
      | some a => ({ d with mem := a.1 }.setIdx slot (fun x => { x with rebuild := some a.2 })).warnIdx slot
      | none =>
        let d := (d.dropMaint (.rebuild slot)).setIdx slot (fun x => { x with rebuild := none })
        (d.set R.PSE_INDEX_STAT.CAP_WARN slot 0 1).eventAll (d.idxCtxs x) 0x51 0 0
          (leBytes 1 slot ++ [2] ++ leBytes 1 100) 0

/-- R340: a finished rebuild goes into bank (e + 1) mod 2. -/
def Idx.applyRebuild (x : Idx) (r : IdxReb) (m : Mem) : Mem :=
  let b := x.blk
  let n := x.next
  if ixKind b = 1 then
    r.counts.foldl (fun m c =>
      let old := m.ixDirOf b n c.1
      let y := (r.log.lookup c.1).getD 0
      let late := m.bytes (old.1 + c.2.2 * ixEntry b) ((old.2 - c.2.2) * ixEntry b)
      let m := m.store (y + c.2.1 * ixEntry b) late
      (m.store (ixDir b c.1 + 8 * n) (leBytes 8 y)).store (ixDir b c.1 + 16 + 4 * n) (leBytes 4 (c.2.1 + (old.2 - c.2.2)))) m
  else
    let m := r.log.foldl (fun m e => m.store (ixInd b n e.1) (leBytes 4 e.2)) m
    let m := m.store (ixRoot b + 16 + 4 * n) (leBytes 4 r.entry)
    m.putFresh b n ((m.freshList b n).filter (fun i => decide (i ∉ r.linked)))

/-! ### Epochs (R337, R338) -/

/-- R337, R340: the root names epoch e + 1: with the staged changes, with a finished rebuild, or with both. -/
def Dev.publishIdx (d : Dev) (x : Idx) (changes : Bool) (reb : Option IdxReb) : Dev :=
  let b := x.blk
  let m := if changes then x.stage d.mem x.ins x.del else x.stage d.mem [] []
  let m := match reb with | some r => x.applyRebuild r m | none => m
  let e := nextEpoch x.epoch
  let m := m.store (ixRoot b) (leBytes 4 e ++ leBytes 4 x.retired ++ leBytes 8 (d.schedNow x.part))
  let m := (m.store (ixRoot b + 32) (leBytes 4 (m.ixLive b x.next))).sealIx b
  let d := { d with mem := m }
  let d := match reb with | some _ => d.dropMaint (.rebuild x.slot) | none => d
  let ids := d.runs.map (·.id)
  let d := d.setIdx x.slot (fun x => { x with
    epoch := e
    before := ids
    gone := (if changes then x.gone.filter (fun g => !x.ins.any (fun s => decide (s.id = g.1))) else x.gone) ++
      ((reb.map (fun r => r.freed.map (fun i => (i, false)))).getD [])
    ins := if changes then [] else x.ins
    del := if changes then [] else x.del
    rebuild := if reb.isSome then none else x.rebuild })
  let d := d.eventAll (d.idxCtxs x) 0x50 0 0 (leBytes 1 x.slot ++ leBytes 4 e ++ leBytes 1 (b2n reb.isSome)) 0
  (d.warnIdx x.slot).autoRebuild x.slot

/-- The PUBLISH_EPOCH of an index that waits for nothing more. -/
def Dev.pubReady (d : Dev) (x : Idx) : Option Req :=
  match minBy (fun p q => decide (p.id < q.id)) (d.reqs.filter (fun r => r.onIdx x && decide (r.st = .publishing))) with
  | some r => if d.reqs.any (fun q => q.onIdx x && decide (dOpc q.desc ≠ 0x43 ∧ q.id < r.id)) then none else some r
  | none => none

/-- R337, R340: at an orbit boundary of partition `p`. -/
def Dev.publishIndices (d : Dev) (p : Nat) : Dev :=
  (d.idxs.filter (fun x => decide (x.part = p) && x.writable)).foldl (fun d x =>
    let reb := x.rebuild.bind (fun r => if r.finished then some r else none)
    match d.pubReady x with
    | some r =>
      let d := d.publishIdx x true reb
      (((d.finishReq r 0 0 none 0 (leBytes 4 (nextEpoch x.epoch))).syncIdx x.slot)).settleWaits (d.reqs.length + 1)
    | none => if reb.isSome then d.publishIdx x false reb else d) d

/-- R338: retirement, once every run released before the publication has ended. -/
def Dev.retireIdx (d : Dev) (slot : Nat) : Dev :=
  match d.idx slot with
  | none => d
  | some x =>
    if x.retired ≠ x.epoch ∧ (d.runs.all (fun r => decide (r.id ∉ x.before))) = true then
      let m := (d.mem.store (ixRoot x.blk + 4) (leBytes 4 x.epoch)).sealIx x.blk
      { d with mem := m }.setIdx slot (fun x => { x with
        retired := x.epoch
        gone := x.gone.map (fun (g : Nat × Bool) => (g.1, true)) })
    else d

/-! ### Loading (R317, R322 to R324) -/

/-- R324: a root that RESUME finds is wrong. -/
def Dev.ixRootBad (d : Dev) (b : List Byte) : Bool :=
  let r := d.mem.bytes (ixRoot b) 4096
  let bank := fieldAt r 0 4 % 2
  decide (fieldAt r 4092 4 ≠ crc32c (r.take 4092)) || decide (fieldAt r 0 4 = 0) ||
    decide (ixFreshMax b < fieldAt r (24 + 4 * bank) 4) || decide (ixCap b < fieldAt r 32 4) ||
    (decide (fieldAt r (16 + 4 * bank) 4 ≠ noSlot) && decide (ixCap b ≤ fieldAt r (16 + 4 * bank) 4))

/-- R323: an empty index of epoch 1. -/
def Mem.emptyIndex (m : Mem) (b : List Byte) (now crc : Nat) : Mem :=
  let tombs := 2 * ceilDiv (ixCap b) 8
  let m := m.store (ixTomb b 0 0) (List.replicate tombs 0)
  let m :=
    if ixKind b = 1 then
      (List.range (ixNlist b)).foldl (fun m l =>
        let y := ixBase b 2 + l * ixExtent b
        m.store (ixDir b l) (leBytes 8 y ++ leBytes 8 y ++ List.replicate 16 0)) m
    else m.store (ixInd b 0 0) (List.replicate (8 * ixCap b) 0xFF)
  let root := leBytes 4 1 ++ leBytes 4 1 ++ leBytes 8 now ++ leBytes 4 noSlot ++ leBytes 4 noSlot ++ List.replicate 12 0 ++
    leBytes 4 crc
  (m.store (ixRoot b) (root ++ List.replicate (4092 - root.length) 0)).sealIx b

/-- An index block goes into effect at the lowest free slot. -/
def Dev.loadIndex (d : Dev) (wb part : Nat) (b : List Byte) : Dev :=
  let slot := ((List.range 16).find? (fun s => (d.idx s).isNone)).getD 0
  let crc := crc32c (d.mem.bytes (ixCodebook b) (1024 * ixDim b))
  if ixResume b then
    let m := (d.mem.store (ixRoot b + 36) (leBytes 4 crc)).sealIx b
    let e := m.word (ixRoot b) 4
    let bank := e % 2
    let filed := m.ixFiled b bank
    let gone := ((List.range (ixCap b)).filter (fun i => m.ixTombed b bank i && decide (i ∉ filed))).map (fun i => (i, true))
    let m := (m.store (ixRoot b + 4) (leBytes 4 e)).sealIx b
    let x : Idx := ⟨slot, wb, part, b, e, e, [], [], [], gone, none, [], []⟩
    ({ d with mem := m, idxs := d.idxs ++ [x] }.syncIdx slot).autoRebuild slot
  else
    let x : Idx := ⟨slot, wb, part, b, 1, 1, [], [], [], [], none, [], []⟩
    { d with mem := d.mem.emptyIndex b (d.schedNow part) crc, idxs := d.idxs ++ [x] }.syncIdx slot

end Sys2Proof.Machine
end

