-- ==== Sys2Proof/Machine/SlxRows.lean ====
section
/-! DEFINITION. The solver lattice at work: dispatch, waves, outputs and status words (R305 to R315). -/

namespace Sys2Proof.Machine

/-- A solver task: the array, its length, the result base (R301). -/
def slxArray (t : Task) : Nat := fieldAt t.bytes 0 8
def slxCount (t : Task) : Nat := fieldAt t.bytes 8 8
def slxBase (t : Task) : Nat := fieldAt t.bytes 16 8

def slxTask (a n base : Nat) : Task := newTask 1 (leBytes 8 a ++ leBytes 8 n ++ leBytes 8 base)

/-- Template lines of a run's job. -/
def Dev.slxLines (d : Dev) (r : Run) : List (List Byte) := ((d.jobOf r.wb r.job).map (·.solves)).getD []

/-- R306: a problem meets a line. -/
def lineFits (l b : List Byte) : Bool :=
  decide (pdKind b = fieldAt l 0 1 ∧ pdPrec b = fieldAt l 1 1 ∧ pdGang b = fieldAt l 2 1 ∧ pdN b ≤ fieldAt l 4 2 ∧
    pdK b ≤ fieldAt l 6 2 ∧ pdM b ≤ fieldAt l 8 4 ∧ pdNobs b ≤ fieldAt l 12 4)

/-- R306: the ranges of a problem. -/
def Dev.rangesOk (d : Dev) (p : Nat) (c : Option Nat) (base count : Nat) (b : List Byte) : Bool :=
  decide (8 * count ≤ pdOut b) && (pdExtents b).all (fun x => d.inReach p c x.1 x.2 false) &&
    (List.range (pdOuts b).length).all (fun i =>
      d.inReach p c (base + pdOutOff b i) ((pdOuts b).getD i 0 * pdEl b) true)

/-- R306: groups of the problems in ascending index, 1 + group, or 0 for a problem that fails with code 9. -/
def Dev.matchLines (d : Dev) (r : Run) (base : Nat) (lines descs : List (List Byte)) : List Nat :=
  (descs.foldl (fun (acc : List Nat × List Nat) b =>
    let left := acc.2
    let ok := pdOk b && d.rangesOk r.part r.ctx base descs.length b
    match (if ok then (List.range lines.length).find? (fun i => lineFits (lines.getD i []) b && decide (0 < left.getD i 0)) else none) with
    | some i => (acc.1 ++ [1 + fieldAt (lines.getD i []) 3 1], modifyAt left i (fun n => n - 1))
    | none => (acc.1 ++ [0], left)) ([], lines.map (fun l => fieldAt l 16 2))).1

def slxWho (r : Run) (g : Nat) : Who := r.who 9 g none

/-- A status word (R307). -/
def statusWord (payload ratio : Nat) : List Byte := leBytes 4 payload ++ leBytes 4 ratio

def Dev.setTaskAt (d : Dev) (run k : Nat) (f : Task → Task) : Dev :=
  d.setRun run (fun r => { r with tasks := modifyAt r.tasks k f })

/-- Outcome of problem `i`: code, tier, address; kept in place of the descriptors' second half. -/
def Task.setOutcome (t : Task) (i code tier addr : Nat) : Task :=
  { t with work := modifyAt t.work i (fun _ => 0)
           res := modifyAt t.res (slxCount t + i) (fun _ => leBytes 1 code ++ leBytes 1 tier ++ leBytes 6 addr ++ [1]) }

/-- First dispatch of a solver task: read the array and match it to the lines. -/
def Dev.startSlx (d : Dev) (r : Run) (k : Nat) (t : Task) (h : HostView) : Dev :=
  let n := slxCount t
  match d.read (slxWho r 0) h (slxArray t) (64 * n) with
  | (d, .error e) => d.failAcc r e
  | (d, .ok bs) =>
    let descs := (List.range n).map (fun i => slice bs (64 * i) 64)
    let gs := d.matchLines r (slxBase t) (d.slxLines r) descs
    let d := d.setTaskAt r.id k (fun t => { t with band := 1, work := gs, res := descs ++ List.replicate n [] })
    (List.range n).foldl (fun d i =>
      if gs.getD i 0 = 0 then
        let d := (d.write (slxWho r 0) (slxBase t + 8 * i) (statusWord (9 * 2 ^ 18) 0)).1
        d.setTaskAt r.id k (fun t => t.setOutcome i 9 0 0)
      else d) d

/-- R312: a batch whose problems have all ended. -/
def Dev.endSlx (d : Dev) (run k : Nat) : Dev :=
  match d.run run with
  | none => d
  | some r =>
    match r.tasks[k]? with
    | none => d
    | some t =>
      let n := slxCount t
      let outs := (t.res.drop n).map (fun o => (fieldAt o 0 1, fieldAt o 1 1, fieldAt o 2 6, fieldAt o 8 1))
      if t.band = 0 ∨ t.done = true ∨ (outs.any (fun o => decide (o.2.2.2 = 0))) = true then d
      else
        let idx := List.range n
        let code (i : Nat) : Nat := (outs.getD i (0, 0, 0, 0)).1
        let d := d.setTaskAt run k (fun t => { t with done := true })
        match idx.find? (fun i => decide (code i = 7)), idx.find? (fun i => decide (code i = 8)), idx.find? (fun i => decide (code i ≠ 0)) with
        | some i, _, _ =>
          let o := outs.getD i (0, 0, 0, 0)
          d.setRun run (fun r => { r with status := 0x21, sub := o.2.1, info := leBytes 6 o.2.2.1 })
        | none, some i, _ =>
          let o := outs.getD i (0, 0, 0, 0)
          d.setRun run (fun r => { r with
            status := 0x20, sub := (if o.2.1 / 16 = 1 then 0x200 else 0x100) + o.2.1 % 16, info := leBytes 6 o.2.2.1 })
        | none, none, some i =>
          d.setRun run (fun r => { r with
            status := 0x50, sub := (idx.filter (fun i => decide (code i ≠ 0))).length, info := leBytes 4 i })
        | none, none, none => d

/-- Whole aligned quads of a group, from the cores that no longer exist. -/
def quadWhole (lost : List Nat) (g q : Nat) : Bool := !lost.any (fun c => decide (c / 4 = 4 * g + q))

/-- R315: place the next problems of a wave: problem and first core of its gang, within the group. -/
def placeWave (lost : List Nat) (g : Nat) (used : List Nat) (ps : List (Nat × Nat)) : List (Nat × Nat) :=
  match ps with
  | [] => []
  | p :: rest =>
    let size := if p.2 = 0 then 1 else if p.2 = 1 then 4 else 16
    match (List.range (16 / size)).find? (fun k => (List.range size).all (fun c =>
        decide (k * size + c ∉ used) && quadWhole lost g ((k * size + c) / 4))) with
    | some k => (p.1, k * size) :: placeWave lost g (used ++ (List.range size).map (fun c => k * size + c)) rest
    | none => []

/-- SLX_ERR_LOG and the fault record of a core. -/
def Dev.logSlx (d : Dev) (core kind a : Nat) : Dev :=
  (((d.set R.SLX_ERR_LOG.TIME 0 0 (d.tbVal 0)).set R.SLX_ERR_LOG.CORE 0 0 core).set R.SLX_ERR_LOG.KIND 0 0 kind).set
    R.SLX_ERR_LOG.ADDR 0 0 a

/-- R310, R311: write the NaN to every output, then the status word. -/
def Dev.failProblem (d : Dev) (r : Run) (g : Nat) (base i : Nat) (b : List Byte) (payload : Nat) : Dev :=
  let w := slxWho r g
  let e := pdEl b
  let d := (List.range (pdOuts b).length).foldl (fun d o =>
    let n := (pdOuts b).getD o 0
    (d.write w (base + pdOutOff b o) ((List.replicate n (leBytes e (failNan e payload))).flatMap id)).1) d
  let d := (d.write w (base + 8 * i) (statusWord payload 0)).1
  (d.addSat R.SLX_FAILS.FAILS g 0 1).set R.SLX_GROUP_STAT.NAN g 0 1

/-- Read ranges of a problem's inputs, each list joined. -/
def Dev.readJoin (d : Dev) (w : Who) (h : HostView) (rs : List (Nat × Nat)) : Dev × Except AccErr (List Byte) :=
  match rs with
  | [] => (d, .ok [])
  | r :: rest =>
    match d.read w h r.1 r.2 with
    | (d, .error x) => (d, .error x)
    | (d, .ok b) =>
      match d.readJoin w h rest with
      | (d, .error x) => (d, .error x)
      | (d, .ok c) => (d, .ok (b ++ c))

def Dev.readIns (d : Dev) (w : Who) (h : HostView) (rs : List (List (Nat × Nat))) : Dev × Except AccErr (List (List Byte)) :=
  match rs with
  | [] => (d, .ok [])
  | r :: rest =>
    match d.readJoin w h r with
    | (d, .error x) => (d, .error x)
    | (d, .ok b) =>
      match d.readIns w h rest with
      | (d, .error x) => (d, .error x)
      | (d, .ok c) => (d, .ok (b :: c))

/-- τ of a partition (SLX_TAU). -/
def Dev.tauOf (d : Dev) (p : Nat) : Nat :=
  let v := d.get R.SLX_TAU.TAU p 0
  if fp32.isFin v && !fp32.isZero v && !bitOf v 31 then v else 0x2B800000

/-- Problem `i` of a wave, on the gang from `core` (number within the device). `faults`: core and 1 for a residue mismatch
or 2 for an uncorrectable error of its store (R313). -/
def Dev.runProblem (d : Dev) (r : Run) (k g i core tau : Nat) (h : HostView) (faults : List (Nat × Nat)) : Dev :=
  match (d.run r.id).bind (fun x => x.tasks[k]?) with
  | none => d
  | some t =>
    let b := t.res.getD i []
    let base := slxBase t
    let w := slxWho r g
    let size := if pdGang b = 0 then 1 else if pdGang b = 1 then 4 else 16
    let d := d.count 4 1 1 (w.occ (slxArray t + 64 * i))
    let out (d : Dev) (code tier addr payload : Nat) : Dev :=
      (d.failProblem r g base i b payload).setTaskAt r.id k (fun t => t.setOutcome i code tier addr)
    match faults.find? (fun f => decide (core ≤ f.1 ∧ f.1 < core + size)) with
    | some f =>
      let ue := decide (f.2 = 2)
      let d := if ue then d.set R.SLX_GROUP_STAT.ECC_UE g 0 1 else d.set R.SLX_GROUP_STAT.RESIDUE g 0 1
      let d := ((d.logSlx f.1 (if ue then 2 else 1) 0).annal 2 (if ue then 2 else 1) 9 (annUnit r.part f.1) []).suspect ⟨9, 32 + f.1⟩
      let d := out d (if ue then 6 else 5) 0 0 ((if ue then 6 else 5) * 2 ^ 18)
      if r.safety then d.dangerous (if ue then 7 else 4) 0 0 false none else d
    | none =>
      match d.readIns w h (pdIns b) with
      | (d, .error (.poison tier a)) => out (d.logSlx core 3 a) 7 tier a (7 * 2 ^ 18)
      | (d, .error (.tier f tier a)) => out (d.logSlx core (if f then 5 else 4) a) 8 (16 * b2n f + tier) a (8 * 2 ^ 18)
      | (d, .error _) => out d 9 0 0 (9 * 2 ^ 18)
      | (d, .ok ins) =>
        match solveProblem b tau ins with
        | .error f => out d f.code 0 0 f.payload
        | .ok s =>
          let e := pdEl b
          let ws := (List.range s.outs.length).map (fun o => (base + pdOutOff b o, (s.outs.getD o []).flatMap (leBytes e)))
          match d.writeList w (ws ++ [(base + 8 * i, statusWord 0 s.ratio)]) with
          | (d, none) => d.setTaskAt r.id k (fun t => t.setOutcome i 0 0 0)
          | (d, some (.tier f tier a)) => out (d.logSlx core (if f then 5 else 4) a) 8 (16 * b2n f + tier) a (8 * 2 ^ 18)
          | (d, some (.poison tier a)) => out (d.logSlx core 3 a) 7 tier a (7 * 2 ^ 18)
          | (d, some _) => d.setTaskAt r.id k (fun t => t.setOutcome i 9 0 0)

/-- Pending problems of a task on a group: index and GANG. -/
def Task.pendingOn (t : Task) (g : Nat) : List (Nat × Nat) :=
  ((List.range t.work.length).filter (fun i => decide (t.work.getD i 0 = 1 + g))).map (fun i => (i, pdGang (t.res.getD i [])))

/-- A solver task of a run that has work for a group, or is not dispatched and has a line there. -/
def Dev.slxReady (d : Dev) (r : Run) (g : Nat) : Option Nat :=
  (List.range r.tasks.length).find? (fun k =>
    match r.tasks[k]? with
    | some t => decide (t.sort = 1) && !t.done &&
        (if t.band = 0 then (d.slxLines r).any (fun l => decide (fieldAt l 3 1 = g)) else !(t.pendingOn g).isEmpty)
    | none => false)

/-- R315: one wave of a group. -/
def Dev.wave (d : Dev) (lost : List Nat) (g : Nat) (h : HostView) (faults : List (Nat × Nat)) : Dev :=
  match minBy edf (d.runs.filter (fun r => r.eligible && (d.slxReady r g).isSome)) with
  | none => d
  | some r =>
    match d.slxReady r g with
    | none => d
    | some k =>
      let fenced := d.isFenced 9 g || (List.range 16).any (fun i => d.isFenced 9 (32 + 16 * g + i))
      d.unlessFenced r.id fenced <|
      let d := d.markStarted r.id
      let d := match r.tasks[k]? with
        | some t => if t.band = 0 then d.startSlx r k t h else d
        | none => d
      match (d.run r.id).bind (fun x => x.tasks[k]?) with
      | none => d
      | some t =>
        let tau := d.tauOf r.part
        let d := (placeWave lost g [] (t.pendingOn g)).foldl (fun d p => d.runProblem r k g p.1 (16 * g + p.2) tau h faults) d
        (d.addWrap R.SLX_GROUP_STAT.WAVES g 0 1).endSlx r.id k

/-- Cores that have been retired (pool 2 of Table 17-1). -/
def lostCores (nv : NonVol) : List Nat :=
  (nv.spareMap.filter (fun r => decide (r.pool = 2 ∧ r.spare = none))).map (·.unit)

/-- SLX_WAVE, R315: one wave of group `group`; `faults` lists cores with a residue mismatch (1) or an uncorrectable error
of their store (2). -/
def execSlxWave (group : Nat) (h : HostView) (faults : List (Nat × Nat)) (s : State) : Host.Outcome State Fault Refusal :=
  onDev (decide (group < 16) && faults.all (fun f => decide (f.1 / 16 = group ∧ 1 ≤ f.2 ∧ f.2 ≤ 2)))
    (fun nv d => d.wave (lostCores nv) group h faults) s

end Sys2Proof.Machine
end

