-- ==== Sys2Proof/Machine/PseRun.lean ====
section
/-! DEFINITION. Searches at work: requests, matching, walker steps, fan-out, merge, serving (R328 to R332, R343 to R347). -/

namespace Sys2Proof.Machine

/-! ### Template lines (Table 12-5) -/

def slWalker (l : List Byte) : Nat := fieldAt l 0 1
def slServe (l : List Byte) : Bool := bitOf (fieldAt l 1 1) 0
def slNqMax (l : List Byte) : Nat := fieldAt l 4 2
def slIndex (l : List Byte) : Nat := fieldAt l 12 4

/-- R331: a query of these parameters meets a line. -/
def searchFits (b l : List Byte) (k ef xmax nprobe : Nat) : Bool :=
  decide (k ≤ fieldAt l 2 1) &&
    (if ixKind b = 1 then decide (nprobe ≤ fieldAt l 10 2) else decide (ef ≤ fieldAt l 6 2 ∧ xmax ≤ fieldAt l 8 2))

/-- R330: a line breaks Table 12-5. -/
def searchLineBad (l : List Byte) : Bool :=
  decide (8 ≤ slWalker l) || decide (2 ≤ fieldAt l 1 1) || decide (fieldAt l 3 1 ≠ 0) ||
    decide (slNqMax l = 0 ∨ 4096 < slNqMax l)

def Dev.searchLines (d : Dev) (wb job : Nat) : List (List Byte) := ((d.jobOf wb job).map (·.searches)).getD []

/-! ### The SEARCH request (R328, R331) -/

/-- Header fields of a query block (Table 12-3). -/
def qhNq (t : List Byte) : Nat := fieldAt t 0 2
def qhForm (t : List Byte) : Nat := fieldAt t 2 1
def qhK (t : List Byte) : Nat := fieldAt t 3 1
def qhEf (t : List Byte) : Nat := fieldAt t 4 2
def qhXmax (t : List Byte) : Nat := fieldAt t 6 2
def qhNprobe (t : List Byte) : Nat := fieldAt t 8 2
def qhLocal (t : List Byte) : Bool := bitOf (fieldAt t 10 1) 0
def qhWait (t : List Byte) : Nat := fieldAt t 12 4

/-- The header keeps to Table 12-3. -/
def queryHeaderOk (b t : List Byte) : Bool :=
  decide (1 ≤ qhNq t ∧ qhNq t ≤ 4096 ∧ qhForm t ≤ 1 ∧ 1 ≤ qhK t ∧ qhK t ≤ 64) &&
    (if ixKind b = 1 then decide (1 ≤ qhNprobe t ∧ qhNprobe t ≤ 256 ∧ qhNprobe t ≤ ixNlist b)
     else decide (qhNprobe t = 0 ∧ qhK t ≤ qhEf t ∧ qhEf t ≤ 256 ∧ 1 ≤ qhXmax t ∧ qhXmax t ≤ 1024 ∧
       qhXmax t * ixDegree b ≤ 16384)) &&
    decide (fieldAt t 10 1 < 2 ∧ fieldAt t 11 1 = 0 ∧ leNat (slice t 16 16) = 0) &&
    (qhLocal t || !ixSharded b || decide (1 ≤ qhWait t ∧ qhWait t ≤ 100000))

/-- The tests of a SEARCH that belong to R95 step 6: the header, or the subcode of BAD_DESC. -/
def Dev.searchHeader (d : Dev) (r : Req) (h : HostView) : Dev × Except (Nat ⊕ AccErr) (List Byte) :=
  match d.idxById (dArg1 r.desc % 2 ^ 32) with
  | none => (d, .error (.inl 7))
  | some x =>
    if x.part ≠ r.part then (d, .error (.inl 0xC))
    else if dLen r.desc < 32 then (d, .error (.inl 7))
    else if !d.inReach r.part (some r.ctx) (dArg0 r.desc) (dLen r.desc) false then (d, .error (.inl 8))
    else
      match d.read (r.who 10) h (dArg0 r.desc) 32 with
      | (d, .error e) => (d, .error (.inr e))
      | (d, .ok t) =>
        let room := sumBy slNqMax ((d.searchLines (dHandle r.desc % 256) r.jobNo).filter (fun l => decide (slIndex l = ixId x.blk)))
        if !queryHeaderOk x.blk t || decide (room < qhNq t) then (d, .error (.inl 7))
        else if !d.inReach r.part (some r.ctx) (dArg2 r.desc) (64 + qhNq t * resultSize (qhK t)) true then (d, .error (.inl 8))
        else (d, .ok t)

/-- The task of an admitted SEARCH: ARG0, LEN, ARG2, the index, the header. -/
def searchTask (r : Req) : Task :=
  newTask 2 (leBytes 8 (dArg0 r.desc) ++ leBytes 8 (dLen r.desc) ++ leBytes 8 (dArg2 r.desc) ++ leBytes 4 (dArg1 r.desc) ++
    r.work.map (BitVec.ofNat 8))

/-! ### Searches -/

def Dev.search (d : Dev) (run task : Nat) : Option Search := d.searches.find? (fun s => decide (s.run = run ∧ s.task = task))

def Dev.setSearch (d : Dev) (run task : Nat) (f : Search → Search) : Dev :=
  { d with searches := d.searches.map (fun (s : Search) => if s.run = run ∧ s.task = task then f s else s) }

/-- The epoch that a run reads (R337). -/
def Idx.epochFor (x : Idx) (run : Nat) : Nat := if x.retired ≠ x.epoch ∧ run ∈ x.before then x.retired else x.epoch

def pseWho (r : Run) (w : Nat) : Who := r.who 10 w none

/-- PSE_ERR_LOG. -/
def Dev.logPse (d : Dev) (walker kind a : Nat) : Dev :=
  (((d.set R.PSE_ERR_LOG.TIME 0 0 (d.tbVal 0)).set R.PSE_ERR_LOG.WALKER 0 0 walker).set R.PSE_ERR_LOG.KIND 0 0 kind).set
    R.PSE_ERR_LOG.ADDR 0 0 a

/-- A query ends: status, tier byte of a subcode, address. -/
def Query.fail (q : Query) (status tier addr : Nat) : Query :=
  { q with done := true, status := status, tier := tier, addr := addr, hits := [] }

/-- R347: a query ends with the error of a read. -/
def Dev.queryError (d : Dev) (w : Nat) (q : Query) (e : AccErr) : Dev × Query :=
  match e with
  | .poison tier a => ((d.logPse w 1 a).set R.PSE_WALKER_STAT.POISON_IN w 0 1, q.fail 7 tier a)
  | .tier f tier a => (d.logPse w (if f then 4 else 3) a, q.fail 8 ((if f then 16 else 0) + tier) a)
  | _ => (d, q.fail 9 0 0)

/-- Bytes of a result record (Table 12-4). The bytes past the last result are not stated. -/
def recordOf (status count trunc missing : Nat) (hits : List Hit) : List Byte :=
  leBytes 1 status ++ leBytes 1 count ++ leBytes 1 trunc ++ [0] ++ leBytes 2 missing ++ List.replicate 10 0 ++
    hits.flatMap (fun h => leBytes 4 h.gid ++ leBytes 4 h.tag ++ leBytes 4 h.dist ++ leBytes 4 0)

/-- Write the record of query `i` of a search. -/
def Dev.putResult (d : Dev) (r : Run) (da i k status trunc missing : Nat) (hits : List Hit) (walker : Nat) : Dev :=
  let b := recordOf status hits.length trunc missing hits
  let f := freeWords Config.undefByte (resultSize k - b.length) d
  let e := f.2.write (pseWho r walker) (da + 64 + i * resultSize k) (b ++ f.1)
  match e.2 with
  | none => e.1
  | some (.poison t a) => (e.1.logPse walker 1 a).setRun r.id (fun x => { x with
      status := 0x21, sub := t, info := leBytes 6 a })
  | some er => e.1.setRun r.id (fun x => { x with status := er.status.1, sub := er.status.2.1, info := er.status.2.2 })

/-- The message of a reply: epoch, TRUNC, count, then distance, global ID and tag of each (DESIGN CHOICE, unsafe, log entry 25). -/
def replyBytes (epoch : Nat) (q : Query) : List Byte :=
  leBytes 4 epoch ++ leBytes 2 (b2n q.trunc) ++ leBytes 2 q.hits.length ++
    q.hits.flatMap (fun h => leBytes 4 h.dist ++ leBytes 4 h.gid ++ leBytes 4 h.tag)

/-- Query `i` of a search has ended: keep it, write its record, or return it to its requester. -/
def Dev.endQuery (d : Dev) (r : Run) (task i : Nat) (q : Query) : Dev :=
  match d.search r.id task with
  | none => d
  | some s =>
    let d := d.setSearch r.id task (fun s => { s with queries := modifyAt s.queries i (fun _ => q) })
    match q.from_, s.da with
    | some f, _ => d.peerSend f.1 f.2 7 (replyBytes s.epoch q)
    | none, some da =>
      if s.shards.isEmpty then d.putResult r da i q.k q.status (b2n q.trunc) 0 q.hits (min 7 q.walker) else d
    | none, none => d

/-! ### Merge (R345, R346) -/

/-- A shard's answer to every query that was sent has come. -/
def Search.answered (s : Search) (sh : Nat) : Bool :=
  (List.range s.queries.length).all (fun i =>
    match s.queries[i]? with
    | some q => decide (q.status ≠ 0) || s.replies.any (fun y => decide (y.shard = sh ∧ y.q = i) && !y.refused)
    | none => true)

def Search.refusedBy (s : Search) (sh : Nat) : Bool := s.replies.any (fun y => decide (y.shard = sh) && y.refused)

/-- R345: shards missing at this moment. -/
def Dev.missing (d : Dev) (s : Search) : List Nat :=
  s.shards.filter (fun sh => !d.reaches sh || s.refusedBy sh || !s.answered sh)

/-- Nothing is left to wait for: every shard has replied, refused or is lost, or the wait is over. -/
def Dev.merges (d : Dev) (s : Search) : Bool :=
  s.queries.all (·.done) &&
    (s.shards.all (fun sh => !d.reaches sh || s.refusedBy sh || s.answered sh) ||
      (match s.due with | some t => decide (t ≤ d.now) | none => true))

/-- The merged list of query `i`: the own list and those of the shards present, in the order of R321. -/
def Search.mergeQuery (s : Search) (present : List Nat) (i : Nat) (q : Query) : List Hit × Bool :=
  let rs := s.replies.filter (fun y => decide (y.q = i ∧ y.shard ∈ present))
  let all := q.hits ++ rs.flatMap (fun y => y.hits)
  ((sortBy (fun (x y : Hit) => nearer (x.dist, x.gid) (y.dist, y.gid)) all).take q.k, q.trunc || rs.any (fun y => y.trunc))

/-- R346: the search of a run ends. -/
def Dev.endSearch (d : Dev) (run task : Nat) : Dev :=
  match d.search run task, d.run run with
  | some s, some r =>
    if !d.merges s then d
    else
      let miss := d.missing s
      let present := s.shards.filter (fun x => decide (x ∉ miss))
      let mask := miss.foldl (fun m x => Nat.lor m (2 ^ x)) 0
      let n := s.queries.length
      let d :=
        match s.da with
        | none => d
        | some da =>
          let d :=
            if s.shards.isEmpty then d
            else (List.range n).foldl (fun d i =>
              match s.queries[i]? with
              | some q =>
                let m := s.mergeQuery present i q
                if q.status = 0 then
                  d.putResult r da i q.k (if miss.isEmpty then 0 else 1) (b2n m.2) mask m.1 (min 7 q.walker)
                else d.putResult r da i q.k q.status 0 0 [] (min 7 q.walker)
              | none => d) d
          let epochs := (List.range 16).flatMap (fun sh =>
            leBytes 4 (if sh = d.shard then s.epoch
              else if sh ∈ present then ((s.replies.find? (fun (y : Reply) => decide (y.shard = sh))).map (fun (y : Reply) => y.epoch)).getD 0 else 0))
          (d.write (pseWho r 0) da epochs).1
      let d := d.setTaskAt run task (fun t => { t with done := true })
      let d := { d with searches := d.searches.filter (fun x => !decide (x.run = run ∧ x.task = task)) }
      if s.da.isNone then d
      else
        let info := leBytes 4 s.epoch ++ leBytes 2 mask
        match s.queries.find? (fun q => decide (q.status = 7)), s.queries.find? (fun q => decide (q.status = 8)) with
        | some q, _ => d.setRun run (fun r => { r with status := 0x21, sub := q.tier, info := leBytes 6 q.addr })
        | none, some q =>
          d.setRun run (fun r => { r with
            status := 0x20, sub := (if q.tier / 16 = 1 then 0x200 else 0x100) + q.tier % 16, info := leBytes 6 q.addr })
        | none, none =>
          d.setRun run (fun r =>
            if r.status ≠ 0 then r
            else if miss.isEmpty then { r with info := info }
            else { r with status := 0x41, sub := miss.length, info := info })
  | _, _ => d

/-- Searches that a change of the group, a reply or the end of a wait completes. -/
def Dev.settleSearches (d : Dev) : Dev := d.searches.foldl (fun d s => d.endSearch s.run s.task) d

/-! ### Dispatch and steps (R331, R332, R343) -/

/-- The message of a query: index, CB_CRC, form, K, EF, XMAX, NPROBE, the body (DESIGN CHOICE, unsafe, log entry 25). -/
def queryMsg (id crc : Nat) (q : Query) : List Byte :=
  leBytes 4 id ++ leBytes 4 crc ++ leBytes 1 q.form ++ leBytes 1 q.k ++ leBytes 2 q.ef ++ leBytes 2 q.xmax ++
    leBytes 2 q.nprobe ++ q.body

/-- R331: walkers of the queries of a block in ascending index, 8 for a query that matches no line. -/
def matchSearch (b : List Byte) (lines : List (List Byte)) (t : List Byte) (bad : Nat → Bool) : List Nat :=
  ((List.range (qhNq t)).foldl (fun (acc : List Nat × List Nat) i =>
    match (if bad i then none else (List.range lines.length).find? (fun j =>
        let l := lines.getD j []
        decide (slIndex l = ixId b) && searchFits b l (qhK t) (qhEf t) (qhXmax t) (qhNprobe t) && decide (0 < acc.2.getD j 0))) with
    | some j => (acc.1 ++ [slWalker (lines.getD j [])], modifyAt acc.2 j (fun n => n - 1))
    | none => (acc.1 ++ [8], acc.2)) ([], lines.map slNqMax)).1

/-- First dispatch of a search task. -/
def Dev.startSearch (d : Dev) (r : Run) (task : Nat) (t : Task) (h : HostView) : Dev :=
  let arg0 := fieldAt t.bytes 0 8
  let len := fieldAt t.bytes 8 8
  let da := fieldAt t.bytes 16 8
  let hd := slice t.bytes 28 32
  match d.idxById (fieldAt t.bytes 24 4) with
  | none => d.setTaskAt r.id task (fun t => { t with done := true })
  | some x =>
    let b := x.blk
    let size := queryBytes b (qhForm hd)
    let place (i : Nat) : Nat := 64 + i * roundUp size 64
    let bad (i : Nat) : Bool := decide (len < place i + size) || (decide (ixKind b = 1 ∧ qhForm hd = 1))
    let ws := matchSearch b (d.searchLines r.wb r.job) hd bad
    let q0 (i : Nat) : Query := ⟨ws.getD i 8, qhForm hd, qhK hd, qhEf hd, qhXmax hd, qhNprobe hd, [], none, false, 0, 0, 0, [], false⟩
    let fan := ixSharded b && !qhLocal hd
    let shards := if fan then (onesOf (ixShards b) 16).filter (fun s => decide (s ≠ d.shard)) else []
    let s : Search := ⟨r.id, task, x.slot, x.epochFor r.id, some da, (List.range (qhNq hd)).map q0, d.nextId, shards,
      if fan then some (d.now + 1000 * qhWait hd) else none, []⟩
    let d := { d with searches := d.searches ++ [s], nextId := d.nextId + qhNq hd }
    let d := d.setTaskAt r.id task (fun t => { t with band := 1 })
    let crc := d.mem.word (ixRoot b + 36) 4
    (List.range (qhNq hd)).foldl (fun d i =>
      let q := q0 i
      if q.walker = 8 then d.endQuery r task i (q.fail 9 0 0)
      else
        match d.read (pseWho r q.walker) h (arg0 + place i) size with
        | (d, .error e) =>
          let y := d.queryError q.walker q e
          y.1.endQuery r task i y.2
        | (d, .ok body) =>
          let q := { q with body := body }
          let d := d.setSearch r.id task (fun s => { s with queries := modifyAt s.queries i (fun _ => q) })
          (shards.filter d.reaches).foldl (fun d sh => d.wakeSend sh (s.tag + i) 6 (queryMsg (ixId b) crc q)) d) d

/-- Queries that walker `w` has still to run. -/
def Search.pendingOn (s : Search) (w : Nat) : List Nat :=
  (List.range s.queries.length).filter (fun i =>
    match s.queries[i]? with | some q => decide (q.walker = w) && !q.done | none => false)

/-- The first search task of a run that walker `w` can work on. -/
def Dev.pseReady (d : Dev) (r : Run) (w : Nat) : Option Nat :=
  (List.range r.tasks.length).find? (fun k =>
    match r.tasks[k]? with
    | some t => decide (t.sort = 2) && !t.done &&
        (match d.search r.id k with
         | some s => !(s.pendingOn w).isEmpty
         | none => (d.searchLines r.wb r.job).any (fun l => decide (slWalker l = w)))
    | none => false)

/-- Query `i` of a search on walker `w`; `ue` gives the address being read when its store fails. -/
def Dev.runQuery (d : Dev) (r : Run) (task w i : Nat) (ue : Option Nat) : Dev :=
  match d.search r.id task with
  | none => d
  | some s =>
    match s.queries[i]?, d.idx s.idx with
    | some q, some x =>
      let d := (d.addWrap R.PSE_WALKER_STAT.QUERIES w 0 1).count 4 2 1 (r.who 10 w none |>.occ (ixRoot x.blk))
      match ue with
      | some a =>
        let d := ((d.logPse w 2 a).set R.PSE_WALKER_STAT.ECC_UE w 0 1).suspect ⟨10, w⟩
        let d := d.endQuery r task i (q.fail 7 0 a)
        if r.safety then d.dangerous 7 0 a false none else d
      | none =>
        let a := answer d.mem x.blk d.shard (s.epoch % 2) q
        match d.readRanges (pseWho r w) a.2.2 with
        | (d, .error e) =>
          let y := d.queryError w q e
          y.1.endQuery r task i y.2
        | (d, .ok _) => d.endQuery r task i { q with done := true, hits := a.1, trunc := a.2.1 }
    | _, _ => d

/-- R332: one step of walker `w`: up to 32 queries of the run that comes first. -/
def Dev.walkerStep (d : Dev) (w : Nat) (h : HostView) (ue : List (Nat × Nat)) : Dev :=
  match minBy edf (d.runs.filter (fun r => r.eligible && (d.pseReady r w).isSome)) with
  | none => d
  | some r =>
    match d.pseReady r w with
    | none => d
    | some k =>
      d.unlessFenced r.id (d.isFenced 10 w) <|
      let d := d.markStarted r.id
      let d := match d.search r.id k, r.tasks[k]? with
        | none, some t => d.startSearch r k t h
        | _, _ => d
      match d.search r.id k with
      | none => d
      | some s => ((((s.pendingOn w).take 32).foldl (fun d i => d.runQuery r k w i (ue.lookup i)) d).endSearch r.id k)

/-! ### Serving (R344) -/

/-- SERVE lines of an almanac entry's job that can take a query on index `x`. -/
def Dev.serves (d : Dev) (x : Idx) (q : RemoteQuery) : Bool :=
  d.cal.entries.any (fun e => (d.searchLines e.wb e.alm.job).any (fun l =>
    slServe l && decide (slIndex l = ixId x.blk) && searchFits x.blk l q.k q.ef q.xmax q.nprobe))

/-- R344: CB_CRC of a remote query differs. -/
def Dev.cbMismatch (d : Dev) (x : Idx) (shard : Nat) : Dev :=
  ((d.set R.PSE_INDEX_STAT.CB_MISMATCH x.slot 0 1).logPse 0 6 0).eventAll (d.idxCtxs x) 0x52 0 0
    (leBytes 1 x.slot ++ leBytes 1 shard) 0

/-- A refusal: the reason byte 1 for another reason, 2 for CB_CRC (DESIGN CHOICE, unsafe, log entry 25). -/
def Dev.refuseQuery (d : Dev) (q : RemoteQuery) (cb : Bool) : Dev :=
  d.peerSend q.requester q.tag 7 (leBytes 4 0 ++ leBytes 2 (if cb then 0x200 else 0x100))

/-- R344: a remote query arrives. -/
def Dev.remoteQuery (d : Dev) (q : RemoteQuery) : Dev :=
  match d.idxById q.indexId.toNat with
  | none => d.refuseQuery q false
  | some x =>
    if d.mem.word (ixRoot x.blk + 36) 4 ≠ q.cbCrc.toNat then (d.cbMismatch x q.requester).refuseQuery q true
    else if 1024 ≤ x.remote.length ∨ d.serves x q = false then d.refuseQuery q false
    else d.setIdx x.slot (fun x => { x with remote := x.remote ++ [q] })

/-- R344: what a run of a job with SERVE lines takes at its release: the searches and tasks it works on, the first task
having number `n`, and the indices without the queries taken. -/
def Dev.takeRemote (d : Dev) (wb job run n : Nat) : Dev × List Task :=
  ((d.searchLines wb job).filter slServe).foldl (fun (acc : Dev × List Task) l =>
    match acc.1.idxById (slIndex l) with
    | none => acc
    | some x =>
      let ok (q : RemoteQuery) : Bool := searchFits x.blk l q.k q.ef q.xmax q.nprobe
      let mine := (x.remote.filter ok).take (slNqMax l)
      if mine.isEmpty then acc
      else
        let qs := mine.map (fun q =>
          (⟨slWalker l, q.qform, q.k, q.ef, q.xmax, q.nprobe, q.body, some (q.requester, q.tag), false, 0, 0, 0, [], false⟩ : Query))
        let s : Search := ⟨run, n + acc.2.length, x.slot, x.epoch, none, qs, 0, [], none, []⟩
        let d := acc.1.setIdx x.slot (fun x => { x with remote := x.remote.filter (fun q => decide (q ∉ mine)) })
        ({ d with searches := d.searches ++ [s] }, acc.2 ++ [newTask 2 []])) (d, [])

/-- R345: a reply arrives. -/
def Dev.searchAnswer (d : Dev) (tag shard : Nat) (a : ShardReply) : Dev :=
  match d.searches.find? (fun s => decide (shard ∈ s.shards ∧ s.tag ≤ tag ∧ tag < s.tag + s.queries.length)) with
  | none => d
  | some s =>
    let i := tag - s.tag
    let y : Reply := match a with
      | .list e hits tr => ⟨shard, i, false, e.toNat, hits, tr⟩
      | .refused _ => ⟨shard, i, true, 0, [], false⟩
    let d := match a, d.idx s.idx with
      | .refused true, some x => d.cbMismatch x shard
      | _, _ => d
    let d := d.setSearch s.run s.task (fun s => { s with replies := s.replies ++ [y] })
    d.endSearch s.run s.task

end Sys2Proof.Machine
end

