-- ==== Sys2Proof/Machine/Wbook.lean ====
section
/-! DEFINITION. The workbook container as bytes: form, sections, records, the signature (R395 to R404), the code checks
(R377, R382, R383, R388, R390, R392). -/

namespace Sys2Proof.Machine

/-! ### Header, directory (R395, R396) -/

/-- A directory entry. -/
structure Sect where
  ty : Nat
  ix : Nat
  off : Nat
  len : Nat
  rsv : Nat
  deriving DecidableEq, Repr

def wbSects (im : List Byte) : List Sect :=
  (List.range (fieldAt im 14 2)).map (fun k =>
    let o := 64 + 16 * k
    ⟨fieldAt im o 2, fieldAt im (o + 2) 2, fieldAt im (o + 8) 4, fieldAt im (o + 12) 4, fieldAt im (o + 4) 4⟩)

def Sect.bytes (s : Sect) (im : List Byte) : List Byte := slice im s.off s.len

/-- The section of a type, empty where there is none. -/
def wbSect (im : List Byte) (ty : Nat) : List Byte :=
  match (wbSects im).find? (fun s => decide (s.ty = ty)) with
  | some s => s.bytes im
  | none => []

/-- INDEX of a section. -/
def wbCount (im : List Byte) (ty : Nat) : Nat := (((wbSects im).find? (fun s => decide (s.ty = ty))).map (·.ix)).getD 0

def wbFlags (im : List Byte) : Nat := fieldAt im 7 1
def wbSafety (im : List Byte) : Bool := bitOf (wbFlags im) 0
def wbComet (im : List Byte) : Bool := bitOf (wbFlags im) 1
def wbOrbit (im : List Byte) : Nat := fieldAt im 8 4
def wbPhases (im : List Byte) : Nat := fieldAt im 12 2

/-- INDEX of R396. -/
def Sect.ixOk (s : Sect) : Bool :=
  match s.ty with
  | 0x01 => decide (s.ix < 4)
  | 0x04 => decide (1 ≤ s.ix ∧ 32 * s.ix ≤ s.len)
  | 0x06 => decide (1 ≤ s.ix ∧ 64 * s.ix ≤ s.len)
  | _ => decide (s.ix = 0)

/-- R405 step 1: the form of an image of `len` bytes. -/
def wbFormOk (im : List Byte) (len : Nat) : Bool :=
  let n := fieldAt im 14 2
  let ss := wbSects im
  let floor := roundUp (64 + 16 * n) 64
  decide (fieldAt im 0 4 = 0x4257524E ∧ fieldAt im 4 2 = 2 ∧ fieldAt im 16 4 = len ∧ len % 64 = 0 ∧ 2 ≤ n ∧ n ≤ 64 ∧ floor ≤ len) &&
    ss.all (fun s => decide (s.ty ∈ [1, 2, 3, 4, 5, 6, 7, 8, 9, 0xA, 0xF]) && s.ixOk &&
      decide (s.rsv = 0 ∧ s.off % 64 = 0 ∧ floor ≤ s.off ∧ s.off + s.len ≤ len)) &&
    (List.range n).all (fun i => (List.range n).all (fun j =>
      match ss[i]?, ss[j]? with
      | some x, some y =>
        decide (i = j) || ((decide (x.ty ≠ y.ty) || (decide (x.ty = 1) && decide (x.ix ≠ y.ix))) &&
          decide (x.off + x.len ≤ y.off ∨ y.off + y.len ≤ x.off))
      | _, _ => true)) &&
    (match ss.findIdx? (fun s => decide (s.ty = 0xF)) with
     | none => true
     | some i =>
       match ss[i]? with
       | some s => decide (i + 1 = n ∧ s.off + s.len = len) && ss.all (fun x => decide (x = s ∨ x.off + x.len ≤ s.off ∧ x.off < s.off))
       | none => true)

/-! ### Signature (R404) -/

/-- The key hash fused in a slot, unless the slot is empty or revoked. -/
def Dev.keyHash (d : Dev) (slot : Nat) : Option (List Byte) :=
  let h := (List.range 12).flatMap (fun i => leBytes 4 (d.fuse (40 + 12 * slot + i)))
  if bitOf (d.fuse 5) (16 + slot) || h.all (fun b => decide (b = 0)) then none else some h

/-- R405 step 2 on a signature section over a signed message: subcode of BAD_SIGNATURE. -/
def Dev.sigBad (d : Dev) (sg msg : List Byte) : Option Nat :=
  let key := slice sg 8 97
  if sg.length ≠ 256 ∨ fieldAt sg 0 1 ≠ 1 ∨ 7 < fieldAt sg 1 1 ∨ leNat (slice sg 2 6) ≠ 0 ∨ leNat (slice sg 105 7) ≠ 0 ∨
      leNat (slice sg 208 48) ≠ 0 then some 4
  else if d.keyHash (fieldAt sg 1 1) ≠ some (sha384 key) then some 2
  else if !ecdsaOk key (sha384 msg) (beNat (slice sg 112 48)) (beNat (slice sg 160 48)) then some 1
  else none

/-- R404: loads that need a signature. -/
def Dev.sigNeeded (d : Dev) (part : Nat) (im : List Byte) : Bool :=
  bitOf (d.fuse 5) part || wbSafety im || d.isSafe part

/-- R405 step 2. -/
def Dev.wbSigBad (d : Dev) (part : Nat) (im : List Byte) : Option Nat :=
  match (wbSects im).find? (fun s => decide (s.ty = 0xF)) with
  | some s => d.sigBad (s.bytes im) (im.take s.off)
  | none => if d.sigNeeded part im then some 3 else none

/-! ### Records -/

/-- Place of record `k` in a section of fixed records. -/
def recAt (b : List Byte) (size k : Nat) : List Byte := slice b (size * k) size

def regionOf (b : List Byte) : Region :=
  ⟨fieldAt b 0 8, fieldAt b 8 8, fieldAt b 16 1, fieldAt b 17 1, fieldAt b 18 2, fieldAt b 20 1, fieldAt b 21 1, fieldAt b 24 4⟩

def wbRegions (im : List Byte) : List Region :=
  let b := wbSect im 2
  (List.range (b.length / 32)).map (fun k => regionOf (recAt b 32 k))

/-- Plans of a section from `off`, and where the walk ended. -/
def plansFrom (b : List Byte) (off fuel : Nat) : List (Nat × Plan) × Nat :=
  match fuel with
  | 0 => ([], off)
  | k + 1 =>
    if b.length < off + 16 then ([], off)
    else
      let n := fieldAt b (off + 2) 2
      let p : Plan := ⟨fieldAt b off 2, fieldAt b (off + 4) 1, (List.range n).map (fun i => slice b (off + 16 + 64 * i) 64)⟩
      let r := plansFrom b (off + 16 + 64 * n) k
      ((off, p) :: r.1, r.2)

def wbPlans (im : List Byte) : List (Nat × Plan) × Nat := let b := wbSect im 3; plansFrom b 0 (b.length / 16 + 1)

def costRec (b : List Byte) : CostRec :=
  ⟨fieldAt b 0 2, [fieldAt b 4 4, fieldAt b 8 4, fieldAt b 12 4, fieldAt b 16 4], fieldAt b 20 4⟩

/-- Cost vectors from `off`: places and vectors, and where the walk ended. -/
def costsFrom (b : List Byte) (off fuel : Nat) : List (Nat × CostVec) × Nat :=
  match fuel with
  | 0 => ([], off)
  | k + 1 =>
    if b.length < off + 32 then ([], off)
    else
      let n := fieldAt b (off + 2) 1
      let v : CostVec := ⟨fieldAt b off 2, fieldAt b (off + 3) 1, fieldAt b (off + 4) 4,
        [fieldAt b (off + 8) 4, fieldAt b (off + 12) 4, fieldAt b (off + 16) 4, fieldAt b (off + 20) 4],
        (List.range n).map (fun i => costRec (slice b (off + 32 + 24 * i) 24))⟩
      let r := costsFrom b (off + 32 + 24 * n) k
      ((off, v) :: r.1, r.2)

def wbCosts (im : List Byte) : List (Nat × CostVec) × Nat := let b := wbSect im 5; costsFrom b 0 (b.length / 32 + 1)

def almRec (b r : List Byte) : AlmRec :=
  { period := fieldAt r 0 4, deadline := fieldAt r 4 4, tmin := fieldAt r 8 4, lateTol := fieldAt r 12 4,
    offset := fieldAt r 16 2, cls := fieldAt r 18 1, clear := bitOf (fieldAt r 19 1) 0,
    inputs := (List.range (fieldAt r 20 2)).map (fun i => fieldAt b (fieldAt r 24 4 + 2 * i) 2), job := fieldAt r 22 2 }

def wbAlmanac (im : List Byte) : List AlmRec :=
  let b := wbSect im 4
  (List.range (wbCount im 4)).map (fun k => almRec b (recAt b 32 k))

/-- Engine tasks from `off`: each starts at a multiple of 64. -/
def tasksFrom (b : List Byte) (off n : Nat) : List (List Byte) × Nat :=
  match n with
  | 0 => ([], off)
  | k + 1 =>
    let len := 32 + 16 * fieldAt b (off + 2) 1 + 16 * fieldAt b (off + 3) 1 + fieldAt b (off + 4) 2
    let r := tasksFrom b (roundUp (off + len) 64) k
    (slice b off len :: r.1, if k = 0 then off + len else r.2)

def jobRec (b r : List Byte) : Job :=
  { num := fieldAt r 0 2, opclass := fieldAt r 2 1, safety := bitOf (fieldAt r 3 1) 0,
    entry := [fieldAt r 4 4, fieldAt r 8 4, fieldAt r 12 4, fieldAt r 16 4],
    tasks := (tasksFrom b (fieldAt r 20 4) (fieldAt r 24 2)).1,
    solves := (List.range (fieldAt r 26 1)).map (fun i => slice b (fieldAt r 28 4 + 24 * i) 24),
    searches := (List.range (fieldAt r 27 1)).map (fun i => slice b (fieldAt r 32 4 + 16 * i) 16),
    plans := (List.range (fieldAt r 40 2)).map (fun i => fieldAt b (fieldAt r 36 4 + 2 * i) 2) }

def wbJobs (im : List Byte) : List Job :=
  let b := wbSect im 6
  (List.range (wbCount im 6)).map (fun k => jobRec b (recAt b 64 k))

def wbFlagRecs (im : List Byte) : List (List Byte) :=
  let b := wbSect im 7
  (List.range (b.length / 8)).map (recAt b 8)

def wbRanges (im : List Byte) : List FlagRange :=
  ((wbFlagRecs im).filter (fun r => decide (fieldAt r 0 1 = 1))).map (fun r => ⟨fieldAt r 1 1, fieldAt r 2 2, fieldAt r 4 2⟩)

def wbTrees (im : List Byte) : List TreeDecl :=
  ((wbFlagRecs im).filter (fun r => decide (fieldAt r 0 1 = 2))).map (fun r => ⟨fieldAt r 1 1, fieldAt r 2 1, fieldAt r 4 2⟩)

def winDecl (r : List Byte) : WinDecl :=
  ⟨fieldAt r 0 1, decide (fieldAt r 1 1 = 1), fieldAt r 2 2, fieldAt r 4 2, fieldAt r 8 8, fieldAt r 16 8, fieldAt r 24 2,
    fieldAt r 26 2⟩

def wbWins (im : List Byte) : List WinDecl :=
  let b := wbSect im 8
  (List.range (b.length / 32)).map (fun k => winDecl (recAt b 32 k))

/-- CALIB blocks from `off` (R403): each header lies at a multiple of 64; type, header byte 2 to 3, block. -/
def calibFrom (b : List Byte) (off fuel : Nat) : List (Nat × Nat × List Byte) × Nat :=
  match fuel with
  | 0 => ([], off)
  | k + 1 =>
    let n := fieldAt b (off + 4) 4
    if b.length < off + 8 ∨ b.length < off + 8 + n then ([], off)
    else
      let r := calibFrom b (roundUp (off + 8 + n) 64) k
      ((fieldAt b off 2, fieldAt b (off + 2) 2, slice b (off + 8) n) :: r.1, r.2)

def wbCalib (im : List Byte) : List (Nat × Nat × List Byte) × Nat := let b := wbSect im 9; calibFrom b 0 (b.length / 64 + 1)

/-- Blocks of a CALIB type. -/
def wbBlocks (im : List Byte) (ty : Nat) : List (List Byte) :=
  ((wbCalib im).1.filter (fun x => decide (x.1 = ty))).map (·.2.2)

/-- Arrays with a CODE section: array, count of instructions, bytes. -/
def wbCode (im : List Byte) : List (Nat × Nat × List Byte) :=
  ((wbSects im).filter (fun s => decide (s.ty = 1))).map (fun s => (s.ix, s.len / 8, s.bytes im))

/-- The workbook of an image. -/
def parseWb (im : List Byte) (slot gen part : Nat) (ctx : Option Nat) : Wb :=
  let place := wbRegions im
  { slot := slot, gen := gen, part := part, ctx := ctx, flags := wbFlags im, orbit := wbOrbit im, phases := wbPhases im,
    code := (wbCode im).filterMap (fun c =>
      (place.find? (fun r => decide (r.kind = 1 ∧ r.array = c.1))).map (fun r => (c.1, r.da, c.2.1))),
    place := place, plans := (wbPlans im).1.map (·.2), almanac := wbAlmanac im, costs := (wbCosts im).1.map (·.2),
    jobs := wbJobs im, franges := wbRanges im, trees := wbTrees im, wins := wbWins im,
    calib := (wbCalib im).1.map (fun x => (x.1, x.2.2)) }

/-- Bytes as they will stand once the workbook is installed: initial data, zeros, or what memory holds now. -/
def Dev.afterLoad (d : Dev) (im : List Byte) (x n : Nat) : List Byte :=
  match (wbRegions im).find? (fun r => decide (r.da ≤ x ∧ x + n ≤ r.da + r.bytes)) with
  | some r =>
    if r.dataOff ≠ 0xFFFFFFFF then slice (wbSect im 0xA) (r.dataOff + (x - r.da)) n
    else if bitOf r.flags 2 then List.replicate n 0
    else d.mem.bytes x n
  | none => d.mem.bytes x n

/-! ### Code checks -/

def dBits : Nat := 0x1F * 2 ^ 51
def sBits : Nat := 0x1F * 2 ^ 46
def tBits : Nat := 0x1F * 2 ^ 41
def uBits : Nat := 0x1F * 2 ^ 36
def xBits (hi lo : Nat) : Nat := (2 ^ (hi + 1 - lo) - 1) * 2 ^ lo
def vxuBits (fn ty sat : Bool) : Nat :=
  xBits 24 12 + (if fn then xBits 35 30 else 0) + (if ty then xBits 29 26 else 0) + (if sat then xBits 25 25 else 0)

/-- Bits that an opcode uses besides OP (Table 14-3); none for an unknown opcode. With FR set the register T is used. -/
def usedBits (w : Nat) : Option Nat :=
  let fl := xBits 35 22 + (if iFr w then tBits else 0)
  match iOp w with
  | 0x00 | 0x01 | 0x02 | 0x0B => some 0
  | 0x03 => some (xBits 19 0)
  | 0x04 => some (fl + xBits 19 0)
  | 0x05 => some (sBits + tBits + xBits 23 0)
  | 0x06 => some (sBits + xBits 35 0)
  | 0x07 => some (dBits + xBits 1 0)
  | 0x08 => some (xBits 1 0)
  | 0x09 => some (dBits + sBits + xBits 35 33)
  | 0x0A => some sBits
  | 0x10 => some (dBits + xBits 47 0)
  | 0x11 | 0x12 | 0x15 | 0x16 => some (dBits + sBits + tBits)
  | 0x13 | 0x14 | 0x19 => some (dBits + sBits + xBits 31 0)
  | 0x17 => some (dBits + sBits + xBits 7 0)
  | 0x18 => some (dBits + xBits 2 0)
  | 0x1A => some (sBits + tBits + xBits 31 0)
  | 0x1B => some (dBits + (xBits 35 24 + xBits 22 22 + (if iFr w then tBits else 0)))
  | 0x20 => some (sBits + tBits + uBits + xBits 35 25 + xBits 23 12)
  | 0x21 | 0x22 => some (sBits + xBits 27 27)
  | 0x30 => some (dBits + sBits + tBits + uBits + vxuBits true true false)
  | 0x31 | 0x32 => some (dBits + sBits + tBits + vxuBits true true false)
  | 0x33 => some (dBits + sBits + tBits + uBits + vxuBits false false false)
  | 0x34 => some (dBits + sBits + vxuBits true true true)
  | 0x35 => some (dBits + sBits + tBits + uBits + vxuBits false true false + xBits 11 7)
  | 0x36 => some (dBits + sBits + vxuBits true true false)
  | 0x37 => some (dBits + sBits + tBits + vxuBits true false false)
  | 0x40 => some (sBits + tBits + uBits + xBits 35 31)
  | 0x48 | 0x49 => some (sBits + tBits + xBits 11 0)
  | 0x4A => some (dBits + sBits + tBits + xBits 1 0)
  | 0x4B => some (dBits + sBits + tBits + xBits 2 0)
  | 0x4C => some fl
  | 0x50 => some (fl + xBits 21 21)
  | 0x51 => some (fl + xBits 21 21 + xBits 5 0)
  | 0x52 => some (xBits 7 0)
  | _ => none

/-- R356: operand formats of one family that may meet in an MMA. -/
def mmaPair (a b : Nat) : Bool :=
  (decide (a ≤ 1) && decide (b ≤ 1)) || (decide (a ∈ [2, 3]) && decide (b ∈ [2, 3])) ||
    (decide (a ∈ [4, 5]) && decide (b ∈ [4, 5])) || (decide (a ∈ [6, 7]) && decide (a = b))

/-- Field values that an opcode has. -/
def fieldsOk (w : Nat) : Bool :=
  match iOp w with
  | 0x05 => decide (bitsOf w 23 20 ≤ 5)
  | 0x17 => decide (bitsOf w 7 6 ≤ 2)
  | 0x20 => mmaPair (bitsOf w 35 32) (bitsOf w 31 28)
  | 0x30 => decide (iFn w ≤ 13 ∧ iType w = 8)
  | 0x31 => decide (iFn w ≤ 12 ∧ iType w = 9)
  | 0x32 => decide (iFn w ≤ 2 ∧ (iType w = 8 ∨ iType w = 9))
  | 0x34 => decide (iFn w ≤ 9 ∧ iType w ≤ 9 ∧ (iFn w = 8 ∨ iFn w = 9 ∨ iType w = 8 ∨ iType w = 9))
  | 0x35 => decide (iType w ≤ 3)
  | 0x36 => decide (iFn w ≤ 2 ∧ (iType w = 8 ∨ iType w = 9))
  | 0x37 => decide (iFn w ≤ 1)
  | 0x52 => decide (bitsOf w 7 6 ≤ 2)
  | 0x04 | 0x1B | 0x4C => !iFr w || decide (iFlag w = 0)
  | 0x50 | 0x51 => (!iFr w || decide (iFlag w = 0)) && (!iClr w || iV w)
  | _ => true

/-- R388: an index lies in a range that the workbook declares, or in the flag range of a window it exports or imports. -/
def flagDeclared (im : List Byte) (i : Nat) : Bool :=
  (wbRanges im).any (fun r => decide (r.first ≤ i ∧ i < r.first + r.count)) ||
    (wbWins im).any (fun w => decide (w.ffirst ≤ i ∧ i < w.ffirst + w.fcount))

/-- Flags that an instruction names in its word. -/
def namedFlags (w : Nat) : List Nat :=
  match iOp w with
  | 0x04 | 0x1B | 0x4C | 0x50 => if iFr w then [] else [iFlag w]
  | 0x51 => if iFr w then [] else (List.range (bitsOf w 5 0 + 1)).map (fun k => iFlag w + k)
  | _ => []

/-- Loops of a code section: index of the first instruction of the body, index after it, LC. -/
def codeLoops (ws : List Nat) : List (Nat × Nat × Nat) :=
  (ws.zipIdx.filter (fun x => decide (iOp x.1 = 6))).map (fun x => (x.2 + 1, x.2 + 1 + bitsOf x.1 31 17, bitsOf x.1 35 33))

/-- Branch targets: from, to. -/
def codeBranches (ws : List Nat) : List (Nat × Int) :=
  (ws.zipIdx.filter (fun x => decide (iOp x.1 = 3 ∨ iOp x.1 = 4 ∨ iOp x.1 = 5))).map (fun x => (x.2, (x.2 : Int) + iOff x.1))

/-- R382. -/
def loopsOk (ws : List Nat) : Bool :=
  let ls := codeLoops ws
  ls.all (fun l =>
    let outer := ls.filter (fun o => decide (o.1 ≤ l.1 - 1 ∧ l.1 - 1 < o.2.1))
    decide (l.2.1 ≤ ws.length) && outer.all (fun o => decide (l.2.1 ≤ o.2.1 ∧ o.2.2 ≠ l.2.2)) && decide (outer.length < 8)) &&
  (codeBranches ws).all (fun b =>
    decide (0 ≤ b.2 ∧ b.2 < ws.length) &&
      ls.all (fun l => !decide ((l.1 : Int) ≤ b.2 ∧ b.2 < l.2.1) || decide (l.1 ≤ b.1 ∧ b.1 < l.2.1)))

/-- The content check of a CODE section (R376, R377, R382, R383, R388, R390, R392). -/
def codeOk (im : List Byte) (a : Nat) (b : List Byte) : Bool :=
  let ws := (List.range (b.length / 8)).map (fun i => fieldAt b (8 * i) 8)
  let rs := (wbRegions im).filter (fun r => decide (r.kind = 1 ∧ r.array = a))
  let tails := (wbRegions im).filter (fun r => decide (r.kind = 3 ∧ r.array = a))
  decide (b.length % 8 = 0 ∧ 0 < b.length ∧ rs.length = 1) &&
    rs.all (fun r => decide (b.length ≤ r.bytes ∧ r.dataOff = 0xFFFFFFFF)) &&
    ws.all (fun w =>
      (match usedBits w with
       | some m => decide (Nat.land w (2 ^ 56 - 1 - m) = 0)
       | none => false) && fieldsOk w && (namedFlags w).all (flagDeclared im) &&
      (!decide (iOp w = 0x52) || (wbTrees im).any (fun t => decide (t.tree = bitsOf w 5 0))) &&
      (!decide (iOp w = 7 ∨ iOp w = 8) || (wbComet im && tails.any (fun r => decide (bitsOf w 1 0 < r.segs))))) &&
    loopsOk ws

end Sys2Proof.Machine
end

