-- ==== Sys2Proof/Machine/WbCheck.lean ====
section
/-! DEFINITION. The content checks of LOAD_WB that are not on code: header, records, engine tasks, surfaces, track, map,
index and channel blocks (R405 step 3). -/

namespace Sys2Proof.Machine

/-! ### Header, placement, copy plans -/

/-- R44: an orbit and a phase count that a partition may have. -/
def orbitOk (orbit phases : Nat) : Bool :=
  decide (250000 ≤ orbit ∧ orbit ≤ 100000000 ∧ 1 ≤ phases ∧ phases ≤ 4096 ∧ orbit % max 1 phases = 0)

/-- Table 14-6, R44. -/
def Dev.headerOk (d : Dev) (part : Nat) (im : List Byte) : Bool :=
  let o := wbOrbit im
  let c := d.pcal part
  decide (fieldAt im 6 1 = d.parts ∧ wbFlags im < 4 ∧ fieldAt im 20 4 = 0 ∧ leNat (slice im 40 24) = 0) &&
    (if o = 0 then decide (wbPhases im = 0) && !(wbSects im).any (fun s => decide (s.ty = 4))
     else orbitOk o (wbPhases im) &&
       (decide (o = c.orbit ∧ wbPhases im = c.phases) || !d.cal.entries.any (fun e => decide (e.part = part))))

def safeTwin (rs : List Region) (r : Region) : Bool :=
  if r.twin = 0xFFFF then true
  else match rs[r.twin]? with
    | some t =>
      (match rgnOf r.da, rgnOf t.da with
       | .t2 a _, .t2 b _ => decide (a ≠ b)
       | _, _ => false) && decide (t.bytes = r.bytes)
    | none => false

/-- Table of R397, R147, R376. -/
def placementOk (im : List Byte) : Bool :=
  let b := wbSect im 2
  let rs := wbRegions im
  let data := wbSect im 0xA
  decide (b.length % 32 = 0) &&
    (List.range rs.length).all (fun k =>
      let x := recAt b 32 k
      let r := regionOf x
      decide (r.kind ≤ 3 ∧ r.flags < 8 ∧ fieldAt x 22 2 = 0 ∧ fieldAt x 28 4 = 0 ∧ r.bytes ≠ 0 ∧ r.da + r.bytes ≤ 2 ^ 48) &&
        oneWindow r.da r.bytes && safeTwin rs r &&
        (if r.kind = 3 then decide (1 ≤ r.segs ∧ r.segs ≤ 3) else decide (r.segs = 0)) &&
        (decide (r.kind ≠ 1 ∧ r.kind ≠ 3) || decide (r.array < 4)) &&
        (decide (r.kind ≠ 1) || (wbCode im).any (fun c => decide (c.1 = r.array))) &&
        (decide (r.dataOff = 0xFFFFFFFF) || decide (r.dataOff + r.bytes ≤ data.length)))

/-- The device with the workbook's windows and imports in force, for the tests of addresses. -/
def Dev.withWb (d : Dev) (w : Wb) : Dev :=
  { d with
    wbs := d.wbs ++ [w]
    wins := d.wins ++ ((w.wins.filter (fun x => !x.import_)).map (fun x => ⟨x, w.part, w.slot⟩)) }

/-- R398, R130, R388. -/
def Dev.plansOk (d : Dev) (w : Wb) (im : List Byte) : Bool :=
  let b := wbSect im 3
  let ps := wbPlans im
  let e := d.withWb w
  decide (ps.2 = b.length) &&
    ps.1.all (fun p =>
      let n := p.2.descs.length
      decide (1 ≤ n ∧ n ≤ 1024 ∧ p.1 + 16 + 64 * n ≤ b.length ∧ leNat (slice b (p.1 + 5) 11) = 0 ∧
          (ps.1.filter (fun q => decide (q.2.num = p.2.num))).length = 1) &&
        p.2.descs.all (fun x => (e.moverBad w.part w.ctx x).isNone &&
          (!mvDone x || flagDeclared im (fieldAt x 2 2)) && (!mvStart x || flagDeclared im (fieldAt x 4 2))))

/-! ### Almanac, costs, jobs, flags -/

/-- Table 02-2, R80, R399. -/
def Dev.almanacOk (d : Dev) (w : Wb) (im : List Byte) (safeCtx : Bool) : Bool :=
  let b := wbSect im 4
  let n := wbCount im 4
  let ph := wbOrbit im / max 1 (wbPhases im)
  decide (32 * n ≤ b.length) &&
    (List.range n).all (fun k =>
      let x := recAt b 32 k
      let r := almRec b x
      let ni := fieldAt x 20 2
      decide (fieldAt x 19 1 < 2 ∧ fieldAt x 28 4 = 0 ∧ ph ≠ 0 ∧ r.period ≠ 0 ∧ r.period % max 1 ph = 0 ∧
          wbOrbit im % max 1 r.period = 0 ∧ r.offset * ph < r.period ∧ ph ≤ r.deadline ∧ r.deadline ≤ r.period ∧
          3 * r.period ≤ 4 * r.tmin ∧ 64 * r.tmin ≤ 63 * r.period ∧ r.cls ≤ 1 ∧ ni ≤ 64) &&
        (if r.cls = 1 then d.isSafe w.part && safeCtx && decide (r.lateTol ≤ 1500000) else decide (r.lateTol ≤ 100 * r.period)) &&
        (decide (ni = 0) || decide (32 * n ≤ fieldAt x 24 4 ∧ fieldAt x 24 4 + 2 * ni ≤ b.length)) &&
        r.inputs.all (flagDeclared im) &&
        w.jobs.any (fun j => decide (j.num = r.job ∧ j.opclass = 0)))

/-- Table 02-3, R396. -/
def costsOk (w : Wb) (im : List Byte) : Bool :=
  let b := wbSect im 5
  let vs := wbCosts im
  decide (vs.2 = b.length) &&
    vs.1.all (fun v =>
      let o := v.1
      let n := v.2.recs.length
      decide (1 ≤ n ∧ n ≤ 48 ∧ o + 32 + 24 * n ≤ b.length ∧ v.2.flags < 8 ∧ v.2.rollback ≤ 40000 ∧
          fieldAt b (o + 24) 8 = 0 ∧ (vs.1.filter (fun x => decide (x.2.job = v.2.job))).length = 1) &&
        (bitOf v.2.flags 0 || decide (v.2.rollback = 0)) &&
        w.jobs.any (fun j => decide (j.num = v.2.job)) &&
        (List.range n).all (fun k => decide (fieldAt b (o + 32 + 24 * k + 2) 2 = 0)) &&
        v.2.recs.all (fun r => resExists r.res))

/-- Largest N of Table 11-1. -/
def gangLimit (gang prec : Nat) : Nat :=
  match gang with
  | 0 => 64
  | 1 => 128
  | _ => if prec = 2 then 256 else 384

/-- R305, Tables 11-1, 11-2, 11-4. -/
def solveLineOk (l : List Byte) : Bool :=
  let k := fieldAt l 0 1
  let n := fieldAt l 4 2
  let kk := fieldAt l 6 2
  let m := fieldAt l 8 4
  let obs := fieldAt l 12 4
  decide (1 ≤ k ∧ k ≤ 6 ∧ fieldAt l 1 1 ≤ 2 ∧ fieldAt l 2 1 ≤ 2 ∧ fieldAt l 3 1 < 16 ∧ 1 ≤ n ∧ 1 ≤ fieldAt l 16 2 ∧
      leNat (slice l 18 6) = 0 ∧ (if k = 5 then 6 * n else n) ≤ gangLimit (fieldAt l 2 1) (fieldAt l 1 1)) &&
    (match k with
     | 1 | 2 => decide (1 ≤ kk ∧ kk ≤ 16 ∧ m = 0 ∧ obs = 0)
     | 3 => decide (1 ≤ kk ∧ kk ≤ 16 ∧ n ≤ m ∧ m ≤ 65536 ∧ obs = 0)
     | 4 => decide (kk = 0 ∧ n ≤ m ∧ m ≤ 65536 ∧ obs = 0)
     | 5 => decide (kk = 0 ∧ 1 ≤ m ∧ m ≤ 32768 ∧ 1 ≤ obs ∧ obs ≤ 1048576)
     | _ => decide (1 ≤ kk ∧ kk < n ∧ m = 0 ∧ obs = 0))

/-- R330: a line names an index declared by a loaded workbook of the partition, or by this one. -/
def Dev.indexDeclared (d : Dev) (part id : Nat) (im : List Byte) : Bool :=
  d.idxs.any (fun x => decide (x.part = part ∧ ixId x.blk = id)) || (wbBlocks im 3).any (fun b => decide (ixId b = id))

/-! ### Engine tasks and surfaces (R223, R224, R227, R230) -/

def sfList (s : List Byte) : Bool := decide (sfFormat s ∈ [0x30, 0x31, 0x32])

/-- Tables 08-2 and 08-3. -/
def surfaceOk (s : List Byte) : Bool :=
  let f := sfFormat s
  let h := fieldAt s 18 2
  let rows := fieldAt s 20 2
  let n := fieldAt s 23 1
  let need := if f = 0x30 then 0x1000 else if f = 0x31 ∨ f = 0x32 then 0x2000 else 0x1000 + sfStride s * h
  decide (f ∈ [1, 2, 5, 6, 0x20, 0x21, 0x22, 0x30, 0x31, 0x32]) &&
    decide (sfBase s % 4096 = 0 ∧ sfBytes s % 4096 = 0 ∧ need ≤ sfBytes s ∧ 16 ≤ sfWidth s ∧ sfWidth s ≤ 4096 ∧ 1 ≤ h ∧ h ≤ 3072 ∧
      8 ≤ rows ∧ rows ≤ 3072 ∧ ceilDiv h rows ≤ 64 ∧ 1 ≤ n ∧ n ≤ 8 ∧ 1 ≤ sfReaders s ∧ sfReaders s ≤ 4 ∧
      leNat (slice s 25 7) = 0 ∧ leNat (slice s 48 16) = 0) &&
    (if sfList s then decide (sfStride s = 0) else decide (sfStride s % 128 = 0 ∧ sfWidth s * sfPix f ≤ sfStride s)) &&
    (decide (f ≠ 0x31 ∧ f ≠ 0x32) || decide (rows = h))

/-- Every flag of a surface, in order of readers. -/
def surfaceFlags (s : List Byte) : List Nat :=
  (List.range (sfReaders s)).flatMap (fun r =>
    (List.range (sfNbuf s * sfBands s)).flatMap (fun k => [sfReady s r + k, sfCons s r + k]))

/-- R223, R224: the descriptor lies in the workbook's placement in T1 or T2, its flags in the share or, for a surface in a
shared-store window, in the window's range. -/
def Dev.surfaceAt (d : Dev) (w : Wb) (a : Nat) (s : List Byte) : Bool :=
  decide (a % 64 = 0 ∧ (tierOf a = 1 ∨ tierOf a = 2)) && w.place.any (fun r => decide (r.da ≤ a ∧ a + 64 ≤ r.da + r.bytes)) &&
    surfaceOk s &&
    (match w.wins.find? (fun x => decide (x.base ≤ sfBase s ∧ sfBase s < x.base + x.bytes)) with
     | some x => (surfaceFlags s).all (fun f => decide (x.ffirst ≤ f ∧ f < x.ffirst + x.fcount))
     | none => (surfaceFlags s).all (fun f => d.ownFlag w.part f))

/-- Units of a task kind, and the resource class of its unit. -/
def kindUnits (k : Nat) : Nat := match k with | 1 | 3 => 8 | _ => 4
def kindClass (k : Nat) : Nat := match k with | 1 => 3 | 2 => 4 | 3 => 5 | 4 => 6 | 5 => 7 | _ => 8

/-- What an input ref brings to the checks: TYPE, ROLE, format (0 for a landing ring or a map root), width, height. -/
structure RefInfo where
  ty : Nat
  role : Nat
  fmt : Nat
  w : Nat
  h : Nat
  deriving DecidableEq, Repr

def half (n k : Nat) : Nat := ceilDiv n (2 ^ k)

/-- An intensity image. -/
def inten (f : Nat) : Bool := decide (f = 1 ∨ f = 2)

/-- Format of a landing ring as a surface format (R185). -/
def ldFmt (b : List Byte) : Nat := if ldFormat b = 1 ∨ ldFormat b = 5 ∨ ldFormat b = 6 then ldFormat b else 2

/-- Parameter tables 08-7, 08-8, 08-10, 08-11 and 10-5, and the inputs and outputs that each kind takes. -/
def taskParams (k : Nat) (p : List Byte) (is os : List RefInfo) (outSizes : List Nat) : Bool :=
  let i (r : Nat) : Option RefInfo := is.find? (fun x => decide (x.role = r))
  let o (r : Nat) : Option RefInfo := os.find? (fun x => decide (x.role = r))
  let roles (l : List RefInfo) (rs : List Nat) : Bool :=
    l.all (fun x => decide (x.role ∈ rs)) && (dedup (l.map (·.role))).length == l.length
  match k with
  | 1 =>
    decide (p.length = 48 ∧ fieldAt p 0 1 ≤ 2 ∧ fieldAt p 1 1 ≤ 2 ∧ 3 ≤ fieldAt p 2 1 ∧ fieldAt p 2 1 ≤ 6 ∧ fieldAt p 3 1 ≤ 8 ∧
        fieldAt p 6 2 = 0 ∧ fieldAt p 44 4 = 0 ∧ is.length = 1 ∧ os.length = 1) && roles os [0] &&
      (match is[0]?, os[0]? with
       | some x, some y => (decide (x.fmt ≠ 6) || decide (fieldAt p 1 1 = 0)) &&
         decide (y.fmt = if x.fmt = 5 then 1 else if x.fmt = 2 ∧ fieldAt p 3 1 ≠ 0 then 1 else x.fmt) &&
         decide (x.fmt ∈ [1, 2, 5, 6])
       | _, _ => false)
  | 2 =>
    let n := fieldAt p 0 1
    decide (p.length = 8 ∧ 2 ≤ n ∧ n ≤ 6 ∧ fieldAt p 1 1 ≤ 1 ∧ leNat (slice p 2 6) = 0 ∧ is.length = 1 ∧ os.length = n - 1) &&
      roles os ((List.range (n - 1)).map (· + 1)) &&
      (match is[0]? with
       | some x => decide (x.fmt ∈ [1, 2, 6]) && (decide (x.fmt ≠ 6) || decide (fieldAt p 1 1 = 1)) &&
         os.all (fun y => decide (y.fmt = x.fmt ∧ y.w = half x.w y.role ∧ y.h = half x.h y.role))
       | none => false)
  | 3 =>
    let mf := fieldAt p 8 2
    decide (p.length = 16 ∧ 1 ≤ fieldAt p 0 1 ∧ 9 ≤ fieldAt p 1 1 ∧ fieldAt p 1 1 ≤ 12 ∧ fieldAt p 2 1 ≤ 8 ∧ fieldAt p 3 1 ≤ 5 ∧
        16 ≤ fieldAt p 4 2 ∧ fieldAt p 4 2 ≤ 256 ∧ 1 ≤ fieldAt p 6 1 ∧ fieldAt p 7 1 = 0 ∧ 1 ≤ mf ∧ mf ≤ 8192 ∧
        leNat (slice p 10 6) = 0 ∧ is.length = 1 ∧ os.length = 1) && roles os [0] &&
      is.all (fun x => inten x.fmt) &&
      (match is[0]?, os[0]? with
       | some x, some y => decide (y.fmt = 0x30 ∧ y.w = x.w ∧ y.h = x.h) && outSizes.all (fun b => decide (0x1000 + 64 * mf ≤ b))
       | _, _ => false)
  | 4 =>
    decide (p.length = 16 ∧ fieldAt p 0 2 ≤ 1791 ∧ fieldAt p 2 1 ≤ 3 ∧ (fieldAt p 3 1 = 4 ∨ fieldAt p 3 1 = 8) ∧ 1 ≤ fieldAt p 4 1 ∧
        fieldAt p 4 1 ≤ fieldAt p 5 1 ∧ fieldAt p 8 1 ≤ 8 ∧ leNat (slice p 9 3) = 0 ∧ is.length = 2) && roles is [0, 1] &&
      roles os [0, 1, 2] &&
      (match i 0, i 1, o 0 with
       | some l, some r, some y => inten l.fmt && decide (l.fmt = r.fmt ∧ l.w = r.w ∧ l.h = r.h ∧ y.fmt = 0x20) &&
         os.all (fun z => decide (z.w = l.w ∧ z.h = l.h ∧ z.fmt = (match z.role with | 0 => 0x20 | 1 => 0x22 | _ => 6))) &&
         ((o 2).isNone || decide (fieldAt p 12 4 ≠ 0))
       | _, _, _ => false)
  | 5 =>
    let n := fieldAt p 0 1
    let st := fieldAt p 3 1
    decide (p.length = 8 ∧ 1 ≤ n ∧ n ≤ 5 ∧ fieldAt p 1 1 ∈ [5, 7, 9] ∧ 1 ≤ fieldAt p 2 1 ∧ fieldAt p 2 1 ≤ 8 ∧ st ≤ 2 ∧
        fieldAt p 4 1 ≤ 16 ∧ 1 ≤ fieldAt p 5 1 ∧ fieldAt p 6 1 ≤ 8 ∧ fieldAt p 7 1 = 0 ∧ is.length = 2 * n) &&
      roles is (List.range (2 * n)) && roles os [0, 1] &&
      (match i 0, o 0 with
       | some x, some _ => inten x.fmt &&
         is.all (fun z => decide (z.fmt = x.fmt ∧ z.w = half x.w (z.role / 2) ∧ z.h = half x.h (z.role / 2))) &&
         os.all (fun z => decide (z.w = half x.w st ∧ z.h = half x.h st ∧ z.fmt = if z.role = 0 then 0x21 else 0x22))
       | _, _ => false)
  | 6 =>
    decide (p.length = 16 ∧ 1 ≤ fieldAt p 2 1 ∧ fieldAt p 2 1 ≤ 64 ∧ leNat (slice p 3 5) = 0 ∧ is.length = 2 ∧ os.length = 1) &&
      roles is [0, 1] && (i 0).any (fun x => decide (x.ty = 2)) && roles os [0] && os.all (fun y => decide (y.fmt = 0x31))
  | 7 =>
    decide (p.length = 8 ∧ fieldAt p 3 1 = 0 ∧ is.length = 2) && roles is [0, 1] && (i 0).any (fun x => decide (x.ty = 2)) &&
      roles os [0, 1] && (o 0).isSome &&
      (match i 1 with
       | some x => os.all (fun y => decide (y.w = x.w ∧ y.h = x.h ∧ y.fmt = if y.role = 0 then 6 else 1))
       | none => false)
  | 8 =>
    decide (20 ≤ p.length ∧ p.length ≤ 24 ∧ leNat (slice p 5 3) = 0 ∧ fieldAt p 12 1 ∈ [1, 2, 4] ∧ leNat (slice p 13 3) = 0 ∧
        leNat (slice p 20 4) = 0 ∧ os.length = 1) && roles is [0, 1] && (i 0).any (fun x => decide (x.fmt = 6)) &&
      (i 1).all (fun x => decide (x.fmt = 1)) && roles os [0] && os.all (fun y => decide (y.fmt = 0x32))
  | _ =>
    decide (p.length = 16 ∧ leNat (slice p 2 6) = 0 ∧ is.length = 2 ∧ os.length = 1) && roles is [0, 1] &&
      (i 0).any (fun x => decide (x.fmt = 0x30)) && (i 1).any (fun x => decide (x.fmt = 6)) && roles os [0] &&
      os.all (fun y => decide (y.fmt = 0x32))

/-- R230: a task that keeps to its tables. -/
def Dev.taskOk (d : Dev) (w : Wb) (im b : List Byte) : Bool :=
  let t : Task := newTask 0 b
  let k := t.kind
  let ins := t.ins.map (fun r =>
    let x := d.afterLoad im (refDa r) 64
    match refType r with
    | 0 => (⟨0, refRole r, sfFormat x, sfWidth x, sfHeight x⟩ : RefInfo)
    | 1 => ⟨1, refRole r, ldFmt x, ldWidth x, ldHeight x⟩
    | _ => ⟨2, refRole r, 0, 0, 0⟩)
  let outs := t.outs.map (fun r => let x := d.afterLoad im (refDa r) 64; (⟨0, outRole r, sfFormat x, sfWidth x, sfHeight x⟩ : RefInfo))
  decide (1 ≤ k ∧ k ≤ 9 ∧ t.unit < kindUnits k ∧ 1 ≤ t.nin ∧ t.nin ≤ 10 ∧ 1 ≤ t.nout ∧ t.nout ≤ 5 ∧ fieldAt b 6 2 = 0 ∧
      leNat (slice b 16 16) = 0) &&
    t.ins.all (fun r =>
      let x := d.afterLoad im (refDa r) 64
      decide (leNat (slice r 11 5) = 0) &&
        (match refType r with
         | 0 => d.surfaceAt w (refDa r) x && decide (refReader r < sfReaders x)
         | 1 => decide (refReader r = 0) && d.inShare w.part (refDa r) 64
         | 2 => decide (k = 6 ∨ k = 7)
         | _ => false)) &&
    t.outs.all (fun r => decide (leNat (slice r 9 7) = 0) && d.surfaceAt w (refDa r) (d.afterLoad im (refDa r) 64)) &&
    taskParams k t.par ins outs (t.outs.map (fun r => sfBytes (d.afterLoad im (refDa r) 64)))

/-- R224, R227 over all tasks of a workbook: no surface written twice, no two flags alike, no landing ring read twice. -/
def Dev.tasksTogether (d : Dev) (w : Wb) (im : List Byte) : Bool :=
  let ts := (w.jobs.flatMap (·.tasks)).map (newTask 0)
  let outs := ts.flatMap (fun t => t.outs.map refDa)
  let rings := ts.flatMap (fun t => (t.ins.filter (fun r => decide (refType r = 1))).map refDa)
  let all := dedup (outs ++ ts.flatMap (fun t => (t.ins.filter (fun r => decide (refType r = 0))).map refDa))
  let flags := all.flatMap (fun a => surfaceFlags (d.afterLoad im a 64))
  decide ((dedup outs).length = outs.length ∧ (dedup rings).length = rings.length ∧ (dedup flags).length = flags.length)

/-- R435: a safety-class job's copy plans and engine tasks read no T3. -/
def jobT3 (w : Wb) (j : Job) : Bool :=
  (j.safety || w.almanac.any (fun a => decide (a.job = j.num ∧ a.cls = 1))) &&
    ((w.plans.filter (fun p => decide (p.num ∈ j.plans))).any (fun p => p.descs.any (fun b => !mvZero b && isT3 (mvSrc b))) ||
      j.tasks.any (fun b =>
        let t : Task := newTask 0 b
        isT3 t.calib || t.ins.any (fun r => isT3 (refDa r))))

/-- R400 with the lines, tasks and plan lists of a job. -/
def Dev.jobsOk (d : Dev) (w : Wb) (im : List Byte) : Bool :=
  let b := wbSect im 6
  let n := wbCount im 6
  decide (64 * n ≤ b.length) && (wbSects im).any (fun s => decide (s.ty = 5)) && d.tasksTogether w im &&
    (List.range n).all (fun k =>
      let x := recAt b 64 k
      let j := jobRec b x
      let fits (cnt off size align : Nat) : Bool :=
        decide (cnt = 0) || decide (64 * n ≤ off ∧ off + cnt * size ≤ b.length ∧ off % align = 0)
      decide (j.opclass ≤ 5 ∧ fieldAt x 3 1 < 2 ∧ leNat (slice x 42 22) = 0 ∧ fieldAt x 26 1 ≤ 16 ∧ fieldAt x 27 1 ≤ 8 ∧
          (w.jobs.filter (fun q => decide (q.num = j.num))).length = 1 ∧
          (w.costs.filter (fun v => decide (v.job = j.num))).length = 1) &&
        (List.range 4).all (fun a =>
          let e := j.entry.getD a 0xFFFFFFFF
          decide (e = 0xFFFFFFFF) ||
            ((wbCode im).any (fun c => decide (c.1 = a ∧ e < c.2.1)) && !(d.slicesOf a w.part).isEmpty)) &&
        fits (fieldAt x 24 2) (fieldAt x 20 4) 32 64 && fits (fieldAt x 26 1) (fieldAt x 28 4) 24 1 &&
        fits (fieldAt x 27 1) (fieldAt x 32 4) 16 1 && fits (fieldAt x 40 2) (fieldAt x 36 4) 2 1 &&
        decide ((tasksFrom b (fieldAt x 20 4) (fieldAt x 24 2)).2 ≤ b.length ∨ fieldAt x 24 2 = 0) &&
        j.tasks.all (fun t => d.taskOk w im t) && j.solves.all solveLineOk &&
        j.searches.all (fun l => !searchLineBad l && d.indexDeclared w.part (slIndex l) im) &&
        j.plans.all (fun p => w.plans.any (fun q => decide (q.num = p))) && !jobT3 w j)

/-- R401. -/
def flagsOk (w : Wb) (im : List Byte) : Bool :=
  decide ((wbSect im 7).length % 8 = 0) &&
    (wbFlagRecs im).all (fun r =>
      match fieldAt r 0 1 with
      | 1 => decide (fieldAt r 1 1 ≤ 1 ∧ fieldAt r 6 2 = 0)
      | 2 => decide (fieldAt r 2 1 < 16 ∧ fieldAt r 3 1 = 0 ∧ fieldAt r 6 2 = 0) && w.jobs.any (fun j => decide (j.num = fieldAt r 4 2))
      | _ => false)

/-! ### Windows (R24, R25, R402) -/

/-- WIN_PAIRS: partition `i` may export to partition `j`. -/
def Dev.pairOk (d : Dev) (i j : Nat) : Bool := bitOf (d.fuse (24 + (16 * i + j) / 32)) ((16 * i + j) % 32)

/-- Range of a window: one range of T1 or T2 of the owner's share, aligned and sized for its tier. -/
def Dev.winRangeOk (d : Dev) (p : Nat) (x : WinDecl) : Bool :=
  let u := if tierOf x.base = 1 then 0x1000 else 0x10000
  decide ((tierOf x.base = 1 ∨ tierOf x.base = 2) ∧ x.bytes ≠ 0 ∧ x.base % u = 0 ∧ x.bytes % u = 0) && d.inShare p x.base x.bytes

def winsMeet (x y : WinDecl) : Bool := decide (x.base < y.base + y.bytes ∧ y.base < x.base + x.bytes)

/-- Partitions other than `p` that a window's masks name. -/
def WinDecl.others (x : WinDecl) (p : Nat) : List Nat := (onesOf (Nat.lor x.readers x.writers) 16).filter (fun k => decide (k ≠ p))

/-- R402, R24, R25. -/
def Dev.windowsOk (d : Dev) (w : Wb) (im : List Byte) : Bool :=
  let b := wbSect im 8
  let p := w.part
  decide (b.length % 32 = 0) &&
    (List.range w.wins.length).all (fun k =>
      let r := recAt b 32 k
      let x := winDecl r
      decide (x.num < 64 ∧ fieldAt r 1 1 ≤ 1 ∧ fieldAt r 6 2 = 0 ∧ fieldAt r 28 4 = 0 ∧
          (w.wins.filter (fun y => decide (y.num = x.num))).length = 1) &&
        (if x.import_ then
           match d.wins.find? (fun v => decide (v.decl.num = x.num)) with
           | some v => decide ({ x with import_ := false } = v.decl) && (bitOf x.readers p || bitOf x.writers p) &&
             (decide (v.owner = p) || d.pairOk v.owner p)
           | none => false
         else
           d.winRangeOk p x && !d.wins.any (fun v => decide (v.decl.num = x.num) || winsMeet v.decl x) &&
             !(w.wins.zipIdx).any (fun y => decide (y.2 ≠ k) && !y.1.import_ && winsMeet y.1 x) &&
             (x.others p).all (fun j => decide (j < d.parts) && d.pairOk p j) &&
             (decide (x.fcount = 0) || (d.ownFlag p x.ffirst && d.ownFlag p (x.ffirst + x.fcount - 1))) &&
             (!d.isSafe p || (onesOf x.writers 16).all (fun j => decide (j = p)))))

/-! ### CALIB blocks (R245, R248 to R251, R272, R317, R436, R437) -/

def posF (v : Nat) : Bool := fp32.isFin v && !fp32.isZero v && !bitOf v 31

/-- Table 09-3. -/
def srcEntryOk (s : List Byte) (njoint : Nat) : Bool :=
  let k := fieldAt s 2 1
  decide (1 ≤ k ∧ k ≤ 6 ∧ fieldAt s 3 1 ≤ njoint) && (if k = 6 then decide (fieldAt s 56 8 = 0) else decide (fieldAt s 56 8 ≠ 0))

/-- R249. -/
def modelOk (k : Nat) (m : List Byte) : Bool :=
  match k with
  | 1 | 2 => decide (fieldAt m 0 1 ≤ 2 ∧ leNat (slice m 1 3) = 0 ∧ leNat (slice m 44 20) = 0) &&
      (decide (fieldAt m 0 1 ≠ 2) || decide (fieldAt m 40 4 = 0))
  | 3 => (List.range 6).all (fun i => decide (fieldAt m i 1 ≤ 11)) && decide (fieldAt m 6 2 = 0 ∧ leNat (slice m 36 28) = 0)
  | _ => true

/-- R248 to R251: the tables that a track block names. -/
def Dev.trackTablesOk (d : Dev) (im b : List Byte) : Bool :=
  let nj := fieldAt b 3 1
  let srcs := (List.range (fieldAt b 2 1)).map (fun i => d.afterLoad im (fieldAt b 48 8 + 64 * i) 64)
  let kind (i : Nat) : Nat := ((srcs[i]?).map (fun s => fieldAt s 2 1)).getD 0
  let pred := fieldAt b 8 1
  srcs.all (fun s => srcEntryOk s nj && modelOk (fieldAt s 2 1) (d.afterLoad im (fieldAt s 56 8) 64)) &&
    decide (kind pred = 3 ∧ ((srcs[pred]?).map (fun s => fieldAt s 3 1)) = some 0) &&
    (List.range nj).all (fun j =>
      let c := d.afterLoad im (fieldAt b 56 8 + 48 * j) 48
      decide (fieldAt c 0 1 ≤ 1 ∧ kind (fieldAt c 1 1) = 4 ∧ fieldAt c 2 1 ≤ 2 ∧ fieldAt c 3 1 = 0 ∧ leNat (slice c 32 16) = 0)) &&
    (List.range (fieldAt b 4 1)).all (fun j =>
      let c := d.afterLoad im (fieldAt b 64 8 + 256 * j) 256
      decide (1 ≤ fieldAt c 0 1 ∧ fieldAt c 0 1 ≤ nj ∧ kind (fieldAt c 1 1) = 6 ∧ 1 ≤ fieldAt c 2 1 ∧ fieldAt c 2 1 ≤ 6 ∧
        fieldAt c 3 1 = 0 ∧ leNat (slice c 196 60) = 0))

/-- R245: Table 09-1, the island and slot, the comet. -/
def Dev.trackOk (d : Dev) (w : Wb) (im b : List Byte) : Bool :=
  let isl := fieldAt b 0 1
  let depth := fieldAt b 5 1
  let pr := fieldAt b 8 1
  decide (b.length = 128 ∧ isl ≤ 3 ∧ fieldAt b 1 1 ≤ 7 ∧ 1 ≤ fieldAt b 2 1 ∧ fieldAt b 2 1 ≤ 32 ∧ fieldAt b 3 1 ≤ 12 ∧
      fieldAt b 4 1 ≤ 4 ∧ depth ≤ 3 ∧ 1 ≤ fieldAt b 6 1 ∧ fieldAt b 6 1 ≤ 15 ∧ 1 ≤ fieldAt b 7 1 ∧ pr < fieldAt b 2 1 ∧
      fieldAt b 9 1 ≤ fieldAt b 3 1 ∧ 3 ≤ fieldAt b 10 2 ∧ fieldAt b 10 2 ≤ 1024 ∧ fieldAt b 14 2 = 0) &&
    posF (fieldAt b 16 4) && posF (fieldAt b 20 4) && fp32.isFin (fieldAt b 24 4) &&
    (fp32.decode (fieldAt b 20 4)).lt (fp32.decode (fieldAt b 24 4)) &&
    decide (fieldAt b 32 8 % 128 = 0 ∧ 2 ≤ fieldAt b 40 2 ∧ fieldAt b 40 2 ≤ 4096 ∧ 100000000 ≤ fieldAt b 44 4 ∧
      fieldAt b 44 4 ≤ 2000000000 ∧ fieldAt b 116 8 % 64 = 0 ∧ (tierOf (fieldAt b 116 8) = 1 ∨ tierOf (fieldAt b 116 8) = 2) ∧
      fieldAt b 124 4 = 0) &&
    (decide (fieldAt b 3 1 ≠ 0) || decide (fieldAt b 56 8 = 0)) && (decide (fieldAt b 4 1 ≠ 0) || decide (fieldAt b 64 8 = 0)) &&
    decide (d.resPart (8 * 64 + isl) = some w.part) &&
    !d.tracks.any (fun t => decide (t.num = 8 * isl + fieldAt b 1 1)) &&
    decide (((wbBlocks im 1).filter (fun x => decide (fieldAt x 0 1 = isl ∧ fieldAt x 1 1 = fieldAt b 1 1))).length = 1) &&
    (decide (depth = 0) || (decide (d.parts = 1) &&
      w.costs.any (fun v => bitOf v.flags 0 && v.recs.any (fun r => decide (r.res = 8 * 64 + isl))))) &&
    flagDeclared im (fieldAt b 42 2) && d.trackTablesOk im b

/-- R272: Table 10-1, one map, a root that RESUME finds good. -/
def Dev.mapOk (d : Dev) (im b : List Byte) : Bool :=
  let t2 (x : Nat) : Bool := decide (tierOf x = 2)
  decide (b.length = 128 ∧ fieldAt b 0 1 ≤ 1 ∧ 1 ≤ mbVoxCm b ∧ mbVoxCm b ≤ 10 ∧ 16 ≤ mbTabLog2 b ∧ mbTabLog2 b ≤ mbVoxMax b ∧
      mbVoxMax b ≤ 29 ∧ 64 ≤ mbFeatMax b ∧ mbFeatMax b ≤ 2048 ∧ fieldAt b 6 2 = 0 ∧ 1 ≤ mbKfCap b ∧ mbKfCap b ≤ 1048576 ∧
      1 ≤ mbLmCap b ∧ mbLmCap b ≤ 67108864 ∧ 1 ≤ mbDelta b ∧ mbDelta b ≤ 65536 ∧ 16 ≤ mbSpare b ∧ mbSpare b ≤ 65536 ∧
      16 ≤ mbReclaim b ∧ mbReclaim b ≤ 65535 ∧ mbHoldUs b ≤ 100000 ∧ mbRoot b % 4096 = 0 ∧ mbArena b % 65536 = 0 ∧
      mbJournal b % 65536 = 0 ∧ mbJournalBytes b % 65536 = 0 ∧ mbReplay b % 65536 = 0 ∧ mib ≤ mbReplay b ∧
      leNat (slice b 84 44) = 0) &&
    t2 (mbRoot b) && t2 (mbArena b) && t2 (mbJournal b) && d.map.isNone && decide ((wbBlocks im 2).length = 1) &&
    (!bitOf (fieldAt b 0 1) 0 || !d.rootBad b)

/-- R317, R324. -/
def Dev.indexOk (d : Dev) (im b : List Byte) : Bool :=
  decide (b.length = 128) && !ixBad d.shard b && !d.idxs.any (fun x => decide (ixId x.blk = ixId b)) &&
    decide (((wbBlocks im 3).filter (fun x => decide (ixId x = ixId b))).length = 1 ∧ d.idxs.length + (wbBlocks im 3).length ≤ 16) &&
    (!ixResume b || !d.ixRootBad b)

/-- The track block of a track of this workbook. -/
def wbTrack (im : List Byte) (t : Nat) : Option (List Byte) :=
  (wbBlocks im 1).find? (fun b => decide (8 * fieldAt b 0 1 + fieldAt b 1 1 = t))

/-- Track blocks alike but for ISLAND, SLOT, OUT_RING, OUT_FLAG and HIST_DA, with like source tables. -/
def Dev.tracksAlike (d : Dev) (im a b : List Byte) : Bool :=
  let strip (x : List Byte) : List Byte :=
    putSlice (putSlice (putSlice (putSlice x 0 [0, 0]) 32 (List.replicate 8 0)) 42 [0, 0]) 116 (List.replicate 8 0)
  let same := decide (strip a = strip b)
  let n := fieldAt a 2 1
  same && (List.range n).all (fun i =>
    decide (d.afterLoad im (fieldAt a 48 8 + 64 * i) 64 = d.afterLoad im (fieldAt b 48 8 + 64 * i) 64))

/-- Regions that a job's entry points and tasks place: code regions of its arrays. -/
def jobRegions (w : Wb) (j : Job) : List Region :=
  w.place.filter (fun r => decide (r.kind = 1 ∧ j.entry.getD r.array 0xFFFFFFFF ≠ 0xFFFFFFFF))

/-- Table 16-2. -/
def channelForm (b : List Byte) : Bool :=
  let fl := fieldAt b 1 1
  decide (b.length = 128 ∧ fieldAt b 0 1 ≤ 15 ∧ fl < 64 ∧ bitsOf fl 4 3 ≤ 2 ∧ 1 ≤ fieldAt b 2 1 ∧ fieldAt b 3 1 ≤ 15 ∧
      fieldAt b 38 2 = 0) &&
    (!bitOf fl 2 || (decide (2 ≤ fieldAt b 36 2 ∧ fieldAt b 36 2 ≤ 4096 ∧ fieldAt b 40 8 % 256 = 0) && isT3 (fieldAt b 40 8))) &&
    (List.range 5).all (fun i =>
      let m := slice b (48 + 16 * i) 16
      decide (fieldAt m 0 2 = 0xFFFF) || decide (fieldAt m 2 1 ≤ 1 ∧ leNat (slice m 3 5) = 0))

/-- R437. -/
def Dev.channelOk (d : Dev) (w : Wb) (im b : List Byte) : Bool :=
  let ea := w.almanac[fieldAt b 6 2]?
  let eb := w.almanac[fieldAt b 8 2]?
  channelForm b && d.isSafe w.part && (d.chan (fieldAt b 0 1)).isNone &&
    decide (((wbBlocks im 4).filter (fun x => decide (fieldAt x 0 1 = fieldAt b 0 1))).length = 1) &&
    (match ea, eb with
     | some x, some y =>
       decide (x.cls = 1 ∧ y.cls = 1 ∧ x.period = y.period ∧ x.offset = y.offset ∧ x.deadline = y.deadline ∧ x.tmin = y.tmin ∧
         x.lateTol = y.lateTol ∧ 250000 ≤ x.period ∧ x.period ≤ 1000000 ∧ fieldAt b 6 2 ≠ fieldAt b 8 2) &&
       (match w.job? x.job, w.job? y.job with
        | some j, some k =>
          (List.range 4).all (fun a => decide (j.entry.getD a 0xFFFFFFFF = 0xFFFFFFFF ∨ k.entry.getD a 0xFFFFFFFF = 0xFFFFFFFF)) &&
            (jobRegions w j).all (fun r => (jobRegions w k).all (fun q => !overlap (r.da, r.bytes) (q.da, q.bytes)))
        | _, _ => false)
     | _, _ => false) &&
    (match wbTrack im (fieldAt b 4 1), wbTrack im (fieldAt b 5 1) with
     | some x, some y =>
       d.tracksAlike im x y && decide (fieldAt b 4 1 ≠ fieldAt b 5 1) &&
         (decide (fieldAt x 0 1 ≠ fieldAt y 0 1) ||
           decide (((List.range 4).filter (fun u => decide (d.resPart (8 * 64 + u) = some w.part))).length < 2))
     | _, _ => false)

/-- R403: the CALIB section. -/
def Dev.calibOk (d : Dev) (w : Wb) (im : List Byte) : Bool :=
  let c := wbCalib im
  decide ((wbSect im 9).length ≤ c.2) &&
    c.1.all (fun x => decide (x.2.1 = 0) &&
      (match x.1 with
       | 1 => d.trackOk w im x.2.2
       | 2 => d.mapOk im x.2.2
       | 3 => d.indexOk im x.2.2
       | 4 => d.channelOk w im x.2.2
       | _ => false))

/-! ### Content (R405 step 3) -/

/-- Subcode of BAD_DESC of the first header or section, in directory order, that fails. -/
def Dev.contentBad (d : Dev) (w : Wb) (im : List Byte) (safeCtx : Bool) : Option Nat :=
  if !d.headerOk w.part im then some 9
  else (wbSects im).findSome? (fun s =>
    let ok := match s.ty with
      | 0x01 => codeOk im s.ix (s.bytes im)
      | 0x02 => placementOk im
      | 0x03 => d.plansOk w im
      | 0x04 => d.almanacOk w im safeCtx
      | 0x05 => costsOk w im
      | 0x06 => d.jobsOk w im
      | 0x07 => flagsOk w im
      | 0x08 => d.windowsOk w im
      | 0x09 => d.calibOk w im
      | _ => true
    if ok then none else some (if s.ty = 8 then 0xA else 9))

end Sys2Proof.Machine
end

