-- ==== Sys2Proof/Machine/Load.lean ====
section
/-! DEFINITION. LOAD_WB: order of the checks, fit, installation (R67, R225, R369, R370, R391, R405 to R407, R512). -/

namespace Sys2Proof.Machine

/-! ### Fit, step 1: units (R369) -/

/-- Class and unit of everything that a workbook names; unit 255 of class 8 or 9 stands for any unit of the class. -/
def Wb.named (w : Wb) : List (Nat × Nat) :=
  w.costs.flatMap (fun v => v.recs.map (fun r => (r.res / 64, r.res % 64))) ++
    w.jobs.flatMap (fun j =>
      j.solves.map (fun l => (2, fieldAt l 3 1)) ++ j.searches.map (fun l => (9, slWalker l)) ++
        j.tasks.map (fun b => (kindClass (newTask 0 b).kind, (newTask 0 b).unit))) ++
    w.plans.map (fun p => (0x0A, p.tmv)) ++
    (w.calib.filter (fun c => decide (c.1 = 1))).map (fun c => (8, fieldAt c.2 0 1)) ++
    (w.calib.filter (fun c => decide (c.1 = 2))).map (fun _ => (8, 255)) ++
    (w.calib.filter (fun c => decide (c.1 = 3))).map (fun _ => (9, 255))

/-- A unit exists in partition `p` (R28 to R31); one that has been retired whole does not (DEDUCED, unsafe, log entry 27). -/
def Dev.unitIn (d : Dev) (p c u : Nat) : Bool :=
  if c = 0x0B ∨ c = 0x0C ∨ c = 0x0D then true
  else if c = 0x3F then decide (u = p)
  else decide (u < 64 ∧ d.resPart (64 * c + u) = some p ∧ 64 * c + u ∉ d.cal.gone)

def Dev.namedOk (d : Dev) (p : Nat) (x : Nat × Nat) : Bool :=
  if x.2 = 255 then (List.range 8).any (fun u => d.unitIn p x.1 u) else d.unitIn p x.1 x.2

/-- Lowest class with missing units and how many distinct ones. -/
def Dev.lacking (d : Dev) (w : Wb) : Option (Nat × Nat) :=
  let ms := (dedup w.named).filter (fun x => !d.namedOk w.part x)
  (minBy (fun x y => decide (x < y)) (ms.map (·.1))).map (fun c => (c, (ms.filter (fun x => decide (x.1 = c))).length))

/-! ### Fit, steps 2 to 6 (R370) -/

/-- Boundaries of shares in the windows of Table 04-2. -/
def Dev.shareEdges (d : Dev) : List Nat :=
  (List.range 4).flatMap (fun a => (List.range 5).map (fun s => sliceBase a s)) ++
    (List.range (d.parts + 1)).flatMap (fun p =>
      [0x10000000 + p * (t1Size / d.parts), 0x800000000 + p * (stackSize / d.parts), 0xC00000000 + p * (stackSize / d.parts)])

/-- Ranges that other loaded workbooks of the partition hold. -/
def Dev.heldRanges (d : Dev) (p : Nat) : List (Nat × Nat) :=
  (d.wbs.filter (fun b => decide (b.part = p))).flatMap (fun b => b.place.map (fun r => (r.da, r.bytes)))

/-- Bytes of a region that lie outside the share, over a held range, or in a retired range. -/
def Dev.regionShort (d : Dev) (p : Nat) (r : Region) : Nat :=
  let held := d.heldRanges p ++ d.mem.retired
  let ends := (d.shareEdges ++ held.flatMap (fun x => [x.1, x.1 + x.2])).filter (fun e => decide (r.da < e ∧ e < r.da + r.bytes))
  let pts := sortBy (fun x y => decide (x < y)) (dedup (r.da :: (r.da + r.bytes) :: ends))
  let ownT0 := match rgnOf r.da with | .t0 a _ => decide (a = r.array) | _ => false
  if r.kind = 1 ∧ !ownT0 then r.bytes
  else sumBy (fun (x : Nat × Nat) =>
    if !d.inShare p x.1 1 || held.any (fun h => decide (h.1 ≤ x.1 ∧ x.1 < h.1 + h.2)) then x.2 - x.1 else 0) (pts.zip (pts.drop 1))

/-- Tier in which a region counts: a code region outside its array's T0 counts in T0 (DEDUCED, unsafe, log entry 27). -/
def Region.fitTier (r : Region) : Nat := if r.kind = 1 then 0 else tierOf r.da

def Dev.tierShort (d : Dev) (w : Wb) (t : Nat) : Nat :=
  sumBy (fun r => if r.fitTier = t then d.regionShort w.part r else 0) w.place

/-- R274, R322: shortfalls of arenas. -/
def Wb.arenaShort (w : Wb) : Nat :=
  sumBy (fun (c : Nat × List Byte) =>
    if c.1 = 2 then mbNeed c.2 - mbArenaBytes c.2 else if c.1 = 3 then ixNeed c.2 - ixArenaBytes c.2 else 0) w.calib

def safeBytes (b : Wb) : Nat := sumBy (fun r => if bitOf r.flags 0 then r.bytes else 0) b.place

/-- R145: bytes by which the safety-class regions pass 256 MiB, no more than the workbook brings. -/
def Dev.safeShort (d : Dev) (w : Wb) : Nat :=
  min (safeBytes w) (sumBy safeBytes d.wbs + safeBytes w - 256 * mib)

def Dev.flagShort (d : Dev) (w : Wb) : Nat :=
  ((dedup (w.franges.flatMap (fun f => (List.range f.count).map (fun i => f.first + i)))).filter (fun i =>
    !d.ownFlag w.part i || d.wbs.any (fun b => b.franges.any (fun f => decide (f.first ≤ i ∧ i < f.first + f.count))))).length

def Dev.treeShort (d : Dev) (w : Wb) : Nat :=
  let n := 64 / d.parts
  ((dedup (w.trees.map (·.tree))).filter (fun t =>
    !decide (w.part * n ≤ t ∧ t < (w.part + 1) * n) || d.wbs.any (fun b => b.trees.any (fun x => decide (x.tree = t))))).length

/-- Lowest free workbook slot. -/
def Dev.freeWbSlot (d : Dev) : Option Nat := (List.range 256).find? (fun s => (d.wb s).isNone)

/-- R369: subcode and INFO of REJECT_TOO_LARGE. -/
def Dev.fitBad (d : Dev) (w : Wb) : Option (Nat × Nat) :=
  let t2 := d.tierShort w 2 + w.arenaShort + d.safeShort w
  match d.lacking w with
  | some m => some (0x100 + m.1, m.2)
  | none =>
    if d.tierShort w 0 ≠ 0 then some (0, d.tierShort w 0)
    else if d.tierShort w 1 ≠ 0 then some (1, d.tierShort w 1)
    else if t2 ≠ 0 then some (2, t2)
    else if d.flagShort w ≠ 0 then some (3, d.flagShort w)
    else if d.treeShort w ≠ 0 then some (4, d.treeShort w)
    else if d.freeWbSlot.isNone then some (0x13F, 1)
    else none

/-! ### The checks in order (R405) -/

/-- STATUS, SUBCODE and INFO of a failed load. -/
structure LoadErr where
  status : Nat
  sub : Nat
  info : List Byte
  deriving DecidableEq, Repr

def genAfter (g : Nat) : Nat := if g = 0xFFFFFF then 1 else g + 1

/-- The workbook of an image of `len` bytes for partition `p`, or how its load fails. -/
def Dev.checkImage (d : Dev) (im : List Byte) (len p : Nat) (ctx : Option Nat) (safeCtx : Bool) : Except LoadErr Wb :=
  if !wbFormOk im len then .error ⟨0x14, 4, []⟩
  else match d.wbSigBad p im with
    | some s => .error ⟨0x14, s, []⟩
    | none =>
      let slot := d.freeWbSlot.getD 256
      let w := parseWb im slot (genAfter (SMap.read 0 d.gens slot)) p ctx
      match d.contentBad w im safeCtx with
      | some s => .error ⟨0x13, s, []⟩
      | none =>
        match d.fitBad w with
        | some s => .error ⟨0x11, s.1, leBytes 7 s.2⟩
        | none => .ok w

/-! ### Domains (R511, R512) -/

def Dev.domainOn (d : Dev) (n : Nat) : Bool :=
  if n < 32 then bitOf (d.get R.PWR_DOM_LO.ON 0 0) n else bitOf (d.get R.PWR_DOM_HI.ON 0 0) (n - 32)

def Dev.setDomain (d : Dev) (n : Nat) (on : Bool) : Dev :=
  if n < 32 then d.set R.PWR_DOM_LO.ON 0 0 (putBits (d.get R.PWR_DOM_LO.ON 0 0) n n (b2n on))
  else d.set R.PWR_DOM_HI.ON 0 0 (putBits (d.get R.PWR_DOM_HI.ON 0 0) (n - 32) (n - 32) (b2n on))

/-- Domains of a unit (Table 20-3). -/
def domainsOf (x : Nat × Nat) : List Nat :=
  let u := x.2
  match x.1 with
  | 1 => [2 + u, 18 + u / 4]
  | 2 => [22 + u / 4]
  | 3 | 5 => [26 + u / 2]
  | 4 | 6 | 7 => [26 + u]
  | 8 => [30 + u]
  | 9 => [34 + u / 2]
  | _ => []

/-- Domains that a workbook names or holds: those of its units and the slices its regions lie in. -/
def Dev.needs (d : Dev) (w : Wb) : List Nat :=
  let us := w.named.flatMap (fun x =>
    if x.2 = 255 then ((List.range 8).filter (fun u => d.unitIn w.part x.1 u)).map (fun u => (x.1, u)) else [x])
  let ts := w.place.flatMap (fun r =>
    match rgnOf r.da with
    | .t0 a off => ((List.range 4).filter (fun s => decide (off < (s + 1) * sliceSize ∧ s * sliceSize < off + r.bytes))).map
        (fun s => (1, 4 * a + s))
    | _ => [])
  dedup ((us ++ ts).flatMap domainsOf)

/-! ### Installation (R406, R407, R225, R391) -/

/-- Bytes that each region receives at the second read: code, initial data, zeros. -/
def installBytes (im : List Byte) (r : Region) : List Byte :=
  if r.kind = 1 then
    match (wbCode im).find? (fun c => decide (c.1 = r.array)) with
    | some c => c.2.2
    | none => []
  else if r.dataOff ≠ 0xFFFFFFFF then slice (wbSect im 0xA) r.dataOff r.bytes
  else if bitOf r.flags 2 then List.replicate r.bytes 0
  else []

/-- R406: after a failed second read the regions hold undefined contents. -/
def Dev.spoil (d : Dev) (w : Wb) (im : List Byte) : Dev :=
  w.place.foldl (fun d r =>
    let x := freeWords Config.undefByte (installBytes im r).length d
    { x.2 with mem := x.2.mem.store r.da x.1 }) d

/-- Surfaces that a workbook's tasks write. -/
def Wb.surfaces (w : Wb) : List Nat := dedup ((w.jobs.flatMap (·.tasks)).flatMap (fun b => (newTask 0 b).outs.map refDa))

/-- The safety channel of a channel block. -/
def newChan (wb : Nat) (b : List Byte) : SafChan :=
  { num := fieldAt b 0 1, blk := b, wb := wb, toA := none, toB := none, poseA := none, poseB := none, partnerTo := [],
    partnerBytes := [], waiting := none, degraded := false, good := 0, mirrored := [] }

/-- CALIB blocks go into effect. -/
def Dev.calibrate (d : Dev) (w : Wb) : Dev :=
  w.calib.foldl (fun d c =>
    match c.1 with
    | 1 => d.loadTrack w.slot w.part c.2
    | 2 => d.loadMap w.slot w.part c.2
    | 3 => d.loadIndex w.slot w.part c.2
    | _ =>
      let n := fieldAt c.2 0 1
      let d : Dev := { d with saf := { d.saf with chans := d.saf.chans.filter (fun x => decide (x.num ≠ n)) ++ [newChan w.slot c.2] } }
      (d.set R.SAF_CHAN_STAT.VALID n 0 1).set R.SAF_CHAN_STAT.XCMP n 0 (b2n (newChan w.slot c.2).xcmp)) d

/-- R67: the hard minimum is computed anew. -/
def Dev.hardMinimum (d : Dev) (p : Nat) : Dev :=
  let m := (Config.hardMin d.freeIx).toNat
  let d : Dev := { d with freeIx := d.freeIx + 1 }.setPcal p (fun c => { c with hardMin := m })
  d.set R.CAL_PSTAT.RES_RAISED p 0
    (b2n (decide (ceilDiv (max 21 (d.get R.CAL_PCFG.RESERVE p 0) * (d.pcal p).orbit) 1024 < m)))

/-- R406: install a workbook whose checks have passed. -/
def Dev.install (d : Dev) (w : Wb) (im : List Byte) : Dev :=
  let m := w.place.foldl (fun (m : Mem) r => m.store r.da (installBytes im r)) d.mem
  let noEntry := !d.cal.entries.any (fun e => decide (e.part = w.part))
  let d : Dev := { d with
    mem := m
    wbs := d.wbs ++ [w]
    gens := SMap.write 0 d.gens w.slot w.gen
    wins := d.wins ++ ((w.wins.filter (fun x => !x.import_)).map (fun x => ⟨x, w.part, w.slot⟩)) }
  let d := if w.orbit ≠ 0 ∧ noEntry then d.setPcal w.part (fun c => { c with orbit := w.orbit, phases := w.phases }) else d
  let d := w.franges.foldl (fun d f =>
    (List.range f.count).foldl (fun d i => d.writeFlag (flagOcc w.part) (f.first + i) (decide (f.init = 1))) d) d
  let d := w.surfaces.foldl (fun d a => d.resetSurface w.part a) d
  let d := (d.calibrate w).hardMinimum w.part
  d.annal 5 1 0 (annUnit w.part w.slot) (slice im 24 16)

/-- WB_HANDLE (R407). -/
def Wb.handle (w : Wb) : Nat := w.slot + 256 * w.gen

/-! ### The command (R95 steps 6 and 7) -/

/-- A request that a load must wait for: an earlier LOAD_WB of its partition. -/
def Dev.loadFirst (d : Dev) (r : Req) : Bool :=
  !d.reqs.any (fun x => decide (dOpc x.desc = 1 ∧ x.part = r.part ∧ x.id < r.id))

/-- The image range is reachable (R406). -/
def Dev.imageReach (d : Dev) (r : Req) : Bool :=
  let a := dArg0 r.desc
  let n := dLen r.desc
  (decide (tierOf a = 2) || isT3 a) && oneRange a n && d.permits r.part (some r.ctx) a n false

def Dev.readImage (d : Dev) (r : Req) (h : HostView) : Dev × Except AccErr (List Byte) :=
  d.read ⟨r.part, some r.ctx, none, privOf (dClass r.desc), 3, 0, none⟩ h (dArg0 r.desc) (dLen r.desc)

/-- The second read: installation, or what its failure leaves (R406). -/
def Dev.loadSecond (d : Dev) (r : Req) (w : Wb) (im : List Byte) (second : HostView) : Dev :=
  match d.readImage r second with
  | (d, .error e) => (d.spoil w im).finishReq r e.status.1 e.status.2.1 none 0 e.status.2.2
  | (d, .ok im2) =>
    if sha384 im = sha384 im2 then (d.install w im).finishReq r 0 0 none 0 (leBytes 4 w.handle)
    else (d.spoil w im).finishReq r 0x14 1 none 0 []

/-- LOAD_WB. -/
def Dev.loadWb (d : Dev) (r : Req) (first second : HostView) : Dev :=
  if !d.loadFirst r then d
  else if !d.imageReach r then d.finishReq r 0x13 8 none 0 []
  else if d.pwr.halt || d.pwr.fusing then d.finishReq r 0x13 9 none 0 []
  else match d.readImage r first with
    | (d, .error e) => d.finishReq r e.status.1 e.status.2.1 none 0 e.status.2.2
    | (d, .ok im) =>
      match d.checkImage im (dLen r.desc) r.part (some r.ctx) (d.bit R.CTX_CAL.SAFETY r.ctx 0) with
      | .error e => d.finishReq r e.status e.sub none 0 e.info
      | .ok w =>
        let off := (d.needs w).filter (fun n => !d.domainOn n)
        if off.isEmpty then d.loadSecond r w im second
        else { d with pwr := { d.pwr with waking := dedup (d.pwr.waking ++ off) } }

def execLoadWb (req : Nat) (first second : HostView) (s : State) : Host.Outcome State Fault Refusal :=
  onDev true (fun _ d => match d.fetched req 1 with | some r => d.loadWb r first second | none => d) s

/-- FLAG_SNAPSHOT_READ, R408: 128 flags as four words. -/
def Dev.flagWord (d : Dev) (n : Nat) : Nat := sumBy (fun i => if d.flag (128 * n + i) then 2 ^ i else 0) (List.range 128)

end Sys2Proof.Machine
end

