-- ==== Sys2Proof/Machine/SeqRows.lean ====
section
/-! DEFINITION. The sequencer's control, address-register, flag and barrier instructions (R374 to R394). Each row is the
next instruction of stream `q` of array `a`; a row whose opcode is not at the PC has no effect. -/

namespace Sys2Proof.Machine

/-- A stream is named by an array and a number below 16. -/
def streamOk (a q : Nat) : Bool := decide (a < 4 ∧ q < 16)

/-- A row that executes the next instruction of a stream. -/
def seqRow (a q op : Nat) (f : Ins → Dev → Dev) (s : State) : Host.Outcome State Fault Refusal :=
  onDev (streamOk a q) (fun _ d => d.issue a q op f) s

/-! ### Control -/

/-- NOP. -/
def execNop (a q : Nat) (s : State) : Host.Outcome State Fault Refusal :=
  seqRow a q 0x00 (fun i d => d.goOn i id) s

/-- END, R375: waits until every operation of the stream has completed and no speculation is open. -/
def Dev.seqEnd (i : Ins) (d : Dev) : Dev :=
  if !i.s.ops.isEmpty then d.stall i .op
  else if i.s.spec.isSome then d.stall i .spec
  else d.proceed i (fun s => { s with ended := true, inStep := false })

def execEndRun (a q : Nat) (s : State) : Host.Outcome State Fault Refusal := seqRow a q 0x01 Dev.seqEnd s

/-- YIELD, R374: the step ends, the run keeps its state. -/
def execYield (a q : Nat) (s : State) : Host.Outcome State Fault Refusal :=
  seqRow a q 0x02 (fun i d => d.goOn i (fun s => { s with inStep := false })) s

/-- Index of a branch's target; load checks keep it within the code (R382). -/
def Ins.target (i : Ins) : Nat := ((i.s.pc : Int) + iOff i.w).toNat

/-- BR. -/
def execBr (a q : Nat) (s : State) : Host.Outcome State Fault Refusal :=
  seqRow a q 0x03 (fun i d => d.proceed i (fun s => s.jump i.target)) s

/-- A conditional branch. -/
def Dev.branch (d : Dev) (i : Ins) (taken : Bool) : Dev :=
  if taken then d.proceed i (fun s => s.jump i.target) else d.goOn i id

/-- BR_FLAG, R381. -/
def execBrFlag (a q : Nat) (s : State) : Host.Outcome State Fault Refusal :=
  seqRow a q 0x04 (fun i d =>
    if d.flagReadable i.run.part i.flagIx then d.branch i (d.flag i.flagIx == iV i.w) else d.seqBlocked i) s

/-- CC of BR_ACMP. -/
def condOk (cc s t : Nat) : Bool :=
  match cc with
  | 0 => decide (s = t)
  | 1 => decide (s ≠ t)
  | 2 => decide (toSigned 64 s < toSigned 64 t)
  | 3 => decide (toSigned 64 t ≤ toSigned 64 s)
  | 4 => decide (s < t)
  | _ => decide (t ≤ s)

/-- BR_ACMP. -/
def execBrAcmp (a q : Nat) (s : State) : Host.Outcome State Fault Refusal :=
  seqRow a q 0x05 (fun i d => d.branch i (condOk (bitsOf i.w 23 20) i.sv i.tv)) s

/-- LOOP, R382. -/
def Stream.loop (s : Stream) (lc len count : Nat) : Stream :=
  if count = 0 ∨ len = 0 then
    { s with l := modifyAt s.l lc (fun _ => BitVec.ofNat 32 count) }.fallTo (s.pc + 1 + len)
  else
    { s with
      pc := s.pc + 1
      l := modifyAt s.l lc (fun _ => 0)
      loops := ⟨lc, s.pc + 1, len, count⟩ :: s.loops }

def execLoop (a q : Nat) (s : State) : Host.Outcome State Fault Refusal :=
  seqRow a q 0x06 (fun i d =>
    d.proceed i (fun s => s.loop (bitsOf i.w 35 33) (bitsOf i.w 31 17) (if bitOf i.w 32 then i.sv % 2 ^ 32 else i.w % 2 ^ 17))) s

/-! ### Speculation (R392 to R394) -/

/-- The track whose speculative frame owns segment `seg` for a run. -/
def Dev.specTrack (d : Dev) (run seg : Nat) : Option (Nat × SpecFrame) :=
  d.tracks.findSome? (fun k => (k.frames.find? (fun f => decide (f.run = run ∧ f.seg = seg))).map (fun f => (k.num, f)))

/-- CHECKPOINT, R392: earlier operations complete first. -/
def Dev.checkpoint (i : Ins) (d : Dev) : Dev :=
  if !i.s.ops.isEmpty then d.stall i .op
  else
    let seg := bitsOf i.w 1 0
    match d.tailSeg i.run.wb i.s.array seg with
    | none => d.seqBlocked i
    | some g =>
      let spec := (d.specTrack i.run.id seg).isSome
      let d := d.undefine g.1 (min 512 g.2)
      d.goOn i (fun s =>
        let s := s.setReg (iD i.w) (b2n spec)
        let n := s.fallTo (s.pc + 1)
        if spec then { s with spec := some ⟨seg, n.pc, iD i.w, n.a, n.l, n.loops, [], 0⟩ } else s)

def execCheckpoint (a q : Nat) (s : State) : Host.Outcome State Fault Refusal := seqRow a q 0x07 Dev.checkpoint s

/-- ROLLBACK, R394: a failed gate, or no effect where the stream is not speculative on SEG. -/
def Dev.rollbackIns (i : Ins) (d : Dev) : Dev :=
  let seg := bitsOf i.w 1 0
  if (i.s.spec.map (·.seg)) = some seg then
    match d.specTrack i.run.id seg with
    | some f => d.gateFail f.1 f.2 0
    | none => d.rollbackFrame i.run.id seg
  else d.goOn i id

def execRollback (a q : Nat) (s : State) : Host.Outcome State Fault Refusal := seqRow a q 0x08 Dev.rollbackIns s

/-! ### STAMP, EVENT, FENCE (R385, R380) -/

/-- Store 8 bytes as AST does. -/
def Dev.store8 (d : Dev) (i : Ins) (x v : Nat) (f : Stream → Stream) : Dev :=
  if x % 8 ≠ 0 then d.seqRange i
  else
    d.guard i [] [(x, 8)] (fun d =>
      match d.write i.who x (leBytes 8 v) with
      | (d, some e) => d.seqAcc i e
      | (d, none) => d.goOn i f)

/-- STAMP, R385. -/
def execStamp (a q : Nat) (s : State) : Host.Outcome State Fault Refusal :=
  seqRow a q 0x09 (fun i d =>
    let v := d.tbVal (bitsOf i.w 35 34)
    if bitOf i.w 33 then d.store8 i i.sv v (fun s => s.setReg (iD i.w) v) else d.goOn i (fun s => s.setReg (iD i.w) v)) s

/-- EVENT, R385: waits while speculative (R393). -/
def Dev.seqEvent (i : Ins) (d : Dev) : Dev :=
  if i.s.spec.isSome then d.stall i .spec
  else
    let cs := match i.run.ctx with | some c => [c] | none => d.safeCtxs
    (d.eventAll cs 0x5C 0 0 (leBytes 6 i.sv) 0).goOn i id

def execEvent (a q : Nat) (s : State) : Host.Outcome State Fault Refusal := seqRow a q 0x0A Dev.seqEvent s

/-- FENCE, R380. -/
def execFence (a q : Nat) (s : State) : Host.Outcome State Fault Refusal :=
  seqRow a q 0x0B (fun i d => if i.s.ops.isEmpty then d.goOn i id else d.stall i .op) s

/-! ### Address registers (R378, R379) -/

/-- An instruction whose whole effect is a value in D, modulo 2^64. -/
def seqSet (a q op : Nat) (v : Ins → Int) (s : State) : Host.Outcome State Fault Refusal :=
  seqRow a q op (fun i d => d.goOn i (fun s => s.setReg (iD i.w) (ofSigned 64 (v i)))) s

/-- ASET. -/
def execAset (a q : Nat) (s : State) : Host.Outcome State Fault Refusal := seqSet a q 0x10 (fun i => (i.w % 2 ^ 48 : Nat)) s

/-- AADD. -/
def execAadd (a q : Nat) (s : State) : Host.Outcome State Fault Refusal := seqSet a q 0x11 (fun i => (i.sv : Int) + i.tv) s

/-- ASUB. -/
def execAsub (a q : Nat) (s : State) : Host.Outcome State Fault Refusal := seqSet a q 0x12 (fun i => (i.sv : Int) - i.tv) s

/-- AADDI. -/
def execAaddi (a q : Nat) (s : State) : Host.Outcome State Fault Refusal := seqSet a q 0x13 (fun i => (i.sv : Int) + iImm i.w) s

/-- AMULI. -/
def execAmuli (a q : Nat) (s : State) : Host.Outcome State Fault Refusal := seqSet a q 0x14 (fun i => (i.sv : Int) * iImm i.w) s

/-- AAND. -/
def execAand (a q : Nat) (s : State) : Host.Outcome State Fault Refusal := seqSet a q 0x15 (fun i => (Nat.land i.sv i.tv : Nat)) s

/-- AOR. -/
def execAor (a q : Nat) (s : State) : Host.Outcome State Fault Refusal := seqSet a q 0x16 (fun i => (Nat.lor i.sv i.tv : Nat)) s

/-- ASHIFT: KIND 0 left, 1 logical right, 2 arithmetic right. -/
def shiftOf (kind amt v : Nat) : Int :=
  match kind with
  | 0 => (v * 2 ^ amt : Nat)
  | 1 => (v / 2 ^ amt : Nat)
  | _ => toSigned 64 v / (2 ^ amt : Nat)

def execAshift (a q : Nat) (s : State) : Host.Outcome State Fault Refusal :=
  seqSet a q 0x17 (fun i => shiftOf (bitsOf i.w 7 6) (bitsOf i.w 5 0) i.sv) s

/-- ALC. -/
def execAlc (a q : Nat) (s : State) : Host.Outcome State Fault Refusal :=
  seqSet a q 0x18 (fun i => ((i.s.l.getD (bitsOf i.w 2 0) 0).toNat : Int)) s

/-- ALD, R379: `h` answers a read of T3. -/
def Dev.ald (h : HostView) (i : Ins) (d : Dev) : Dev :=
  if i.ea % 8 ≠ 0 then d.seqRange i
  else
    d.guard i [(i.ea, 8)] [] (fun d =>
      match d.read i.who h i.ea 8 with
      | (d, .error e) => d.seqAcc i e
      | (d, .ok bs) => d.goOn i (fun s => s.setReg (iD i.w) (leNat bs)))

def execAld (a q : Nat) (h : HostView) (s : State) : Host.Outcome State Fault Refusal := seqRow a q 0x19 (Dev.ald h) s

/-- AST, R379. -/
def execAst (a q : Nat) (s : State) : Host.Outcome State Fault Refusal :=
  seqRow a q 0x1A (fun i d => d.store8 i i.ea i.tv id) s

/-! ### Flags (R380, R381, R388, R389) -/

/-- FLAG_READ, R381. -/
def execFlagRead (a q : Nat) (s : State) : Host.Outcome State Fault Refusal :=
  seqRow a q 0x1B (fun i d =>
    if d.flagReadable i.run.part i.flagIx then d.goOn i (fun s => s.setReg (iD i.w) (b2n (d.flag i.flagIx)))
    else d.seqBlocked i) s

/-- FLAG_SET, R380: it publishes every earlier write, so it takes effect once they have completed; a speculative stream
keeps it as a shadow flag, and the 65th ends the speculation (R393). -/
def Dev.flagSet (i : Ins) (d : Dev) : Dev :=
  if !d.flagWritable i.run.part i.flagIx then d.seqBlocked i
  else if !i.s.ops.isEmpty then d.stall i .op
  else
    match i.s.spec with
    | some x =>
      if 64 ≤ x.shadow.length then
        match d.specTrack i.run.id x.seg with
        | some f => d.gateFail f.1 f.2 0
        | none => d.rollbackFrame i.run.id x.seg
      else d.goOn i (fun s => { s with spec := some { x with shadow := x.shadow ++ [(i.flagIx, iV i.w)] } })
    | none => (d.writeFlag (i.who.occ 0) i.flagIx (iV i.w)).goOn i id

def execFlagSet (a q : Nat) (s : State) : Host.Outcome State Fault Refusal := seqRow a q 0x4C Dev.flagSet s

/-- The flags that a wait names all equal V. -/
def Dev.flagsAre (d : Dev) (first n : Nat) (v : Bool) : Bool :=
  (List.range n).all (fun k => d.flag (first + k) == v)

/-- R381, R389: observe the flags, clear them in the same entry where CLR is set, and go on. -/
def Dev.passWait (d : Dev) (i : Ins) (first n : Nat) (clr : Bool) : Dev :=
  let d := if clr then (List.range n).foldl (fun d k => d.writeFlag (i.who.occ 0) (first + k) false) d else d
  d.goOn i id

/-- WAIT_FLAG and WAIT_FLAGS: pass now, or wait. A speculative stream clears nothing outside its segment (R393). -/
def Dev.waitOn (d : Dev) (i : Ins) (n : Nat) : Dev :=
  let f := i.flagIx
  let ok := (List.range n).all (fun k => d.flagReadable i.run.part (f + k) && (!iClr i.w || d.flagWritable i.run.part (f + k)))
  if !ok then d.seqBlocked i
  else if iClr i.w && i.s.spec.isSome then d.stall i .spec
  else if d.flagsAre f n (iV i.w) then d.passWait i f n (iClr i.w)
  else d.stall i (.flag f n (iV i.w) (iClr i.w))

/-- WAIT_FLAG, R381. -/
def execWaitFlag (a q : Nat) (s : State) : Host.Outcome State Fault Refusal := seqRow a q 0x50 (fun i d => d.waitOn i 1) s

/-- WAIT_FLAGS, R381, R389. -/
def execWaitFlags (a q : Nat) (s : State) : Host.Outcome State Fault Refusal :=
  seqRow a q 0x51 (fun i d => d.waitOn i (bitsOf i.w 5 0 + 1)) s

/-- FLAG_WAIT_SATISFIED, R381: the waiting stream observes its flags. Not due while they do not equal V. -/
def Dev.flagWaitDone (d : Dev) (a q : Nat) : Dev :=
  match d.current a q with
  | none => d
  | some (r, s) =>
    match s.wait with
    | .flag f n v clr =>
      if d.flagsAre f n v then
        let i : Ins := ⟨r, s, 0, 0⟩
        (d.setRun r.id (fun r => r.addCause 1)).passWait i f n clr
      else d
    | _ => d

def execFlagWaitSatisfied (a q : Nat) (s : State) : Host.Outcome State Fault Refusal :=
  onDev (streamOk a q) (fun _ d => d.flagWaitDone a q) s

/-! ### Barriers (R390) -/

/-- Arrays whose streams take part in a tree, for a run that may use it. -/
def Dev.treeArrays (d : Dev) (r : Run) (t : Nat) : Option (List Nat) :=
  ((d.wb r.wb).bind (fun w => w.trees.find? (fun x => decide (x.tree = t ∧ x.job = r.job)))).map (fun x => onesOf x.arrays 4)

/-- The tree as the run sees it: its generation restarts at each run. -/
def Dev.treeOf (d : Dev) (r : Run) (t : Nat) : Barrier :=
  let b := d.tree t
  if b.run = some r.id then b else ⟨0, [], some r.id⟩

/-- BARRIER, R390. -/
def Dev.barrier (i : Ins) (d : Dev) : Dev :=
  let t := bitsOf i.w 5 0
  let mode := bitsOf i.w 7 6
  let b := d.treeOf i.run t
  match d.treeArrays i.run t with
  | none => d.seqBarrier i
  | some as =>
    if i.s.array ∉ as then d.seqBarrier i
    else if mode = 2 then
      match i.s.arrived.lookup t with
      | none => d.seqBarrier i
      | some g => if g < b.gen then d.goOn i id else d.stall i (.barrier t g)
    else if i.s.array ∈ b.arrived then d.seqBarrier i
    else if !i.s.ops.isEmpty then d.stall i .op
    else if i.s.spec.isSome then d.stall i .spec
    else
      let d := d.setTree t { b with arrived := b.arrived ++ [i.s.array] }
      let mark (s : Stream) : Stream := { s with arrived := (t, b.gen) :: s.arrived.filter (fun x => decide (x.1 ≠ t)) }
      if mode = 1 then d.goOn i mark
      else d.setStream i.run.id i.s.array i.s.q (fun s => { mark s with wait := .barrier t b.gen })

def execBarrier (a q : Nat) (s : State) : Host.Outcome State Fault Refusal := seqRow a q 0x52 Dev.barrier s

/-- R390: every participant has arrived, so every waiter leaves. -/
def Dev.releaseTree (d : Dev) (t : Nat) : Dev :=
  let b := d.tree t
  match b.run.bind d.run with
  | none => d
  | some r =>
    match d.treeArrays r t with
    | none => d
    | some as =>
      let members := as.filter (fun a => r.streams.any (fun s => decide (s.array = a)))
      if members.isEmpty ∨ members.any (fun a => decide (a ∉ b.arrived)) = true then d
      else
        let d := (d.setTree t ⟨b.gen + 1, [], b.run⟩).count 2 1 1 r.occ
        r.streams.foldl (fun d s =>
          match s.wait with
          | .barrier t' g =>
            if t' = t ∧ g = b.gen then d.goOn ⟨r, s, 0, 0⟩ id else d
          | _ => d) d

/-- BARRIER_RELEASE, R390. Not due before the last participant has arrived. -/
def execBarrierRelease (tree : Nat) (s : State) : Host.Outcome State Fault Refusal :=
  onDev (decide (tree < 64)) (fun _ d => d.releaseTree tree) s

end Sys2Proof.Machine
end

