-- ==== Sys2Proof/Machine/Tensor.lean ====
section
/-! DEFINITION. What the dot-product units and the vector unit compute (R350 to R363, R383, R384). -/

namespace Sys2Proof.Machine

/-! ### Dot-product units -/

/-- Key of accumulator `acc` of DPU (i, j) of array `a`. -/
def accKey (a i j acc : Nat) : Nat := 2 * ((a * 32 + i) * 32 + j) + acc

def Dev.accAt (d : Dev) (a i j acc : Nat) : BitVec 32 := SMap.read 0 d.acc (accKey a i j acc)

/-- Logical columns of the stream's slices (R350). -/
def Dev.columnsOf (d : Dev) (p a : Nat) : List Nat := (d.slicesOf a p).flatMap (fun s => (List.range 8).map (fun j => 8 * s + j))

/-- Address of chunk `n` of row `i` of an operand at `x` (R383). -/
def chunkAddr (x i n : Nat) : Nat := x + 4096 * (n / 4) + 128 * i + 32 * (n % 4)

/-- Granules that the first `nch` chunks of some rows lie in. -/
def chunkGranules (x nch : Nat) (rows : List Nat) : List Nat :=
  (List.range (ceilDiv nch 2)).flatMap (fun n => rows.map (fun i => chunkAddr x i (2 * n) / 64))

/-- Elements of a chunk, as numbers. -/
def intElems (f : Nat) (bs : List Byte) : List Int := (List.range (chunkOf f)).map (fun k => intElem f (elemAt f bs k))

def fpElems (f : Nat) (bs : List Byte) : List Num :=
  (List.range (chunkOf f)).map (fun k => ((fpFmt f).getD fp32).decode (elemAt f bs k))

/-- One chunk of DPU (i, j): the new accumulator, and whether it saturated (R357, R358). -/
def chunkStep (fa fb : Nat) (acc : BitVec 32) (a b : List Byte) : BitVec 32 × Bool :=
  if fa < 4 then intChunk acc ((intElems fa a).zip (intElems fb b))
  else (fpChunk acc ((fpElems fa a).zip (fpElems fb b)), false)

/-- R359: the chunks in ascending order. -/
def Mem.dot (m : Mem) (w s t i j : Nat) (acc0 : BitVec 32) : BitVec 32 × Bool :=
  (List.range (iNch w)).foldl (fun (acc : BitVec 32 × Bool) n =>
    let r := chunkStep (bitsOf w 35 32) (bitsOf w 31 28) acc.1 (m.bytes (chunkAddr s i n) 32) (m.bytes (chunkAddr t j n) 32)
    (r.1, acc.2 || r.2)) (acc0, false)

/-- Put a value in an accumulator of each listed DPU. -/
def putAcc (t : SMap (BitVec 32)) (a acc : Nat) (vs : List (Nat × Nat × BitVec 32)) : SMap (BitVec 32) :=
  vs.foldl (fun t v => SMap.write 0 t (accKey a v.1 v.2.1 acc) v.2.2) t

/-- The DPUs of some columns: row and column. -/
def dpus (cols : List Nat) : List (Nat × Nat) := (List.range 32).flatMap (fun i => cols.map (fun j => (i, j)))

/-- OUT layout (R356, R383): address and 32 bytes for each row and own slice. -/
def Dev.outParts (d : Dev) (p a acc x : Nat) : List (Nat × List Byte) :=
  (List.range 32).flatMap (fun i => (d.slicesOf a p).map (fun s =>
    (x + 128 * i + 32 * s, (List.range 8).flatMap (fun j => leBytes 4 (d.accAt a i (8 * s + j) acc).toNat))))

/-- MMA (R356 to R359): the new accumulators, SAT. -/
def Dev.mmaValues (d : Dev) (p a : Nat) (o : Op) : List (Nat × Nat × BitVec 32) × Bool :=
  let rs := (dpus (d.columnsOf p a)).map (fun x =>
    let acc0 := if bitOf o.word 26 then 0 else d.accAt a x.1 x.2 (iAcc o.word)
    (x, d.mem.dot o.word o.s.toNat o.t.toNat x.1 x.2 acc0))
  (rs.map (fun r => (r.1.1, r.1.2, r.2.1)), rs.any (·.2.2))

/-! ### The vector unit -/

def signed32 (v : Nat) : Int := toSigned 32 v
def word32 (v : Int) : Nat := ofSigned 32 v

/-- VFP by FN (R361). -/
def vfpLane (fn s t u : Nat) : Nat :=
  match fn with
  | 0 => fp32.fma s t u
  | 1 => fp32.add s t
  | 2 => fp32.sub s t
  | 3 => fp32.mul s t
  | 4 => fp32.least false s t
  | 5 => fp32.least true s t
  | 6 => fp32.div s t
  | 7 => fp32.sqrt s
  | 8 => fp32.recip s
  | 9 => fp32.rsqrt s
  | _ => (Config.vxuWord (0x30 * 64 + fn) [s]).toNat

/-- VINT by FN; a shift by 32 or more has no stated result. -/
def vintLane (fn s t : Nat) : Nat :=
  let sh (v : Int) : Nat := if 32 ≤ t then (Config.vxuWord (0x31 * 64 + fn) [s, t]).toNat else word32 v
  match fn with
  | 0 => word32 (signed32 s + signed32 t)
  | 1 => word32 (signed32 s - signed32 t)
  | 2 => word32 (signed32 s * signed32 t)
  | 3 => sh (s * 2 ^ (t % 32) : Nat)
  | 4 => sh (s / 2 ^ (t % 32) : Nat)
  | 5 => sh (signed32 s / (2 ^ (t % 32) : Nat))
  | 6 => Nat.land s t
  | 7 => Nat.lor s t
  | 8 => Nat.xor s t
  | 9 => word32 (satSigned 32 (signed32 s + signed32 t))
  | 10 => word32 (satSigned 32 (signed32 s - signed32 t))
  | 11 => if signed32 t < signed32 s then t else s
  | _ => if signed32 t < signed32 s then s else t

/-- VCMP by FN and TYPE (R361, R384): comparisons with NaN are false. -/
def vcmpLane (fn ty s t : Nat) : Nat :=
  if ty = 8 then
    let x := fp32.decode s
    let y := fp32.decode t
    match fn with
    | 0 => b2n (x.eq y)
    | 1 => b2n (x.lt y)
    | _ => b2n (x.lt y || x.eq y)
  else
    match fn with
    | 0 => b2n (decide (s = t))
    | 1 => b2n (decide (signed32 s < signed32 t))
    | _ => b2n (decide (signed32 s ≤ signed32 t))

/-- A result narrower than its lane; no rule states the bits above it. -/
def narrowLane (key : Nat) (ops : List Nat) (bits v : Nat) : Nat :=
  if 32 ≤ bits then v % 2 ^ 32
  else v % 2 ^ bits + (Config.vxuWord key ops).toNat / 2 ^ bits * 2 ^ bits

/-- VCVT from format `src` to `dst` (R362). -/
def convert (src dst : Nat) (sat : Bool) (x : Nat) : Nat :=
  let e := x % 2 ^ fmtBits src
  match fpFmt src, fpFmt dst with
  | some f, some g => g.narrow sat (f.widen e)
  | some f, none =>
    match intFmt dst with
    | some i => fpToInt i.1 i.2 (f.widen e)
    | none => 0
  | none, some g =>
    let v := intElem src e
    g.encode .nearest sat (decide (v < 0)) v.natAbs 0 false
  | none, none => if fmtBits src ≤ fmtBits dst ∧ dst = 9 then word32 (intElem src e) else (Config.vxuWord (0x35 * 64 + dst) [src, x]).toNat

def vcvtLane (src dst : Nat) (sat : Bool) (x : Nat) : Nat :=
  narrowLane (0x34 * 64 + src) [dst, b2n sat, x] (fmtBits dst) (convert src dst sat x)

/-- VREQ (R362, R384). -/
def vreqLane (ty sh s t u : Nat) : Nat :=
  let i := (intFmt ty).getD (true, 8)
  let z : Int := if i.1 then toSigned 8 u else (u % 256 : Nat)
  narrowLane (0x38 * 64 + ty) [sh, s, t, u] i.2 (requant (signed32 s) (signed32 t) sh z i.1 i.2)

/-- ⊕ of R363. -/
def redOp (fn ty x y : Nat) : Nat :=
  if ty = 8 then
    match fn with
    | 0 => fp32.add x y
    | 1 => fp32.least true x y
    | _ => fp32.least false x y
  else
    match fn with
    | 0 => vintLane 0 x y
    | 1 => vintLane 12 x y
    | _ => vintLane 11 x y

/-- One pass of R363. -/
def redPass (fn ty : Nat) (l : List Nat) : List Nat :=
  (List.range (l.length / 2)).map (fun k => redOp fn ty (l.getD (2 * k) 0) (l.getD (2 * k + 1) 0))

/-- R363. A partition holds 1, 2 or 4 slices of an array (R29), so the number of lanes is a power of two. -/
def reduce (fn ty : Nat) (l : List Nat) (fuel : Nat) : Nat :=
  match fuel with
  | 0 => l.headD 0
  | n + 1 =>
    if l.length ≤ 1 then l.headD 0
    else reduce fn ty (redPass fn ty l) n

/-- The words of vector `n` of an operand at `x`, in lane order (R363, R384). -/
def Dev.vecWords (d : Dev) (p a x n : Nat) : List Nat :=
  (d.sliceOffs p a).flatMap (fun o => (List.range 64).map (fun l => leNat (d.mem.bytes (x + o + 256 * n + 4 * l) 4)))

/-- A lane of a VXU operation that works lane by lane. -/
def vxuLane (w s t u : Nat) : Nat :=
  match iOp w with
  | 0x30 => vfpLane (iFn w) s t u
  | 0x31 => vintLane (iFn w) s t
  | 0x32 => vcmpLane (iFn w) (iType w) s t
  | 0x33 => if bitOf u 0 then t else s
  | 0x34 => vcvtLane (iFn w) (iType w) (iSat w) s
  | _ => vreqLane (iType w) (bitsOf w 11 7) s t u

/-- PERMUTE: lane l takes lane (T lane l) mod L of S. -/
def permute (s t : List Nat) : List Nat := t.map (fun k => s.getD (k % max 1 s.length) 0)

/-- Result words of vector `n` of an operation. -/
def Dev.vxuVector (d : Dev) (p a : Nat) (o : Op) (n : Nat) : List Nat :=
  let w := o.word
  let s := d.vecWords p a o.s.toNat n
  if iOp w = 0x37 then
    if iFn w = 0 then s.map (fun _ => leNat (d.mem.bytes o.s.toNat 4)) else permute s (d.vecWords p a o.t.toNat n)
  else
    let k := vxuSources w
    let t := if 2 ≤ k then d.vecWords p a o.t.toNat n else []
    let u := if 3 ≤ k then d.vecWords p a o.u.toNat n else []
    (List.range s.length).map (fun l => vxuLane w (s.getD l 0) (t.getD l 0) (u.getD l 0))

/-- What a VXU operation stores. -/
def Dev.vxuWrites (d : Dev) (p a : Nat) (o : Op) : List (Nat × List Byte) :=
  (List.range (iNv o.word)).flatMap (fun n =>
    if iOp o.word = 0x36 then
      [(o.d.toNat + 4 * n, leBytes 4 (reduce (iFn o.word) (iType o.word) (d.vecWords p a o.s.toNat n) 9))]
    else
      let v := d.vxuVector p a o n
      (d.sliceOffs p a).mapIdx (fun q off => (o.d.toNat + off + 256 * n, ((v.drop (64 * q)).take 64).flatMap (leBytes 4))))

/-! ### Completion of an operation of the arrays -/

/-- Granules that an operation reads, in order. -/
def Dev.opGranules (d : Dev) (p a : Nat) (o : Op) : List Nat :=
  if iOp o.word = 0x20 then
    chunkGranules o.s.toNat (iNch o.word) (List.range 32) ++ chunkGranules o.t.toNat (iNch o.word) (d.columnsOf p a)
  else (d.opReads p a o).flatMap (fun r => granules r.1 r.2)

/-- What an MMA or VXU operation has written once it has ended. -/
def Dev.arrayEffect (d : Dev) (r : Run) (a : Nat) (o : Op) : Dev × List (Nat × List Byte) :=
  let p := r.part
  if iOp o.word = 0x20 then
    let v := d.mmaValues p a o
    let d := { d with acc := putAcc d.acc a (iAcc o.word) v.1 }
    let d := if v.2 then d.set R.TA_STATUS.SAT a 0 1 else d
    let d := d.count 0 5 (iNch o.word) ⟨b2n r.safety, r.ctx, 8, a, none, some a⟩
    (d, if bitOf o.word 25 then d.outParts p a (iAcc o.word) o.u.toNat else [])
  else (d.count 0 6 (iNv o.word) ⟨b2n r.safety, r.ctx, 8, a, none, some a⟩, d.vxuWrites p a o)

/-- R144: what an operation that failed leaves: undefined bytes where its result goes, undefined accumulators. -/
def Dev.opUndefine (d : Dev) (p a : Nat) (o : Op) : Dev :=
  let cols := d.columnsOf p a
  let rs := if iOp o.word = 0x20 then
      (if bitOf o.word 25 then (d.outParts p a (iAcc o.word) o.u.toNat).map (fun x => (x.1, 32)) else [])
    else d.opWrites p a o
  let d := rs.foldl (fun d r => d.undefine r.1 r.2) d
  if iOp o.word = 0x20 then
    let f := freeWords Config.undefByte (4 * 32 * cols.length) d
    { f.2 with acc := putAcc f.2.acc a (iAcc o.word) ((dpus cols).mapIdx (fun n x => (x.1, x.2, BitVec.ofNat 32 (fieldAt f.1 (4 * n) 4)))) }
  else d

end Sys2Proof.Machine
end

