-- ==== Sys2Proof/Machine/TaRows.lean ====
section
/-! DEFINITION. The sequencer's array and data movement operations and the completion of an outstanding one
(R356 to R371, R379, R380, R383, R384). -/

namespace Sys2Proof.Machine

/-! ### Issue -/

/-- A 4 KiB tile, or a sequence of tiles, in the stream's own T0. -/
def Dev.tileOk (d : Dev) (i : Ins) (x n : Nat) : Bool := decide (x % 4096 = 0) && d.ownT0 i.run.part i.s.array x n

/-- Another run of the stream has a dot-product operation outstanding: the DPUs take them in order. -/
def Dev.dpuTaken (d : Dev) (i : Ins) : Bool :=
  d.runs.any (fun r => decide (r.id ≠ i.run.id) && r.streams.any (fun s =>
    decide (s.array = i.s.array ∧ s.q = i.s.q) && s.ops.any (fun o => decide (iOp o.word = 0x20))))

/-- MMA, R383. -/
def Dev.mmaIns (i : Ins) (d : Dev) : Dev :=
  if d.dpuTaken i then d.stall i .op
  else
    d.issueOp i (d.tileOk i i.sv (mmaBytes i.w) && d.tileOk i i.tv (mmaBytes i.w) &&
      (!bitOf i.w 25 || d.tileOk i i.uv 4096))

def execMma (a q : Nat) (s : State) : Host.Outcome State Fault Refusal := seqRow a q 0x20 Dev.mmaIns s

/-- The stream's DPUs are busy. -/
def Dev.dpuBusy (d : Dev) (i : Ins) : Bool := i.s.ops.any (fun o => decide (iOp o.word = 0x20)) || d.dpuTaken i

/-- ACC_LD: the accumulators of the stream's DPUs from the tile at S, in OUT layout. -/
def Dev.accLd (i : Ins) (d : Dev) : Dev :=
  let p := i.run.part
  let a := i.s.array
  if !d.tileOk i i.sv 4096 then d.seqRange i
  else if d.dpuBusy i then d.stall i .op
  else
    d.guard i [(i.sv, 4096)] [] (fun d =>
      let ps := d.outParts p a 0 i.sv
      match d.checkAll i.who (dedup (ps.map (fun x => x.1 / 64))) with
      | (d, some e) => d.seqAcc i e
      | (d, none) =>
        let vs := (dpus (d.columnsOf p a)).map (fun x =>
          (x.1, x.2, BitVec.ofNat 32 (leNat (d.mem.bytes (i.sv + 128 * x.1 + 4 * x.2) 4))))
        { d with acc := putAcc d.acc a (iAcc i.w) vs }.goOn i id)

def execAccLd (a q : Nat) (s : State) : Host.Outcome State Fault Refusal := seqRow a q 0x21 Dev.accLd s

/-- ACC_ST: as OUT does. -/
def Dev.accSt (i : Ins) (d : Dev) : Dev :=
  if !d.tileOk i i.sv 4096 then d.seqRange i
  else if d.dpuBusy i then d.stall i .op
  else
    d.guard i [] [(i.sv, 4096)] (fun d =>
      match d.writeList i.who (d.outParts i.run.part i.s.array (iAcc i.w) i.sv) with
      | (d, some e) => d.seqAcc i e
      | (d, none) => d.goOn i id)

def execAccSt (a q : Nat) (s : State) : Host.Outcome State Fault Refusal := seqRow a q 0x22 Dev.accSt s

/-- A VXU operation: its vectors, or the one word of a BCAST, lie in the stream's own T0 (Table 14-4). -/
def Dev.vxuIns (i : Ins) (d : Dev) : Dev :=
  let p := i.run.part
  let a := i.s.array
  let nv := iNv i.w
  let k := vxuSources i.w
  let bcast := decide (iOp i.w = 0x37 ∧ iFn i.w = 0)
  let src := (k = 0 ∨ d.vecOk p a i.sv nv = true) ∧ (k < 2 ∨ d.vecOk p a i.tv nv = true) ∧ (k < 3 ∨ d.vecOk p a i.uv nv = true)
  let low := (d.slicesOf a p).headD 0
  let dst := if iOp i.w = 0x36 then decide (sliceBase a low ≤ i.dv ∧ i.dv + 4 * nv ≤ sliceBase a low + sliceSize)
    else d.vecOk p a i.dv nv
  d.issueOp i ((!bcast || d.ownT0 p a i.sv 4) && (bcast || decide src) && dst)

/-- VFP. -/
def execVfp (a q : Nat) (s : State) : Host.Outcome State Fault Refusal := seqRow a q 0x30 Dev.vxuIns s
/-- VINT. -/
def execVint (a q : Nat) (s : State) : Host.Outcome State Fault Refusal := seqRow a q 0x31 Dev.vxuIns s
/-- VCMP. -/
def execVcmp (a q : Nat) (s : State) : Host.Outcome State Fault Refusal := seqRow a q 0x32 Dev.vxuIns s
/-- VSEL. -/
def execVsel (a q : Nat) (s : State) : Host.Outcome State Fault Refusal := seqRow a q 0x33 Dev.vxuIns s
/-- VCVT. -/
def execVcvt (a q : Nat) (s : State) : Host.Outcome State Fault Refusal := seqRow a q 0x34 Dev.vxuIns s
/-- VREQ. -/
def execVreq (a q : Nat) (s : State) : Host.Outcome State Fault Refusal := seqRow a q 0x35 Dev.vxuIns s
/-- VRED. -/
def execVred (a q : Nat) (s : State) : Host.Outcome State Fault Refusal := seqRow a q 0x36 Dev.vxuIns s
/-- VMOV. -/
def execVmov (a q : Nat) (s : State) : Host.Outcome State Fault Refusal := seqRow a q 0x37 Dev.vxuIns s

/-- The mover descriptor of a MOVE as used: with RG, T and U replace SRC and DST. -/
def moveDesc (i : Ins) (b : List Byte) : List Byte :=
  if bitOf i.w 31 then putSlice (putSlice b 8 (leBytes 8 i.tv)) 16 (leBytes 8 i.uv) else b

/-- MOVE hands its descriptor to the mover (R126, R130). -/
def Dev.moveHand (d : Dev) (i : Ins) (b : List Byte) : Dev :=
  let tmv := bitsOf i.w 35 32
  match d.moverBad i.run.part i.run.ctx b with
  | some sub => d.seqFault i 3 0x13 sub [] 0
  | none =>
    let fs := if mvZero b then [] else [footprint b true]
    d.guard i fs [footprint b false] (fun d =>
      let id := d.nextId
      (d.queueCopy tmv b i.run none).push i (some id))

/-- MOVE: the descriptor lies aligned to 64 bytes in T1, T2 or T3 (R127); `h` answers a read of T3. -/
def Dev.moveIns (h : HostView) (i : Ins) (d : Dev) : Dev :=
  let x := i.sv
  if d.resPart (0x0A * 64 + bitsOf i.w 35 32) ≠ some i.run.part then d.seqBlocked i
  else if 64 ≤ i.s.ops.length then d.stall i .op
  else if i.s.spec.isSome then d.stall i .spec
  else if !d.permits i.run.part i.run.ctx x 64 false || isPeer x then d.seqBlocked i
  else if x % 64 ≠ 0 ∨ tierOf x = 0 then d.seqFault i 3 0x13 7 [] 0
  else
    d.guard i [(x, 64)] [] (fun d =>
      match d.read i.who h x 64 with
      | (d, .error e) => d.seqAcc i e
      | (d, .ok b) => d.moveHand i (moveDesc i b))

def execMove (a q : Nat) (h : HostView) (s : State) : Host.Outcome State Fault Refusal := seqRow a q 0x40 (Dev.moveIns h) s

/-- Send a memory request for an instruction (R417, R418, R423). -/
def Dev.issuePeer (d : Dev) (i : Ins) (x kind dst len : Nat) (bytes : List Byte) : Dev :=
  let m := (peerOf x).1
  match d.wayTo m with
  | .none => d.seqAcc i (.peer m)
  | .wait => d.stall i .op
  | .go =>
    let tag := d.nextId
    ({ d with nextId := d.nextId + 1 }.sendL4 ⟨tag, m, i.run.id, kind, dst, len, none⟩ bytes).push i (some tag)

/-- PUT: from own T0 to T (R379). -/
def Dev.putIns (i : Ins) (d : Dev) : Dev :=
  let n := iLen i.w
  let p := i.run.part
  if !d.ownT0 p i.s.array i.sv n then d.seqRange i
  else if !d.permits p i.run.ctx i.tv n true || d.isProtected i.tv n then d.seqBlocked i
  else if 64 ≤ i.s.ops.length then d.stall i .op
  else
    d.guard i [(i.sv, n)] [(i.tv, n)] (fun d =>
      if isPeer i.tv then
        match d.readDev i.who i.sv n with
        | (d, .error e) => d.seqAcc i e
        | (d, .ok bs) => d.issuePeer i i.tv 0 0 n (reqBytes 0 0 (peerOf i.tv).2 n bs)
      else d.push i none)

def execPut (a q : Nat) (s : State) : Host.Outcome State Fault Refusal := seqRow a q 0x48 Dev.putIns s

/-- GET: from S to own T0 (R379). A read of T3 takes the default budget (R142). -/
def Dev.getIns (i : Ins) (d : Dev) : Dev :=
  let n := iLen i.w
  let p := i.run.part
  if !d.ownT0 p i.s.array i.tv n then d.seqRange i
  else if !d.permits p i.run.ctx i.sv n false || d.isProtected i.tv n then d.seqBlocked i
  else if 64 ≤ i.s.ops.length then d.stall i .op
  else
    d.guard i [(i.sv, n)] [(i.tv, n)] (fun d =>
      if isPeer i.sv then d.issuePeer i i.sv 1 i.tv n (reqBytes 1 0 (peerOf i.sv).2 n [])
      else if isT3 i.sv then
        match i.run.ctx.bind (fun c => (d.t3Map c i.sv n false).map (fun io => (c, io))) with
        | some x =>
          let tag := d.nextId
          (d.startT3 i.run.id x.1 x.2 n i.sv 0 none i.tv).push i (some tag)
        | none => d.seqBlocked i
      else d.push i none)

def execGet (a q : Nat) (s : State) : Host.Outcome State Fault Refusal := seqRow a q 0x49 Dev.getIns s

/-- ATOMIC_ADD and ATOMIC_MAX (R379): aligned, not in T3, executed at the destination. -/
def Dev.atomicIns (max_ : Bool) (i : Ins) (d : Dev) : Dev :=
  let n := if bitOf i.w 1 then 8 else 4
  let p := i.run.part
  if i.sv % n ≠ 0 ∨ isT3 i.sv = true then d.seqRange i
  else if !d.permits p i.run.ctx i.sv n false || !d.permits p i.run.ctx i.sv n true || d.isProtected i.sv n then d.seqBlocked i
  else if 64 ≤ i.s.ops.length then d.stall i .op
  else if i.s.spec.isSome then d.stall i .spec
  else
    d.guard i [(i.sv, n)] [(i.sv, n)] (fun d =>
      if isPeer i.sv then
        d.issuePeer i i.sv 2 (if bitOf i.w 0 then iD i.w + 1 else 0) n
          (reqBytes (if max_ then 3 else 2) (b2n (bitOf i.w 1) + 2 * b2n (max_ && bitOf i.w 2)) (peerOf i.sv).2 n
            (leBytes n i.tv))
      else d.push i none)

/-- ATOMIC_ADD. -/
def execAtomicAdd (a q : Nat) (s : State) : Host.Outcome State Fault Refusal := seqRow a q 0x4A (Dev.atomicIns false) s
/-- ATOMIC_MAX. -/
def execAtomicMax (a q : Nat) (s : State) : Host.Outcome State Fault Refusal := seqRow a q 0x4B (Dev.atomicIns true) s

/-! ### Completion -/

/-- R379: new value of an atomic. -/
def atomicNew (max_ sgn : Bool) (bits old t : Nat) : Nat :=
  let v := t % 2 ^ bits
  if !max_ then (old + v) % 2 ^ bits
  else if sgn then (if toSigned bits old < toSigned bits v then v else old)
  else (if old < v then v else old)

/-- R23, R137: an atomic at its destination; a poisoned granule stays as it is. The old value. -/
def Dev.atomic (d : Dev) (w : Who) (x n : Nat) (max_ sgn : Bool) (t : Nat) : Dev × Except AccErr Nat :=
  match d.readDev w x n with
  | (d, .error e) => (d, .error e)
  | (d, .ok bs) =>
    let old := leNat bs
    match d.write w x (leBytes n (atomicNew max_ sgn (8 * n) old t)) with
    | (d, some e) => (d, .error e)
    | (d, none) => (d, .ok old)

/-- Outstanding operations of a stream over its runs: run, stream, operation. -/
def Dev.opsOn (d : Dev) (a q : Nat) : List (Run × Stream × Op) :=
  d.runs.flatMap (fun r => (r.streams.filter (fun s => decide (s.array = a ∧ s.q = q))).flatMap (fun s =>
    s.ops.map (fun o => (r, s, o))))

/-- Remove one outstanding operation. -/
def Dev.dropOp (d : Dev) (r : Run) (s : Stream) (o : Op) (f : Stream → Stream) : Dev :=
  d.setStream r.id s.array s.q (fun s => f { s with
    ops := s.ops.erase o
    wait := if s.wait = .op then .none else s.wait })

/-- The end of an operation without a fault of the arrays. -/
def Dev.endOp (d : Dev) (r : Run) (s : Stream) (o : Op) : Dev :=
  let a := s.array
  let i : Ins := ⟨r, s, o.word, (d.codeOf r.wb a).1 + 8 * o.pc⟩
  let fail (d : Dev) (e : AccErr) : Dev := (d.opUndefine r.part a o).seqAcc i e
  match iOp o.word with
  | 0x48 =>
    match d.readDev i.who o.s.toNat (iLen o.word) with
    | (d, .error e) => fail d e
    | (d, .ok bs) =>
      match d.write i.who o.t.toNat bs with
      | (d, some e) => fail d e
      | (d, none) => d.dropOp r s o id
  | 0x49 =>
    match d.readDev i.who o.s.toNat (iLen o.word) with
    | (d, .error e) => fail d e
    | (d, .ok bs) =>
      match d.write i.who o.t.toNat bs with
      | (d, some e) => fail d e
      | (d, none) => d.dropOp r s o id
  | 0x4A | 0x4B =>
    let n := if bitOf o.word 1 then 8 else 4
    match d.atomic i.who o.s.toNat n (decide (iOp o.word = 0x4B)) (bitOf o.word 2) o.t.toNat with
    | (d, .error e) => d.seqAcc i e
    | (d, .ok old) => d.dropOp r s o (fun s => if bitOf o.word 0 then s.setReg (iD o.word) old else s)
  | _ =>
    match d.checkAll i.who (d.opGranules r.part a o) with
    | (d, some e) => fail d e
    | (d, none) =>
      let x := d.arrayEffect r a o
      match x.1.writeList i.who x.2 with
      | (d, some e) => fail d e
      | (d, none) => d.dropOp r s o id

/-- Result tile that an operation names: its granules (R366). -/
def Dev.resultGranules (d : Dev) (p a : Nat) (o : Op) : List Nat :=
  dedup ((d.opWrites p a o).flatMap (fun r => granules r.1 r.2))

/-- Slice that physical column `j` of array `a` serves. -/
def Dev.columnSlice (d : Dev) (a j : Nat) : Nat := d.get R.TA_COL_STAT.LOGICAL a j / 8

/-- R139, R364 to R367: a fault within an operation. In a speculative frame only steps 4 and 5 of R366 apply, with the
failed gate. -/
def Dev.opFault (d : Dev) (r : Run) (s : Stream) (o : Op) (k : CheckFault) : Dev :=
  let a := s.array
  let i : Ins := ⟨r, s, o.word, (d.codeOf r.wb a).1 + 8 * o.pc⟩
  let gs := d.resultGranules r.part a o
  let addr := if k.kind = 4 then k.addr / 64 * 64 else gs.headD 0 * 64
  let col := match k.site with | .column j => j | .vxu => 0xFF
  let slice := match k.site with | .column j => d.columnSlice a j | .vxu => (d.slicesOf a r.part).headD 0
  let d := ((((d.set R.TA_ERR_LOG.TIME a 0 (d.tbVal 0)).set R.TA_ERR_LOG.COLUMN a 0 (min col 0x3F)).set R.TA_ERR_LOG.SLICE a 0
    slice).set R.TA_ERR_LOG.KIND a 0 k.kind).set R.TA_ERR_LOG.ADDR a 0 addr
  let d := match k.site with
    | .column j => if k.kind = 4 then d else d.addSat R.TA_COL_STAT.FAULTS a j 1
    | .vxu => if k.kind = 4 then d else d.addSat R.TA_SLICE_STAT.VXU_FAULTS a slice 1
  let d := match k.kind with
    | 3 => d.set R.TA_STATUS.DUP a 0 1
    | 4 => (d.set R.TA_STATUS.PATH_PARITY a 0 1).logMem 3 0 addr
    | _ => d.set R.TA_STATUS.RESIDUE a 0 1
  let d := d.event 0 0x58 0x21 0 (leBytes 1 a ++ leBytes 1 col ++ leBytes 1 k.kind) addr
  let d := d.annal 2 k.kind 8 (annUnit r.part a) (leBytes 8 addr)
  let d := d.suspect ⟨8, match k.site with | .column j => 34 * a + j | .vxu => 136 + a⟩
  let report (d : Dev) : Dev := if r.safety then d.dangerous 4 0 addr false none else d
  match s.spec.bind (fun x => d.specTrack r.id x.seg) with
  | some f => report (d.gateFail f.1 f.2 0)
  | none =>
    let d := if k.kind = 4 then d else gs.foldl (fun d g => d.poisonGranule g) d
    let d := (((d.set R.SEQ_ERR_LOG.TIME a 0 (d.tbVal 0)).set R.SEQ_ERR_LOG.KIND a 0 8).set
      R.SEQ_ERR_LOG.STREAM a 0 s.q).set R.SEQ_ERR_LOG.ADDR a 0 i.addr
    d.failRun r 0x21 0 (leBytes 6 addr) (some 4) addr

/-- A fault of this kind and place can occur in the operation: DPU checks in an MMA, VXU checks in a VXU operation. -/
def faultFits (k : CheckFault) (o : Op) : Bool :=
  match k.site with
  | .column j => decide (iOp o.word = 0x20 ∧ j < 34 ∧ (k.kind = 1 ∨ k.kind = 3 ∨ k.kind = 4))
  | .vxu => isVxu (iOp o.word) && decide (k.kind = 2 ∨ k.kind = 3)

/-- A kind of R371 and a column of the array (R349). -/
def checkOk (f : CheckFault) : Bool :=
  decide (1 ≤ f.kind ∧ f.kind ≤ 4) && (match f.site with | .column j => decide (j < 34) | .vxu => true)

/-- SEQ_OPERATION_COMPLETE: the operation numbered `idx` on a stream ends. MMAs end in order (R359); operations under a
tag end where their tag does. -/
def Dev.completeOp (d : Dev) (a q idx : Nat) (fault : Option CheckFault) : Dev :=
  match (d.opsOn a q)[idx]? with
  | none => d
  | some x =>
    let r := x.1
    let s := x.2.1
    let o := x.2.2
    if o.tag.isSome then d
    else if iOp o.word = 0x20 ∧ (s.ops.find? (fun y => decide (iOp y.word = 0x20))) ≠ some o then d
    else
      match fault with
      | none => d.endOp r s o
      | some k => if faultFits k o then d.opFault r s o k else d

def execSeqOperationComplete (a q idx : Nat) (fault : Option CheckFault) (s : State) : Host.Outcome State Fault Refusal :=
  onDev (streamOk a q && fault.all checkOk) (fun _ d => d.completeOp a q idx fault) s

end Sys2Proof.Machine
end

