-- ==== Sys2Proof/Machine/MemRows.lean ====
section
/-! DEFINITION. Memory commands: mover steps, the budgets and completions of T2 and T3 accesses, the scrubber
(R126 to R150). -/

namespace Sys2Proof.Machine

/-- MOVER_STEP, R126. -/
def execMoverStep (tmv : Nat) (s : State) : Host.Outcome State Fault Refusal :=
  onDev (decide (tmv < 16)) (fun _ d => d.stepMover tmv) s

/-- T2_BUDGET_EXPIRY, R141: a T2 access of a started run has not completed within its budget. -/
def Dev.t2Late (d : Dev) (run addr : Nat) : Dev :=
  match d.run run with
  | some r =>
    if r.started.isSome && decide (tierOf addr = 2) then
      let x := d.tierErr false 2 addr
      match x.2 with
      | some e => x.1.failAcc r e
      | none => x.1
    else d
  | none => d

def execT2BudgetExpiry (run addr : Nat) (s : State) : Host.Outcome State Fault Refusal :=
  onDev true (fun _ d => d.t2Late run addr) s

/-! ### T3 reads (R138, R142, R143) -/

def Dev.t3Of (d : Dev) (tag : Nat) : Option T3Read := d.t3reads.find? (fun t => decide (t.tag = tag))

/-- The stream that waits for a tagged operation, and the operation. -/
def Run.taggedOp (r : Run) (tag : Nat) : Option (Stream × Op) :=
  r.streams.findSome? (fun s => (s.ops.find? (fun o => decide (o.tag = some tag))).map (fun o => (s, o)))

/-- A tagged operation of a stream fails: its result is undefined (R144), its run ends. -/
def Dev.taggedFail (d : Dev) (run tag : Nat) (e : AccErr) : Dev :=
  match d.run run with
  | none => d
  | some r =>
    match r.taggedOp tag with
    | none => d
    | some so =>
      (d.opUndefine r.part so.1.array so.2).seqAcc ⟨r, so.1, so.2.word, (d.codeOf r.wb so.1.array).1 + 8 * so.2.pc⟩ e

/-- A T3 read ends with an error. A poisoned completion poisons a mover's destination (R138). -/
def Dev.t3Fail (d : Dev) (t : T3Read) (e : AccErr) : Dev :=
  let d := { d with t3reads := d.t3reads.filter (fun x => decide (x.tag ≠ t.tag)) }
  let d := d.noteT3 e
  match t.copy with
  | some c =>
    match (d.mover c.1).find? (fun x => decide (x.id = c.2)) with
    | some x =>
      let d := match e with
        | .poison _ _ => d.poisonRange t.dst t.len
        | _ => d
      d.copyFail x e
    | none => d
  | none => d.taggedFail t.run t.tag e

/-- The bytes of a T3 read arrive. -/
def Dev.t3Land (d : Dev) (t : T3Read) (bs : List Byte) : Dev :=
  let d := { d with t3reads := d.t3reads.filter (fun x => decide (x.tag ≠ t.tag)) }
  let bs := slice bs 0 t.len
  match d.run t.run with
  | none => d
  | some r =>
    match t.copy with
    | some c => (d.count 1 3 t.len ((r.who 7 c.1 none).occ t.da)).landCopy c.1 c.2 t.dst bs
    | none =>
      match r.taggedOp t.tag with
      | none => d
      | some so =>
        let w := r.who 8 so.1.array (some so.1.array)
        match (d.count 1 3 t.len (w.occ t.da)).write w t.dst bs with
        | (d, some e) => d.taggedFail t.run t.tag e
        | (d, none) => d.opEnded t.run t.tag (fun _ s => s)

/-- T3_BUDGET_EXPIRY, R142. Not due before the end of the read's budget. -/
def Dev.t3Expire (d : Dev) (tag : Nat) : Dev :=
  match d.t3Of tag with
  | some t => if t.until_ ≤ d.now then d.t3Fail t (.tier false 3 t.da) else d
  | none => d

def execT3BudgetExpiry (tag : Nat) (s : State) : Host.Outcome State Fault Refusal := onDev true (fun _ d => d.t3Expire tag) s

/-- T3_READ_COMPLETION, R138, R142, R143: a completion for a read that has ended is discarded. -/
def Dev.t3Complete (d : Dev) (tag : Nat) (r : PcieReply) : Dev :=
  match d.t3Of tag with
  | some t =>
    match r with
    | .data bs => d.t3Land t bs
    | .poisoned => d.t3Fail t (.poison 3 (t.da / 64 * 64))
    | _ => d.t3Fail t (.tier true 3 t.da)
  | none => d

def execT3ReadCompletion (tag : Nat) (r : PcieReply) (s : State) : Host.Outcome State Fault Refusal :=
  onDev true (fun _ d => d.t3Complete tag r) s

/-! ### The scrubber (R145 to R150) -/

/-- Ranges that a pass of partition `p` reads: T0, T1, T2, or (3) its regions marked safety class. -/
def Dev.scrubRanges (d : Dev) (p kind : Nat) : List (Nat × Nat) :=
  match kind with
  | 0 => (List.range 4).flatMap (fun a => (d.slicesOf a p).map (fun s => (sliceBase a s, sliceSize)))
  | 1 => [(0x10000000 + p * (t1Size / d.parts), t1Size / d.parts)]
  | 2 => [(0x800000000 + p * (stackSize / d.parts), stackSize / d.parts), (0xC00000000 + p * (stackSize / d.parts), stackSize / d.parts)]
  | _ => (d.wbs.filter (fun b => decide (b.part = p))).flatMap (fun b =>
      (b.place.filter (fun r => bitOf r.flags 0)).map (fun r => (r.da / 64 * 64, roundUp (r.da % 64 + r.bytes) 64)))

/-- Granule number `n` of a list of ranges. -/
def nthGranule (rs : List (Nat × Nat)) (n : Nat) : Option Nat :=
  match rs with
  | [] => none
  | r :: rest => if n < r.2 / 64 then some (r.1 / 64 + n) else nthGranule rest (n - r.2 / 64)

/-- The workbook and region that cover a granule. -/
def Dev.regionOf (d : Dev) (x : Nat) : Option (Wb × Region) :=
  d.wbs.findSome? (fun b => (b.place.find? (fun r => decide (r.da < x + 64 ∧ x < r.da + r.bytes))).map (fun r => (b, r)))

/-- R146: contexts that event 0x05 goes to. -/
def Dev.poisonOwners (d : Dev) (x : Nat) : List Nat :=
  match d.wins.find? (fun w => decide (w.decl.base ≤ x ∧ x < w.decl.base + w.decl.bytes)) with
  | some w => (match (d.wb w.wb).bind (·.ctx) with | some c => [c, 0] | none => [0])
  | none =>
    match d.regionOf x with
    | some br => (match br.1.ctx with | some c => [c, 0] | none => d.safeCtxs)
    | none => [0]

/-- R146, R148, R149: uncorrectable data found by the scrubber. -/
def Dev.scrubFound (d : Dev) (p g : Nat) : Dev :=
  let x := g * 64
  let d := ((d.poisonGranule g).rowFault x).logMem 2 (tierOf x) x
  let d := d.annal 2 2 7 (annUnit p 0) (leBytes 8 x)
  let d := d.eventAll (d.poisonOwners x) 0x05 0x21 (tierOf x) [] x
  match d.regionOf x with
  | some br => if bitOf br.2.flags 0 && bitOf br.2.flags 1 then d.dangerous 5 0 x false none else d
  | none => d

/-- R147, R148: both copies of a twin pass ECC and differ. -/
def Dev.twinsDiffer (d : Dev) (g : Nat) : Bool :=
  match d.twinOf g with
  | some t => d.mem.readable g && d.mem.readable t && decide (d.mem.bytes (g * 64) 64 ≠ d.mem.bytes (t * 64) 64)
  | none => false

/-- The scrubber reads one granule. -/
def Dev.scrubGranule (d : Dev) (p g : Nat) : Dev :=
  let x := g * 64
  let w := Who.device p 7
  if d.mem.isZero x || (decide (tierOf x = 2) && decide (SMap.read Chan.ok d.mem.chan (chanOf x) = .failed)) then d
  else
    let fix (d : Dev) (f : Dev → Dev) : Dev := match d.twinRepair g with | some e => e | none => f d
    if d.mem.isPoison g then fix d id
    else
      match d.mem.upsetOf g with
      | .none =>
        if d.twinsDiffer g then (d.set R.MEM_STATUS.TWIN_MISMATCH 0 0 1).dangerous 5 0 x false none else d
      | .single => ({ d with mem := d.mem.setUpset g .none }).corrected w x
      | .multi n =>
        if tierOf x = 2 ∧ (n = 1 ∨ n = 2) then
          ({ d with mem := d.mem.setUpset g .none }.corrected w x).count 1 9 n (w.occ x)
        else fix (if tierOf x = 2 then d.count 1 9 2 (w.occ x) else d) (fun d => d.scrubFound p g)

/-- Keys of the scrub table: position, and passes of a partition. -/
def scrubKey (p kind : Nat) : Nat := if kind = 3 then 64 + p else 3 * p + kind
def passKey (p kind : Nat) : Nat := 128 + 3 * p + kind

/-- A pass has ended. A tier's count is that of the partition that has completed fewest. -/
def Dev.passDone (d : Dev) (p kind : Nat) : Dev :=
  if kind = 3 then d.addWrap R.MEM_SCRUB_T2.SAFE_PASSES 0 0 1
  else
    let d := { d with scrub := SMap.write 0 d.scrub (passKey p kind) (SMap.read 0 d.scrub (passKey p kind) + 1) }
    let least := ((List.range d.parts).map (fun k => SMap.read 0 d.scrub (passKey k kind))).foldl min
      (SMap.read 0 d.scrub (passKey p kind))
    d.set (match kind with | 0 => R.MEM_SCRUB_T01.T0_PASSES | 1 => R.MEM_SCRUB_T01.T1_PASSES | _ => R.MEM_SCRUB_T2.FULL_PASSES)
      0 0 (least % 65536)

/-- SCRUB_STEP: the next `n` granules of a partition's pass. -/
def Dev.scrubStep (d : Dev) (p kind n : Nat) : Dev :=
  let rs := d.scrubRanges p kind
  (List.range n).foldl (fun d _ =>
    let pos := SMap.read 0 d.scrub (scrubKey p kind)
    match nthGranule rs pos with
    | none => { d with scrub := SMap.write 0 d.scrub (scrubKey p kind) 0 }
    | some g =>
      let d := d.scrubGranule p g
      let next := pos + 1
      if (nthGranule rs next).isSome then { d with scrub := SMap.write 0 d.scrub (scrubKey p kind) next }
      else { d with scrub := SMap.write 0 d.scrub (scrubKey p kind) 0 }.passDone p kind) d

def execScrubStep (part tier granules : Nat) (s : State) : Host.Outcome State Fault Refusal :=
  onDev (decide (part < 16 ∧ tier < 4)) (fun _ d => if part < d.parts then d.scrubStep part tier granules else d) s

end Sys2Proof.Machine
end

