-- ==== Sys2Proof/Machine/Fetch.lean ====
section
/-! DEFINITION. The queue front end: doorbells, moderation, descriptor fetch and the validation of a descriptor that
needs no memory (R33, R80, R86 to R101, R157, R542). -/

namespace Sys2Proof.Machine

/-! ### Doorbells (R86, R87, R91) -/

def Dev.submitTail (d : Dev) (c v : Nat) : Dev := d.setCtx c (fun x => { x with sqTail := v })

def Dev.completeHead (d : Dev) (c v : Nat) : Dev :=
  let d := d.setCtx c (fun x => { x with cqHead := v })
  d.drainHold c ((d.ctx c).hold.length + 1)

/-- A write to the doorbell page of context `c`. -/
def Dev.doorbell (d : Dev) (c off size : Nat) (v : Nat) : Dev :=
  let x := d.ctx c
  let d := d.wakeIdle
  if size ≠ 4 ∨ (off ≠ 0 ∧ off ≠ 4) then d.set R.CTX_ERR.DB_SIZE c 0 1
  else if !x.enabled || x.aborting.isSome then d.set R.CTX_ERR.DB_DISABLED c 0 1
  else if 2 ^ (if off = 0 then x.sqLog else x.cqLog) ≤ v then d.set R.CTX_ERR.DB_RANGE c 0 1
  else if off = 0 then d.submitTail c v
  else d.completeHead c v

/-- SUBMISSION_DOORBELL, R86, R87. -/
def execSubmissionDoorbell (ctx off size : Nat) (v : W32) (s : State) : Host.Outcome State Fault Refusal :=
  onDev (decide (ctx < 2048 ∧ off < 4096)) (fun _ d => if d.hostUp then d.doorbell ctx off size v.toNat else d) s

/-- COMPLETION_DOORBELL, R86, R91. -/
def execCompletionDoorbell (ctx off size : Nat) (v : W32) (s : State) : Host.Outcome State Fault Refusal :=
  onDev (decide (ctx < 2048 ∧ off < 4096)) (fun _ d => if d.hostUp then d.doorbell ctx off size v.toNat else d) s

/-- MSIX_MODERATION_TIMER, R90. Not due before TIMER µs since the first unsignalled record. -/
def execMsixModerationTimer (ctx : Nat) (s : State) : Host.Outcome State Fault Refusal :=
  onDev (decide (ctx < 2048)) (fun _ d =>
    let t := d.get R.CTX_MSIX.TIMER ctx 0
    let x := d.ctx ctx
    if d.bit R.CTX_MSIX.IRQ_EN ctx 0 && decide (t ≠ 0 ∧ 0 < x.sinceIrq ∧ x.firstAt + 1000 * t ≤ d.now) then d.interrupt ctx else d) s

/-! ### Validation (R92 to R95) -/

def safeOpc : List Nat := [0x10, 0x12, 0x20, 0x30, 0x40, 0x60]
def knownOpc : List Nat :=
  [0x01, 0x02, 0x10, 0x11, 0x12, 0x20, 0x30, 0x40, 0x41, 0x42, 0x43, 0x50, 0x60, 0x70, 0x80, 0x81]

/-- Fields that an opcode uses (Table 03-6): WB_HANDLE, ARG0, the bits of ARG1, ARG2, the bits of ARG3, LEN. -/
def usedFields (o : Nat) : Bool × Bool × Nat × Bool × Nat × Bool :=
  match o with
  | 0x01 => (false, true, 0, false, 0, true)
  | 0x02 => (true, false, 1, false, 0, false)
  | 0x10 => (true, false, 16, false, 0, false)
  | 0x11 => (false, false, 16, false, 0, false)
  | 0x12 => (true, true, 0, true, 16, true)
  | 0x20 => (true, true, 64, true, 16, true)
  | 0x30 => (true, true, 64, true, 16, false)
  | 0x40 => (true, true, 32, true, 16, true)
  | 0x41 | 0x42 | 0x50 => (false, true, 32, false, 0, true)
  | 0x43 => (false, false, 32, false, 0, false)
  | 0x60 => (true, false, 24, true, 16, false)
  | 0x70 => (false, true, 32, false, 0, true)
  | 0x80 => (false, true, 16, false, 0, false)
  | _ => (false, false, 16, false, 0, false)

/-- R92: a reserved field or a field that the opcode does not use is nonzero. -/
def reservedSet (b : List Byte) : Bool :=
  let u := usedFields (dOpc b)
  decide (8 ≤ dFlags b ∨ (!u.1 ∧ dHandle b ≠ 0) ∨ (!u.2.1 ∧ dArg0 b ≠ 0) ∨ 2 ^ u.2.2.1 ≤ dArg1 b ∨ (!u.2.2.2.1 ∧ dArg2 b ≠ 0) ∨
    2 ^ u.2.2.2.2.1 ≤ dArg3 b ∨ (!u.2.2.2.2.2 ∧ dLen b ≠ 0))

/-- R94. -/
def nextSeq (s : Nat) : Nat := if 0xFFFFFFFE ≤ s then 0 else s + 1

/-- R101. -/
def Dev.opcAllowed (d : Dev) (c o : Nat) : Bool :=
  if c = 0 then decide (o = 0x70 ∨ o = 0x81) else decide (o ≠ 0x80) || d.bit R.CTX_CTRL.ATTACH_EN c 0

/-- R101, R80. -/
def Dev.classOk (d : Dev) (c o cls : Nat) : Bool :=
  if o = 0x41 ∨ o = 0x42 ∨ o = 0x50 then decide (cls = 2)
  else decide (cls = 0) || (decide (cls = 1) && d.bit R.CTX_CAL.SAFETY c 0)

/-- R407: the workbook that a handle names. -/
def Dev.handleOk (d : Dev) (p h : Nat) : Bool :=
  match d.wb (h % 256) with
  | some w => decide (w.gen = h / 256 ∧ w.part = p ∧ h / 256 ≠ 0)
  | none => false

/-- Opcodes that a disabled schedule base refuses (R542). -/
def needsBase : List Nat := [0x10, 0x12, 0x20, 0x30, 0x40, 0x60, 0x41, 0x42, 0x43, 0x50]

/-- OPCLASS that a tested aperiodic opcode needs (R400). -/
def opclassOf (o : Nat) : Nat :=
  match o with
  | 0x12 => 1
  | 0x20 => 2
  | 0x30 => 3
  | 0x40 => 4
  | _ => 5

/-- The window of a descriptor (R156, R157). -/
def Dev.windowOf (d : Dev) (c : Nat) (b : List Byte) : Option (Nat × Nat) :=
  if bitOf (dFlags b) 1 then
    let s := unwrap (d.ctxNow c) (dStart b)
    some (s, unwrap s (dStop b))
  else none

/-- R95 steps 1 to 6 as far as they need no memory: STATUS and SUBCODE of the first that fails. -/
def Dev.validate (d : Dev) (c : Nat) (b : List Byte) : Option (Nat × Nat) :=
  let safe := d.bit R.CTX_CAL.SAFETY c 0
  let o := dOpc b
  let p := (d.ctxPart c).getD 16
  if (safe || d.bit R.CTX_CTRL.CHK_EN c 0) && decide (crc32c (b.take 60) ≠ dChk b) then some (0x13, 1)
  else if (safe || d.bit R.CTX_CTRL.SEQ_CHK c 0) &&
      (match (d.ctx c).expSeq with | some e => decide (dSeq b ≠ e) | none => false) then some (0x13, 2)
  else if o ∉ knownOpc then some (0x13, 3)
  else if !d.opcAllowed c o then some (0x13, 0xC)
  else if !d.classOk c o (dClass b) then some (0x13, 4)
  else if reservedSet b then some (0x13, 5)
  else if (match d.windowOf c b with | some w => decide (w.2 < w.1) | none => false) then some (0x12, 1)
  else if (usedFields o).1 && !d.handleOk p (dHandle b) then some (0x13, 6)
  else if decide (o ∈ needsBase) && !d.bit R.TB_CFG.EN (d.schedTb p) 0 then some (0x13, 7)
  else if (decide (o = 0x80) || (decide (o = 0x70) && decide (dArg1 b % 2 ^ 32 ≠ 0))) && !d.bit R.TB_CFG.EN (d.ctx c).tb 0 then
    some (0x13, 7)
  else if decide (o ∈ aperOpc) && !(match d.jobOf (dHandle b % 256) (dArg3 b % 65536) with
      | some j => decide (j.opclass = opclassOf o) | none => false) then some (0x13, 7)
  else if decide (o = 0x60) && !bitOf (dFlags b) 1 then some (0x13, 7)
  else none

/-! ### Fetch (R87, R88, R99) -/

/-- R33, R34: the partition has room for one more request. -/
def Dev.roomFor (d : Dev) (c : Nat) : Bool :=
  let same (k : Nat) : Bool := decide (d.ctxPart k = d.ctxPart c)
  decide ((d.reqs.filter (fun r => same r.ctx)).length + (d.finals.filter (fun f => same f.1)).length < 512)

/-- The context has a pending entry that may be fetched. -/
def Dev.canFetch (d : Dev) (c : Nat) : Bool :=
  let x := d.ctx c
  d.hostUp && (decide (6 ≤ d.get R.PWR_STAT.BOOT_STEP 0 0) || d.pwr.halt || d.pwr.fusing) && x.enabled && x.aborting.isNone && x.hold.isEmpty &&
    decide (x.sqHead ≠ x.sqTail) && !d.bit R.CTX_STATUS.FETCH_STOP c 0 && !d.bit R.CTX_STATUS.HOST_LOST c 0 && d.roomFor c

/-- R88: safety contexts of the partition come first. -/
def Dev.fetchTurn (d : Dev) (c : Nat) : Bool :=
  d.canFetch c && (d.bit R.CTX_CAL.SAFETY c 0 ||
    !d.ctxs.any (fun x => decide (d.ctxPart x.1 = d.ctxPart c) && d.bit R.CTX_CAL.SAFETY x.1 0 && d.canFetch x.1))

/-- Work submitted to the safety partition in the safe state, or to any in the device-wide one, ends at once (R450 to
R452; DEDUCED, unsafe, log entry 28). -/
def Dev.safeStop (d : Dev) (p o : Nat) : Bool :=
  decide (o ∈ safeOpc) && !d.pwr.halt && (d.bit R.SAF_STATUS.DEV_SAFE 0 0 || (d.isSafe p && d.bit R.SAF_STATUS.SAFE 0 0))

/-- A fetched descriptor: validated, then ended or handed on. -/
def Dev.accept (d : Dev) (c : Nat) (b : List Byte) : Dev :=
  let v := d.validate c b
  let w := d.windowOf c b
  let p := (d.ctxPart c).getD 16
  let dl := if bitOf (dFlags b) 0 then some (unwrap (d.ctxNow c) (dDeadline b)) else none
  let r : Req := { id := d.nextId, ctx := c, part := p, desc := b, st := .fetched, admNo := 0, rel := 0, prom := 0, win := w,
                   deadline := dl, work := [] }
  let d := { d with nextId := d.nextId + 1, reqs := d.reqs ++ [r] }
  let d := d.setCtx c (fun x => { x with
    sqHead := (x.sqHead + 1) % 2 ^ x.sqLog
    expSeq := some (nextSeq ((x.expSeq).getD (dSeq b))) })
  match v with
  | some e => d.finishReq r e.1 e.2 none 0 []
  | none => if d.safeStop p (dOpc b) then d.finishReq r 0x60 (d.get R.SAF_STATUS.CAUSE 0 0) none 0 [] else d

/-- R99. -/
def Dev.fetchError (d : Dev) (c : Nat) : Dev :=
  ((d.set R.CTX_ERR.FETCH_ERR c 0 1).set R.CTX_STATUS.FETCH_STOP c 0 1).event c 0x0B 0 0 (leBytes 2 (d.ctx c).sqHead) 0

/-- DESCRIPTOR_FETCH, R88, R95, R99: `r` is what the host answers. Not due while the context may not fetch. -/
def execDescriptorFetch (ctx : Nat) (r : PcieReply) (s : State) : Host.Outcome State Fault Refusal :=
  onDev (decide (ctx < 2048)) (fun _ d =>
    if d.fetchTurn ctx then
      match r with
      | .data bs => d.accept ctx (slice bs 0 64)
      | _ => d.fetchError ctx
    else d) s

/-- PCIE_COMPLETION_TIMEOUT, R99, R142, R143: of the T3 read `tag`, or of a descriptor fetch of `ctx`. -/
def execPcieCompletionTimeout (tag : Option Nat) (ctx : Nat) (s : State) : Host.Outcome State Fault Refusal :=
  onDev (decide (ctx < 2048)) (fun _ d =>
    match tag with
    | some t => (match d.t3Of t with | some x => d.t3Fail x (.tier true 3 x.da) | none => d)
    | none => if d.fetchTurn ctx then d.fetchError ctx else d) s

end Sys2Proof.Machine
end

