-- ==== Sys2Proof/Machine/Maint.lean ====
section
/-! DEFINITION. Which maintenance step comes next in a partition's reserve (R68, R69). -/

namespace Sys2Proof.Machine

/-- An item can be dispatched now: a request that waits for an epoch to retire, and a rebuild that waits for its boundary,
cannot (R287, R336, R340). -/
def Dev.maintReady (d : Dev) (m : Maint) : Bool :=
  match m.kind with
  | .eclipse _ => true
  | .mapRebuild =>
    (match d.map.bind (·.rebuild) with | some r => !(r.copied && r.ops.isEmpty) | none => false)
  | .rebuild slot =>
    (match (d.idx slot).bind (·.rebuild) with | some r => !r.finished | none => false)
  | .hostReq id =>
    match d.req id with
    | none => false
    | some r =>
      if dOpc r.desc = 0x50 then d.commitReady && decide (d.nextCommit.map (·.id) = some id)
      else
        match d.idxById (dArg1 r.desc % 2 ^ 32) with
        | some x => x.writable && decide ((d.nextChange x).map (·.id) = some id)
        | none => false

/-- R68 steps 2 to 4: the class of an item. -/
def Dev.maintClass (d : Dev) (m : Maint) : Nat :=
  match m.kind with
  | .eclipse id => if (d.spr.queue.find? (fun e => decide (e.id = id))).any (·.hard) then 0
      else if d.get R.CAL_PCFG.AGE_LIMIT m.part 0 < (d.pcal m.part).orbits - m.arrived then 1 else 2
  | _ => if d.get R.CAL_PCFG.AGE_LIMIT m.part 0 < (d.pcal m.part).orbits - m.arrived then 1 else 2

/-- The item whose step partition `p` dispatches next. -/
def Dev.nextMaint (d : Dev) (p : Nat) : Option Maint :=
  minBy (fun x y => decide (d.maintClass x < d.maintClass y)) (d.cal.maint.filter (fun m => decide (m.part = p) && d.maintReady m))

/-- The item of kind `k` is next in its partition. -/
def Dev.maintTurn (d : Dev) (k : MaintKind) : Bool :=
  match d.cal.maint.find? (fun m => decide (m.kind = k)) with
  | some m => decide ((d.nextMaint m.part).map (·.kind) = some k)
  | none => false

/-- MAP_COMMIT_APPLY, R287: the commit whose turn it is; without map authority the commits that wait end (R296). -/
def execMapCommitApply (s : State) : Host.Outcome State Fault Refusal :=
  onDev true (fun _ d =>
    if !d.hasAuthority then d.stepCommit
    else match d.nextCommit with
      | some r => if d.maintTurn (.hostReq r.id) then (d.stepCommit).settleWaits (d.reqs.length + 1) else d
      | none => d) s

/-- MAP_REBUILD_STEP, R294. -/
def execMapRebuildStep (s : State) : Host.Outcome State Fault Refusal :=
  onDev true (fun _ d => if d.maintTurn .mapRebuild then d.rebuildMap else d) s

/-- INDEX_CHANGE_APPLY, R336: the INSERT or DELETE of index `slot` whose turn it is. -/
def execIndexChangeApply (slot : Nat) (h : HostView) (s : State) : Host.Outcome State Fault Refusal :=
  onDev (decide (slot < 16)) (fun _ d =>
    match (d.idx slot).bind d.nextChange with
    | some r => if d.maintTurn (.hostReq r.id) then d.applyChange slot h else d
    | none => d) s

/-- INDEX_REBUILD_STEP, R339. -/
def execIndexRebuildStep (slot : Nat) (s : State) : Host.Outcome State Fault Refusal :=
  onDev (decide (slot < 16)) (fun _ d => if d.maintTurn (.rebuild slot) then d.rebuildIdx slot else d) s

end Sys2Proof.Machine
end

