-- ==== Sys2Proof/Machine/OrreryRows.lean ====
section
/-! DEFINITION. The commands of the Orrery (09_orrery.md). -/

namespace Sys2Proof.Machine

/-- PROPAGATION_STEP, R252. Not due before the track's next grid instant. -/
def execPropagationStep (track : Nat) (s : State) : Host.Outcome State Fault Refusal :=
  onDev (decide (track < 32)) (fun _ d => d.propagate track) s

/-- VISUAL_CORRECTION, R257: the step of correction run `run` on the frame or sample at `hdr` of source `src`, with the
other ranges it reads, an uncorrectable error in the state store, and the time a failed gate's rollback takes. -/
def execVisualCorrection (run track src hdr : Nat) (inputs : List (Nat × Nat)) (storeUe : Bool) (rollbackNs : Nat)
    (s : State) : Host.Outcome State Fault Refusal :=
  onDev (decide (track < 32 ∧ src < 32)) (fun _ d => d.correct run track src hdr inputs storeUe rollbackNs) s

/-- SPECULATIVE_FRAME_START, R266: the frame of `run` starts on tail segment `seg`. -/
def execSpeculativeFrameStart (track run seg : Nat) (s : State) : Host.Outcome State Fault Refusal :=
  onDev (decide (track < 32 ∧ seg < 3)) (fun _ d => d.startSpec track run seg) s

/-- POSE_OUTPUT, R262: the final step of `run`, started at `start`; `jobs` are the correction jobs of the track. -/
def execPoseOutput (run track start : Nat) (jobs : List Nat) (storeUe : Bool) (s : State) :
    Host.Outcome State Fault Refusal :=
  onDev (decide (track < 32)) (fun _ d => d.output run track start jobs storeUe) s

/-- SOURCE_EXTRAP_TIMEOUT, R259 cause 4. -/
def execSourceExtrapTimeout (track src : Nat) (s : State) : Host.Outcome State Fault Refusal :=
  onDev (decide (track < 32 ∧ src < 32)) (fun _ d => d.extrapOver track src) s

/-- COAST_TIMEOUT, R261. -/
def execCoastTimeout (track : Nat) (s : State) : Host.Outcome State Fault Refusal :=
  onDev (decide (track < 32)) (fun _ d => d.coast track) s

/-- R269: serve a released query once the track's grid has reached its stop. -/
def Dev.serveQuery (d : Dev) (id : Nat) : Dev :=
  match d.req id, d.runs.find? (fun r => decide (r.src = .req id)) with
  | some q, some r =>
    match d.track (dArg1 q.desc % 256), q.win with
    | some k, some (s, e) =>
      if decide (dOpc q.desc ≠ 0x60 ∨ k.grid < e) || !r.streams.all (·.ended) || !r.tasks.all (·.done) || !r.copies.isEmpty then d
      else
        let d := d.markStarted r.id
        let w := d.write (r.who 6 k.island none) (dArg2 q.desc) (k.windowResult (dArg1 q.desc) s e)
        match w.2 with
        | some x => w.1.failFte k.num r x
        | none =>
          let st := w.1.okStatus r
          w.1.finishRun r st.1 st.2 (dArg2 q.desc) []
    | _, _ => d
  | _, _ => d

/-- WINDOW_QUERY_SERVE, R269. -/
def execWindowQueryServe (req : Nat) (s : State) : Host.Outcome State Fault Refusal :=
  onDev true (fun _ d => d.serveQuery req) s

end Sys2Proof.Machine
end

