-- ==== Sys2Proof/Machine/PseRows.lean ====
section
/-! DEFINITION. The commands of place search (12_place_search.md). -/

namespace Sys2Proof.Machine

/-- The checks that INSERT, DELETE and PUBLISH_EPOCH share (R317, R331). -/
def Dev.idxOf (d : Dev) (r : Req) : Except Nat Idx :=
  match d.idxById (dArg1 r.desc % 2 ^ 32) with
  | none => .error 7
  | some x => if x.part ≠ r.part then .error 0xC else .ok x

/-- An INSERT or DELETE is validated and queued. -/
def Dev.queueChange (d : Dev) (r : Req) (h : HostView) (ok : List Byte → List Byte → Bool) : Dev :=
  match d.idxOf r with
  | .error n => d.finishReq r 0x13 n none 0 []
  | .ok x =>
    if !d.inReach r.part (some r.ctx) (dArg0 r.desc) (dLen r.desc) false then d.finishReq r 0x13 8 none 0 []
    else
      match d.read (r.who 10) h (dArg0 r.desc) (dLen r.desc) with
      | (d, .error e) => d.endAcc r e
      | (d, .ok bs) => if ok x.blk bs then d.takeMaint r else d.finishReq r 0x13 7 none 0 []

/-- INSERT, R334. -/
def execInsert (req : Nat) (h : HostView) (s : State) : Host.Outcome State Fault Refusal :=
  onDev true (fun _ d => match d.fetched req 0x41 with | some r => d.queueChange r h vectorsOk | none => d) s

/-- DELETE, R335. -/
def execDelete (req : Nat) (h : HostView) (s : State) : Host.Outcome State Fault Refusal :=
  onDev true (fun _ d => match d.fetched req 0x42 with | some r => d.queueChange r h (fun _ bs => idsOk bs) | none => d) s

/-- PUBLISH_EPOCH of request `r` waits for its boundary (R337). -/
def Dev.publishEpoch (d : Dev) (r : Req) : Dev :=
  match d.idxOf r with
  | .error n => d.finishReq r 0x13 n none 0 []
  | .ok x => (d.setReq r.id (fun r => { r with st := .publishing })).syncIdx x.slot

/-- PUBLISH_EPOCH, R337. -/
def execPublishEpoch (req : Nat) (s : State) : Host.Outcome State Fault Refusal :=
  onDev true (fun _ d => match d.fetched req 0x43 with | some r => d.publishEpoch r | none => d) s

/-- PSE_WALKER_STEP, R332: a step of walker `walker`; `ue` lists queries whose store fails with the address being read. -/
def execPseWalkerStep (walker : Nat) (h : HostView) (ue : List (Nat × Nat)) (s : State) : Host.Outcome State Fault Refusal :=
  onDev (decide (walker < 8)) (fun _ d => d.walkerStep walker h ue) s

/-- SHARD_WAIT_EXPIRY, R345. Not due before SHARD_WAIT_US has passed since dispatch. -/
def execShardWaitExpiry (run : Nat) (s : State) : Host.Outcome State Fault Refusal :=
  onDev true (fun _ d => (d.searches.filter (fun x => decide (x.run = run))).foldl (fun d x => d.endSearch x.run x.task) d) s

/-- INDEX_EPOCH_RETIRE, R338. Not due while a run released before the publication is open. -/
def execIndexEpochRetire (slot : Nat) (s : State) : Host.Outcome State Fault Refusal :=
  onDev (decide (slot < 16)) (fun _ d => d.retireIdx slot) s

/-- PSE_INDEX_REBUILD, R339: PSE_INDEX_CTL.REBUILD is written with 1; it reads 0. -/
def execPseIndexRebuild (slot : Nat) (s : State) : Host.Outcome State Fault Refusal :=
  onDev (decide (slot < 16)) (fun _ d => if d.hostUp then d.wakeIdle.beginRebuild slot else d) s

/-- SEARCH_QUERY, R344. -/
def execSearchQuery (q : RemoteQuery) (s : State) : Host.Outcome State Fault Refusal :=
  onDev (decide (q.requester < 16)) (fun _ d => d.remoteQuery q) s

/-- SEARCH_REPLY, R345. -/
def execSearchReply (tag shard : Nat) (r : ShardReply) (s : State) : Host.Outcome State Fault Refusal :=
  onDev (decide (shard < 16)) (fun _ d => d.searchAnswer tag shard r) s

end Sys2Proof.Machine
end

