-- ==== Sys2Proof/Machine/OpRows.lean ====
section
/-! DEFINITION. The opcodes of Table 03-6 that no engine's file holds: UNLOAD_WB, ADMIT, REVOKE, the tested aperiodic
opcodes, COUNTER_DUMP (R55, R56, R58, R102, R103, R128, R130, R225, R265, R306, R438, R505, R506). -/

namespace Sys2Proof.Machine

/-! ### UNLOAD_WB, REVOKE -/

/-- UNLOAD_WB of request `r` (R102). -/
def Dev.unloadWb (d : Dev) (r : Req) : Dev :=
  let slot := dHandle r.desc % 256
  if d.wbBusy slot && !bitOf (dArg1 r.desc) 0 then d.finishReq r 0x13 0xB none 0 []
  else
    let d := d.setReq r.id (fun x => { x with st := .waiting })
    let d := (d.cal.entries.filter (fun e => decide (e.wb = slot))).foldl (fun d e => d.revokeOne e 0x5000) d
    d.settleWaits (d.reqs.length + 1)

def execUnloadWb (req : Nat) (s : State) : Host.Outcome State Fault Refusal :=
  onDev true (fun _ d => match d.fetched req 2 with | some r => d.unloadWb r | none => d) s

/-- REVOKE of request `r` (R103). -/
def Dev.revoke (d : Dev) (r : Req) : Dev :=
  match d.entry (dArg1 r.desc % 65536) with
  | some e =>
    if e.ctx ≠ some r.ctx then d.finishReq r 0x13 7 none 0 []
    else
      let d := d.setReq r.id (fun x => { x with st := .waiting })
      (d.revokeEntry e 0x5000).settleWaits (d.reqs.length + 1)
  | none => d.finishReq r 0x13 7 none 0 []

def execRevoke (req : Nat) (s : State) : Host.Outcome State Fault Refusal :=
  onDev true (fun _ d => match d.fetched req 0x11 with | some r => d.revoke r | none => d) s

/-! ### ADMIT (R45, R51, R53, R58, R225, R265, R438) -/

/-- Lowest free almanac slot besides those in `used`. -/
def Dev.freeEntrySlot (d : Dev) (used : List Nat) : Nat :=
  ((List.range 16384).find? (fun s => (d.entry s).isNone && decide (s ∉ used))).getD 0

/-- Channel and copy that an almanac record of a workbook belongs to (R438). -/
def Dev.channelOf (d : Dev) (wb ix : Nat) : Option (Nat × Nat) :=
  d.saf.chans.findSome? (fun c =>
    if c.wb = wb ∧ fieldAt c.blk 6 2 = ix then some (c.num, 0)
    else if c.wb = wb ∧ fieldAt c.blk 8 2 = ix then some (c.num, 1)
    else none)

/-- Entry for almanac record `a` at `slot`, first released as R58 says. -/
def Dev.newEntry (d : Dev) (w : Wb) (a : AlmRec) (slot : Nat) (ctx : Option Nat) (seq : Nat) (ch : Option (Nat × Nat)) : Entry :=
  let c := d.pcal w.part
  { slot := slot, part := w.part, ctx := ctx, seq := seq, wb := w.slot, alm := a, admNo := d.cal.admNo, channel := ch,
    track := d.entryTrack w.slot a.job ch, rel0 := c.nextBoundary (d.schedNow w.part) + a.offset * c.phaseLen, next := 0,
    suspended := false, cause := 0, leaping := false, lastStart := none, lastEnd := none, ending := none }

/-- The entries that an ADMIT of record `ix` proposes: one, or both copies of a channel. -/
def Dev.candidates (d : Dev) (w : Wb) (ix : Nat) (ctx : Option Nat) (seq : Nat) : List Entry :=
  match w.almanac[ix]? with
  | none => []
  | some a =>
    let s := d.freeEntrySlot []
    match d.channelOf w.slot ix with
    | none => [d.newEntry w a s ctx seq none]
    | some c =>
      match (d.chan c.1).bind (fun x => w.almanac[fieldAt x.blk 8 2]?) with
      | some b => [d.newEntry w a s ctx seq (some (c.1, 0)), d.newEntry w b (d.freeEntrySlot [s]) ctx seq (some (c.1, 1))]
      | none => []

/-- R51 over every level in play (R78). -/
def Dev.admitFails (d : Dev) (p : Nat) (es : List Entry) : Option Nat := d.capLevels.findSome? (fun c => d.admitTest p es c)

/-- R225: surfaces that a job writes and no other admitted entry of the workbook writes start over. -/
def Dev.admitSurfaces (d : Dev) (w : Wb) (e : Entry) : Dev :=
  let outs (j : Nat) : List Nat :=
    ((w.job? j).map (fun j => j.tasks.flatMap (fun b => (newTask 0 b).outs.map refDa))).getD []
  let others := (d.cal.entries.filter (fun x => decide (x.wb = w.slot ∧ x.slot ≠ e.slot))).flatMap (fun x => outs x.alm.job)
  ((dedup (outs e.alm.job)).filter (fun a => decide (a ∉ others))).foldl (fun d a => d.resetSurface w.part a) d

/-- Place admitted entries into the almanac. -/
def Dev.placeEntries (d : Dev) (w : Wb) (es : List Entry) (tb : Nat) : Dev :=
  let d : Dev := { d with cal := { d.cal with entries := d.cal.entries ++ es, admNo := d.cal.admNo + 1 } }
  let d := es.foldl (fun d e => d.admitSurfaces w e) d
  let d := es.foldl (fun d e => match e.track with | some t => d.admitTrack t e.slot e.alm.deadline e.ctx tb | none => d) d
  d.syncEntries w.part

/-- Staleness bound of an entry, 0 without a pose output (R265). -/
def Dev.entryStale (d : Dev) (e : Entry) : Nat :=
  match e.track.bind d.track with
  | some k => d.stale k e.alm.deadline
  | none => 0

/-- ADMIT of request `r`. -/
def Dev.admitEntry (d : Dev) (r : Req) : Dev :=
  let bad (sub : Nat) : Dev := d.finishReq r 0x13 sub none 0 []
  let ix := dArg1 r.desc % 65536
  match d.wb (dHandle r.desc % 256) with
  | none => bad 6
  | some w =>
    if w.almanac.length ≤ ix ∨ ((d.channelOf w.slot ix).map (·.2)) = some 1 then bad 7
    else if w.orbit ≠ 0 ∧ (w.orbit ≠ (d.pcal w.part).orbit ∨ w.phases ≠ (d.pcal w.part).phases) then bad 9
    else
      let es := d.candidates w ix (some r.ctx) (dSeq r.desc)
      match d.admitFails w.part es with
      | some s => (d.count 3 3 1 (hostOcc r.ctx (dClass r.desc))).finishReq r 0x10 s none 0 []
      | none =>
        match es.head? with
        | none => bad 7
        | some e =>
          let d := d.placeEntries w es (d.ctx r.ctx).tb
          d.finishReq r 0 0 (some (d.toCtx r.ctx w.part (e.prom 0))) 0 (leBytes 2 e.slot ++ leBytes 4 (d.entryStale e))

def execAdmit (req : Nat) (s : State) : Host.Outcome State Fault Refusal :=
  onDev true (fun _ d => match d.fetched req 0x10 with | some r => d.admitEntry r | none => d) s

/-! ### Tested aperiodic requests (R50, R55, R56) -/

/-- R55: requests are tested one at a time in the order of their fetch. -/
def Dev.aperTurn (d : Dev) (r : Req) : Bool :=
  !d.reqs.any (fun x => decide (dOpc x.desc ∈ aperOpc ∧ x.st = .fetched ∧ x.id < r.id))

/-- R50, R88: release on the partition's schedule base. -/
def Dev.releaseOf (d : Dev) (r : Req) : Nat :=
  match r.win with
  | some w => max (d.schedNow r.part) (d.fromCtx r.ctx r.part w.2)
  | none => d.schedNow r.part

/-- Admission of a validated request; `work` is what it keeps for its run. -/
def Dev.admitWork (d : Dev) (r : Req) (work : List Nat) : Dev :=
  let r := { r with rel := d.releaseOf r }
  match d.admitAper r with
  | .error s => (d.count 3 3 1 (hostOcc r.ctx (dClass r.desc))).finishReq r 0x10 s none 0 []
  | .ok t =>
    let d := d.setReq r.id (fun x => { x with st := .admitted, rel := r.rel, prom := t, admNo := d.cal.admNo, work := work })
    { d with cal := { d.cal with admNo := d.cal.admNo + 1 } }

/-- Run `f` on the request when it is its turn to be tested. -/
def Dev.tested (d : Dev) (req opc : Nat) (f : Dev → Req → Dev) : Dev :=
  match d.fetched req opc with
  | some r => if d.aperTurn r then f d r else d
  | none => d

def Dev.bad (d : Dev) (r : Req) (sub : Nat) : Dev := d.finishReq r 0x13 sub none 0 []

/-- RUN of request `r`: the argument block is readable, the result address writable (DEDUCED, unsafe, log entry 29). -/
def Dev.runReq (d : Dev) (r : Req) : Dev :=
  let b := r.desc
  if !d.inReach r.part (some r.ctx) (dArg0 b) (dLen b) false then d.bad r 8
  else if dArg2 b ≠ 0 && !d.inReach r.part (some r.ctx) (dArg2 b) 1 true then d.bad r 8
  else d.admitWork r []

/-- RUN, R55. -/
def execRun (req : Nat) (s : State) : Host.Outcome State Fault Refusal :=
  onDev true (fun _ d => d.tested req 0x12 (fun d r => d.runReq r)) s

/-- Descriptor of a linear COPY (R128). -/
def linearCopy (src dst len : Nat) : List Byte :=
  List.replicate 8 0 ++ leBytes 8 src ++ leBytes 8 dst ++ leBytes 4 len ++ [1, 0, 1, 0] ++ List.replicate 32 0

/-- A COPY's mover descriptor goes through R130. -/
def Dev.copyWith (d : Dev) (r : Req) (b : List Byte) : Dev :=
  match d.moverBad r.part (some r.ctx) b with
  | some s => d.bad r s
  | none => d.admitWork r (b.map (·.toNat))

/-- COPY of request `r` (R127 to R130). -/
def Dev.copyReq (d : Dev) (r : Req) (h : HostView) : Dev :=
  let b := r.desc
  let a := dArg2 b
  if a = 0 then d.copyWith r (linearCopy (dArg0 b) (dArg1 b) (dLen b))
  else if a % 64 ≠ 0 ∨ tierOf a = 0 then d.bad r 7
  else if !d.inReach r.part (some r.ctx) a 64 false then d.bad r 8
  else
    match d.read (r.who 7) h a 64 with
    | (d, .error e) => d.endAcc r e
    | (d, .ok bs) => d.copyWith r (putSlice (putSlice bs 8 (leBytes 8 (dArg0 b))) 16 (leBytes 8 (dArg1 b)))

/-- COPY, R128. -/
def execCopy (req : Nat) (h : HostView) (s : State) : Host.Outcome State Fault Refusal :=
  onDev true (fun _ d => d.tested req 0x20 (fun d r => d.copyReq r h)) s

/-- SOLVE of request `r` (R301, R306). -/
def Dev.solveReq (d : Dev) (r : Req) : Dev :=
  let b := r.desc
  let n := dArg1 b
  let lines := ((d.jobOf (dHandle b % 256) r.jobNo).map (·.solves)).getD []
  if n = 0 ∨ 65535 < n ∨ sumBy (fun l => fieldAt l 16 2) lines < n ∨ dArg0 b % 64 ≠ 0 then d.bad r 7
  else if !d.inReach r.part (some r.ctx) (dArg0 b) (64 * n) false || !d.inReach r.part (some r.ctx) (dArg2 b) (8 * n) true then
    d.bad r 8
  else d.admitWork r []

/-- SOLVE, R306. The array itself is read at dispatch. -/
def execSolve (req : Nat) (_h : HostView) (s : State) : Host.Outcome State Fault Refusal :=
  onDev true (fun _ d => d.tested req 0x30 (fun d r => d.solveReq r)) s

/-- SEARCH of request `r` (R328, R331). -/
def Dev.searchReq (d : Dev) (r : Req) (h : HostView) : Dev :=
  match d.searchHeader r h with
  | (d, .error (.inl s)) => d.bad r s
  | (d, .error (.inr e)) => d.endAcc r e
  | (d, .ok t) => d.admitWork r (t.map (·.toNat))

/-- SEARCH, R331. -/
def execSearch (req : Nat) (h : HostView) (s : State) : Host.Outcome State Fault Refusal :=
  onDev true (fun _ d => d.tested req 0x40 (fun d r => d.searchReq r h)) s

/-- WINDOW_QUERY of request `r` (R269). -/
def Dev.windowReq (d : Dev) (r : Req) : Dev :=
  let b := r.desc
  if d.windowBad r.part (dArg1 b) ((r.win.map (·.1)).getD 0) then d.bad r 7
  else if !d.inReach r.part (some r.ctx) (dArg2 b) 128 true then d.bad r 8
  else d.admitWork r []

/-- WINDOW_QUERY, R269. -/
def execWindowQuery (req : Nat) (s : State) : Host.Outcome State Fault Refusal :=
  onDev true (fun _ d => d.tested req 0x60 (fun d r => d.windowReq r)) s

/-! ### COUNTER_DUMP (R505, R506) -/

/-- R501: counter `n` belongs to context `c`. -/
def Dev.ctrOwned (d : Dev) (n c : Nat) : Bool :=
  d.bit R.PMC_CTR_CFG.OWN_EN n 0 && decide (d.get R.PMC_CTR_CFG.OWNER n 0 = c) && d.bit R.CTX_CNT.USER_EN c 0

/-- The counters that a dump of context `c` covers. -/
def Dev.dumpSet (d : Dev) (c : Nat) : List Nat :=
  below 128 (fun n => d.ctrOwned n c || (decide (c = 0) && !d.bit R.PMC_CTR_CFG.OWN_EN n 0))

def dumpSize (n : Nat) : Nat := 64 * ceilDiv (32 + 16 * n) 64

/-- Table 19-3. -/
def Dev.dumpRecord (d : Dev) (c j : Nat) (missed : Bool) : List Byte :=
  let ns := d.dumpSet c
  let b := leBytes 8 (d.ctxNow c) ++ leBytes 4 j ++ leBytes 2 ns.length ++ leBytes 1 (b2n missed) ++ List.replicate 17 0 ++
    ns.flatMap (fun n => leBytes 2 n ++
      leBytes 2 (d.get R.PMC_CTR_CFG.EVENT n 0 + 256 * d.get R.PMC_CTR_CFG.CLASS n 0) ++ List.replicate 4 0 ++
      leBytes 8 (d.ctr n).val)
  slice b 0 (dumpSize ns.length)

/-- Write dump record `j` of a ring. -/
def Dev.writeDump (d : Dev) (c base len j : Nat) (missed : Bool) : Dev :=
  let b := d.dumpRecord c j missed
  (d.write ⟨(d.ctxPart c).getD 16, some c, none, 0, 15, 0, none⟩ (base + j % max 1 (len / b.length) * b.length) b).1

/-- A program ends before its first record: its request ends with OK (DEDUCED, unsafe, log entry 29). -/
def Dev.stopDump (d : Dev) (c : Nat) : Dev :=
  match (d.ctx c).dump with
  | none => d
  | some p =>
    let d := d.setCtx c (fun x => { x with dump := none })
    match p.req.bind d.req with
    | some r => d.finishReq r 0 0 none 0 []
    | none => d

/-- COUNTER_DUMP of request `r`. -/
def Dev.counterDump (d : Dev) (r : Req) : Dev :=
  let c := r.ctx
  let base := dArg0 r.desc
  let len := dLen r.desc
  let us := dArg1 r.desc
  if !d.bit R.CTX_CNT.USER_EN c 0 then d.bad r 0xC
  else if len = 0 then ((d.stopDump c).finishReq r 0 0 none 0 [])
  else if len < 2 * dumpSize (d.dumpSet c).length ∨ (us ≠ 0 ∧ (us < 10 ∨ 10000000 < us)) then d.bad r 7
  else if !isT3 base || !d.inReach r.part (some c) base len true then d.bad r 8
  else
    let d := d.stopDump c
    if us = 0 then (d.writeDump c base len 0 false).finishReq r 0 0 none 0 []
    else
      let d := d.setReq r.id (fun x => { x with st := .waiting })
      d.setCtx c (fun x => { x with dump := some ⟨base, len, 1000 * us, 0, d.ctxNow c + 1000 * us, false, some r.id⟩ })

def execCounterDump (req : Nat) (s : State) : Host.Outcome State Fault Refusal :=
  onDev true (fun _ d => match d.fetched req 0x70 with | some r => d.counterDump r | none => d) s

/-- A periodic dump falls due. -/
def Dev.dumpDue (d : Dev) (c : Nat) : Dev :=
  match (d.ctx c).dump with
  | none => d
  | some p =>
    let now := d.ctxNow c
    if now < p.next then d
    else
      let d := d.writeDump c p.base p.len p.count (decide (p.next + p.period ≤ now))
      let d := d.setCtx c (fun x => { x with dump := some { p with
        count := (p.count + 1) % 2 ^ 32, next := p.next + ((now - p.next) / max 1 p.period + 1) * p.period, req := none } })
      match p.req.bind d.req with
      | some r => d.finishReq r 0 0 none 0 []
      | none => d

/-- COUNTER_DUMP_TIMER, R505. Not due before the program's next instant. -/
def execCounterDumpTimer (ctx : Nat) (s : State) : Host.Outcome State Fault Refusal :=
  onDev (decide (ctx < 2048)) (fun _ d => d.dumpDue ctx) s

end Sys2Proof.Machine
end

