-- ==== Sys2Proof/Machine/Routes.lean ====
section
/-! DEFINITION. The topology of a peer group, the routes to its members, the quiet vote (R415 to R417, R426). -/

namespace Sys2Proof.Machine

/-! ### Topology (R415, Table 15-5) -/

def Dev.members (d : Dev) : List Nat := onesOf (d.get R.PLK_GROUP.MEMBERS 0 0) 16

def Dev.torusW (d : Dev) : Nat := d.get R.PLK_GROUP.WIDTH_M1 0 0 + 1

def Dev.torusH (d : Dev) : Nat := d.members.length / d.torusW

/-- The member expected at the other end of port `p` of member `m`. -/
def Dev.neighbour (d : Dev) (m p : Nat) : Option Nat :=
  let ms := d.members
  let w := d.torusW
  let h := d.torusH
  match d.topo with
  | 1 =>
    if m ∉ ms ∨ ms.length < 2 then none
    else
      let i := (ms.takeWhile (fun x => decide (x ≠ m))).length
      match p with
      | 0 => ms[(i + 1) % ms.length]?
      | 1 => ms[(i + ms.length - 1) % ms.length]?
      | _ => none
  | 2 =>
    if m ∉ ms ∨ h = 0 then none
    else
      let x := m % w
      let y := m / w
      match p with
      | 0 => some (y * w + (x + 1) % w)
      | 1 => some (y * w + (x + w - 1) % w)
      | 2 => some ((y + 1) % h * w + x)
      | _ => some ((y + h - 1) % h * w + x)
  | _ => none

/-- The port at the other end of a link. -/
def otherEnd (p : Nat) : Nat := if p % 2 = 0 then p + 1 else p - 1

/-! ### Links and routes (R416) -/

/-- What the newest group-state message of `m` says of reaching `n`. -/
def Dev.says (d : Dev) (m n : Nat) : Option Bool :=
  (d.plk.group.find? (fun x => decide (x.1 = m))).map (fun x => bitOf x.2.reach.toNat n)

def Dev.portOpen (d : Dev) (p : Nat) : Bool := decide (d.portState p = 3 ∨ d.portState p = 4)

/-- The link at port `p` of member `m` can be used; `n` is its other end. Of a link between two other members the device
knows what their group-state messages say (DEDUCED, unsafe, log entry 32). -/
def Dev.linkOpen (d : Dev) (m p n : Nat) : Bool :=
  if m = d.devId then d.portOpen p
  else if n = d.devId then d.portOpen (otherEnd p)
  else
    match d.says m n, d.says n m with
    | some x, some y => x && y
    | some x, none => x
    | none, some y => y
    | none, none => false

/-- Follow a route from `m`: the member it ends at, none where a link cannot be used or it is over 15 hops. -/
def Dev.follow (d : Dev) (m : Nat) (ps : List Nat) : Option Nat :=
  if 15 < ps.length then none
  else ps.foldl (fun a p => a.bind (fun m => (d.neighbour m p).bind (fun n => if d.linkOpen m p n then some n else none))) (some m)

/-- Hops of the shorter way round a ring of `n` from `x` to `y`, a tie going to the port `up`. -/
def shorter (n x y up down : Nat) : List Nat :=
  let k := (y + n - x) % n
  if k ≤ n - k then List.replicate k up else List.replicate (n - k) down

/-- Steps 1 and 2 of R416. -/
def Dev.direct (d : Dev) (n : Nat) : List (List Nat) :=
  let me := d.devId
  let ms := d.members
  match d.topo with
  | 1 =>
    let pos (m : Nat) : Nat := (ms.takeWhile (fun x => decide (x ≠ m))).length
    [shorter ms.length (pos me) (pos n) 0 1]
  | 2 =>
    let w := d.torusW
    let cols := shorter w (me % w) (n % w) 0 1
    let rows := shorter d.torusH (me / w) (n / w) 2 3
    [cols ++ rows, rows ++ cols]
  | _ => []

/-- Step 3: routes of one more hop from each of `front` to members not seen before, in order of the ports. -/
def Dev.spread (d : Dev) (front : List (Nat × List Nat)) (seen : List (Nat × List Nat)) (fuel : Nat) : List (Nat × List Nat) :=
  match fuel with
  | 0 => seen
  | k + 1 =>
    let r := front.foldl (fun acc x => (List.range 4).foldl (fun (acc : List (Nat × List Nat) × List (Nat × List Nat)) p =>
      match d.neighbour x.1 p with
      | some n =>
        if d.linkOpen x.1 p n && !acc.2.any (fun y => decide (y.1 = n)) then
          (acc.1 ++ [(n, x.2 ++ [p])], acc.2 ++ [(n, x.2 ++ [p])])
        else acc
      | none => acc) acc) ([], seen)
    d.spread r.1 r.2 k

def Dev.shortest (d : Dev) (n : Nat) : Option (List Nat) :=
  ((d.spread [(d.devId, [])] [(d.devId, [])] 15).find? (fun x => decide (x.1 = n))).map (·.2)

/-- The route that R416 gives to member `n`. -/
def Dev.routeTo (d : Dev) (n : Nat) : Option (List Nat) :=
  if d.topo = 0 ∨ n = d.devId ∨ n ∉ d.members then none
  else ((d.direct n).find? (fun r => decide (d.follow d.devId r = some n))).orElse (fun _ => d.shortest n)

/-- The route that the next operation to `n` takes. -/
def Dev.routeNow (d : Dev) (n : Nat) : Option (List Nat) := (d.plk.nextRoutes.lookup n).orElse (fun _ => d.plk.routes.lookup n)

/-- Put a route in force for `n`: at once where nothing sent on the old one is outstanding, else once it has ended (R417). -/
def Dev.setRoute (d : Dev) (n : Nat) (r : Option (List Nat)) : Dev :=
  match r with
  | none => { d with plk := { d.plk with routes := SMap.erase d.plk.routes n, nextRoutes := SMap.erase d.plk.nextRoutes n } }
  | some ps =>
    if d.plk.ops.any (fun o => decide (o.member = n)) && (d.plk.routes.lookup n).isSome then
      { d with plk := { d.plk with nextRoutes := SMap.put d.plk.nextRoutes n ps } }
    else { d with plk := { d.plk with routes := SMap.put d.plk.routes n ps, nextRoutes := SMap.erase d.plk.nextRoutes n } }

/-- Recompute the routes: a route that still holds is kept unless `fresh` (R417). -/
def Dev.newRoutes (d : Dev) (fresh : Bool) : Dev :=
  (d.members.filter (fun n => decide (n ≠ d.devId))).foldl (fun d n =>
    match d.routeNow n with
    | some ps =>
      if !fresh && decide (d.follow d.devId ps = some n) then d
      else
        let r := d.routeTo n
        if r = some ps then d else d.setRoute n r
    | none => d.setRoute n (d.routeTo n)) d

/-- Members with a route, the device itself with them. -/
def Dev.reachNow (d : Dev) : Nat :=
  if d.topo = 0 then 0
  else sumBy (fun n => if n = d.devId ∨ (d.routeNow n).isSome then 2 ^ n else 0) (List.range 16)

/-- R417, R77: a re-admission brings every route up to date, and with it the port that takes a lost port's demand. -/
def Dev.refreshRoutes (d : Dev) : Dev :=
  let d := d.newRoutes true
  { d with cal := { d.cal with lostPorts := d.cal.lostPorts.map (fun x =>
      (x.1, ((d.neighbour d.devId x.1).bind d.routeNow).bind (·.head?))) } }

/-! ### The quiet vote (R426) -/

/-- The conditions on the device's own work: sleep enabled, nothing outstanding, no admitted entry with PEER set or SERVE. -/
def Dev.calm (d : Dev) : Bool :=
  d.bit R.PLK_SLEEP.EN 0 0 && d.plk.ops.isEmpty &&
    !d.cal.entries.any (fun e => bitOf (d.costOf e.wb e.alm.job).flags 2 ||
      (match d.jobOf e.wb e.alm.job with | some j => j.searches.any (fun l => bitOf (fieldAt l 1 1) 0) | none => false))

def Dev.votesQuiet (d : Dev) : Bool :=
  d.calm && !d.saf.chans.any (fun c => c.xcmp) &&
    (match d.plk.quietSince with
     | some t => decide (t + 1000 * max 1 (d.get R.PLK_SLEEP.QUIET_US 0 0) ≤ d.now)
     | none => false)

/-- Since when the conditions have held, brought up to date. -/
def Dev.noteCalm (d : Dev) : Dev :=
  if d.topo = 0 then d
  else if !d.calm then (if d.plk.quietSince.isSome then { d with plk := { d.plk with quietSince := none } } else d)
  else if d.plk.quietSince.isNone then { d with plk := { d.plk with quietSince := some d.now } }
  else d

end Sys2Proof.Machine
end

