-- ==== Sys2Proof/Machine/CalRows.lean ====
section
/-! DEFINITION. The commands of the calendar unit: releases, the leap, lateness, timing faults, orbit boundaries,
re-admission, cap levels (R49, R58 to R65, R72 to R79, R517). -/

namespace Sys2Proof.Machine

/-! ### Releases (R58, R61, R62) -/

/-- Nominal release of run `k`. -/
def Entry.relNom (e : Entry) (k : Nat) : Nat := e.rel0 + k * e.alm.period

/-- The newest run ended late, or the entry leaps: its next release follows R61 and R62. -/
def Entry.behind (e : Entry) : Bool :=
  e.leaping || (match e.lastEnd with | some f => decide (e.prom (e.next - 1) < f) | none => false)

/-- Release of the next run with spacing `t` from the last start (R61). -/
def Entry.relAfter (e : Entry) (t : Nat) : Nat :=
  max (e.relNom e.next) (max ((e.lastStart.getD 0) + t) (e.lastEnd.getD 0))

/-- An entry that can be released: not suspended, not ending, its runs do not overlap. -/
def Dev.releasable (d : Dev) (e : Entry) : Bool :=
  !e.suspended && e.ending.isNone && !d.cal.stopped && !d.runs.any (fun r => decide (r.src = .entry e.slot)) &&
    d.bit R.TB_CFG.EN (d.schedTb e.part) 0

/-- The next release is nominal: the entry is not behind, or has caught up. -/
def Entry.nominal (e : Entry) : Bool := !e.behind || decide (e.relAfter e.alm.tmin = e.relNom e.next)

def Dev.entryUnits (d : Dev) (e : Entry) : List Nat := unitsOf [d.costOf e.wb e.alm.job]

/-- Two entries use a unit both. -/
def Dev.meet (d : Dev) (x y : Entry) : Bool := (d.entryUnits x).any (fun u => decide (u ∈ d.entryUnits y))

/-- R62: no other entry leaps on a unit of `e`, and none that waits for the leap there comes before it. -/
def Dev.leapGranted (d : Dev) (e : Entry) : Bool :=
  e.leaping || !d.cal.entries.any (fun x => decide (x.group ≠ e.group) && d.meet x e &&
    (x.leaping || (x.behind && !x.nominal &&
      (decide (e.alm.cls < x.alm.cls) || (decide (x.alm.cls = e.alm.cls) && decide (x.prom x.next < e.prom e.next))))))

/-- Create run `next` of an entry, released at `rel`. -/
def Dev.releaseRun (d : Dev) (e : Entry) (rel : Nat) (leap : Bool) : Dev :=
  match d.jobOf e.wb e.alm.job with
  | none => d
  | some j =>
    let id := d.nextId
    let safety := decide (e.alm.cls = 1)
    let x := d.takeRemote e.wb j.num id j.tasks.length
    let r := { x.1.newRun (.entry e.slot) e.part e.ctx e.wb j e.next rel (e.prom e.next) safety e.admNo 0 0 e.next x.2 with
      id := id, causes := if e.cause = 0 then [] else [e.cause] }
    let d := { x.1 with runs := x.1.runs ++ [r], nextId := max x.1.nextId (id + 1) }
    let d := d.setEntry e.slot (fun x => { x with next := e.next + 1, leaping := leap, cause := if leap then x.cause else 0 })
    let d := ((d.syncEntries e.part).count 3 0 1 r.occ)
    let d := if leap then d.count 3 2 1 r.occ else d
    if d.inputsSet e.alm.inputs then d.makeEligible r e.alm.inputs e.alm.clear false else d

/-- A nominal release that is due. -/
def Dev.entryRelease (d : Dev) (slot : Nat) : Dev :=
  match d.entry slot with
  | some e =>
    if d.releasable e && e.nominal && decide (e.relNom e.next ≤ d.schedNow e.part) then
      d.releaseRun e (e.relNom e.next) false
    else d
  | none => d

/-- ENTRY_RELEASE, R58. Not due before rel(k), nor while the entry is behind. -/
def execEntryRelease (slot : Nat) (s : State) : Host.Outcome State Fault Refusal :=
  onDev (decide (slot < 16384)) (fun _ d => d.entryRelease slot) s

/-- A release of a late entry: at Tmin when the leap is granted, at T otherwise. -/
def Dev.leapRelease (d : Dev) (slot : Nat) : Dev :=
  match d.entry slot with
  | some e =>
    let g := d.leapGranted e
    let rel := e.relAfter (if g then e.alm.tmin else e.alm.period)
    if d.releasable e && !e.nominal && decide (rel ≤ d.schedNow e.part) then d.releaseRun e rel g else d
  | none => d

/-- LEAP_RELEASE, R61, R62. -/
def execLeapRelease (slot : Nat) (s : State) : Host.Outcome State Fault Refusal :=
  onDev (decide (slot < 16384)) (fun _ d => d.leapRelease slot) s

/-- A held run whose inputs are set. -/
def Dev.runEligible (d : Dev) (id : Nat) : Dev :=
  match d.run id with
  | some r =>
    match r.src with
    | .entry slot =>
      match d.entry slot with
      | some e =>
        if !r.eligible && d.inputsSet e.alm.inputs then d.makeEligible r e.alm.inputs e.alm.clear (!e.alm.inputs.isEmpty) else d
      | none => d
    | .req _ => d
  | none => d

/-- RUN_ELIGIBLE, R49, R399. -/
def execRunEligible (run : Nat) (s : State) : Host.Outcome State Fault Refusal := onDev true (fun _ d => d.runEligible run) s

/-- The mover of a COPY: the first that its cost vector charges, else the partition's lowest (DEDUCED, unsafe, log entry 29). -/
def Dev.copyTmv (d : Dev) (r : Req) : Nat :=
  match (d.reqCost r).recs.find? (fun x => decide (x.res / 64 = 0x0A)) with
  | some x => x.res % 64
  | none => ((List.range 16).find? (fun u => decide (d.resPart (64 * 0x0A + u) = some r.part))).getD 0

/-- Solver and search tasks of an aperiodic request. -/
def Req.extra (r : Req) : List Task :=
  if dOpc r.desc = 0x30 then [slxTask (dArg0 r.desc) (dArg1 r.desc) (dArg2 r.desc)]
  else if dOpc r.desc = 0x40 then [searchTask r]
  else []

/-- Release an admitted aperiodic request. -/
def Dev.aperRelease (d : Dev) (r : Req) : Dev :=
  match d.jobOf (dHandle r.desc % 256) r.jobNo with
  | none => d
  | some j =>
    let run := d.newRun (.req r.id) r.part (some r.ctx) (dHandle r.desc % 256) j 0 r.rel r.prom (decide (dClass r.desc = 1)) r.admNo
      (dArg0 r.desc) (dArg2 r.desc) (dSeq r.desc) r.extra
    let d := (d.addRun run).setReq r.id (fun x => { x with st := .running })
    let d := (d.count 3 0 1 run.occ).makeEligible run [] false false
    if dOpc r.desc = 0x20 then d.queueCopy (d.copyTmv r) (r.work.map (BitVec.ofNat 8)) run none else d

/-- APERIODIC_RELEASE, R50. Not due before the request's release. -/
def execAperiodicRelease (req : Nat) (s : State) : Host.Outcome State Fault Refusal :=
  onDev true (fun _ d =>
    match d.req req with
    | some r => if decide (r.st = .admitted ∧ r.rel ≤ d.schedNow r.part) && !d.cal.stopped then d.aperRelease r else d
    | none => d) s

/-! ### Completion (R59, R60, R375) -/

/-- Every part of the run has ended. A WINDOW_QUERY ends with its own command, a pose output with its final step. -/
def Dev.runOver (d : Dev) (r : Run) : Bool :=
  r.eligible && r.streams.all (·.ended) && r.tasks.all (·.done) && r.copies.isEmpty &&
    (match r.src with
     | .req id => (d.req id).all (fun q => decide (dOpc q.desc ≠ 0x60))
     | .entry _ => true)

/-- RESULT_DA of an aperiodic request (Table 03-6). -/
def Dev.resultDa (d : Dev) (r : Run) : Nat :=
  match r.src with
  | .req id =>
    match d.req id with
    | some q => (match dOpc q.desc with | 0x12 => dArg2 q.desc | 0x20 => dArg1 q.desc | _ => 0)
    | none => 0
  | .entry _ => r.resDa

def Dev.runComplete (d : Dev) (id : Nat) : Dev :=
  match d.run id with
  | some r =>
    if d.runOver r then
      let d := d.markStarted id
      let r := (d.run id).getD r
      let st := if r.status = 0 then d.okStatus r else (r.status, r.sub)
      d.finishRun r st.1 st.2 (d.resultDa r) r.info
    else d
  | none => d

/-- RUN_COMPLETE, R375, R59. -/
def execRunComplete (run : Nat) (s : State) : Host.Outcome State Fault Refusal := onDev true (fun _ d => d.runComplete run) s

/-! ### Timing faults (R63 to R65) -/

def Dev.watchdog (d : Dev) (id : Nat) : Dev :=
  match d.run id with
  | some r =>
    match r.src with
    | .req _ => d
    | .entry slot =>
      match d.entry slot with
      | none => d
      | some e =>
        if decide (d.schedNow r.part ≤ r.prom + e.alm.lateTol) || e.suspended || e.ending.isSome then d
        else
          let d := d.annal 4 1 1 (annUnit e.part 0) (leBytes 2 e.slot ++ leBytes 4 (r.k % 2 ^ 32))
          if e.alm.cls = 1 then d.dangerous 2 ((e.channel.map (·.1)).getD 0) 0 false (some r.id)
          else d.setEntry slot (fun x => { x with suspended := true })
  | none => d

/-- DEADLINE_WATCHDOG_EXPIRY, R63 to R65. Not due up to prom(k) + LATE_TOL. -/
def execDeadlineWatchdogExpiry (run : Nat) (s : State) : Host.Outcome State Fault Refusal :=
  onDev true (fun _ d => d.watchdog run) s

/-! ### Re-admission (R72 to R76) -/

/-- R72: an event for the partitions `ps`, merged into a re-admission under way. -/
def Dev.beginReadmit (d : Dev) (ps : List Nat) (cause : Nat) : Dev :=
  let busy := d.bit R.CAL_STATUS.READMIT 0 0
  let d : Dev := { d with cal := { d.cal with readmit := d.cal.readmit ++ ps.map (fun p => (p, cause)) } }
  if busy then d.set R.CAL_STATUS.READMIT_PEND 0 0 1 else d.set R.CAL_STATUS.READMIT 0 0 1

/-- What takes part in the stages of R73. -/
inductive Item where
  | entry (e : Entry)
  | req (r : Req)
  deriving DecidableEq, Repr

def Item.part (i : Item) : Nat := match i with | .entry e => e.part | .req r => r.part
def Item.adm (i : Item) : Nat := match i with | .entry e => e.admNo | .req r => r.admNo
def Item.safety (i : Item) : Bool := match i with | .entry e => decide (e.alm.cls = 1) | .req r => decide (dClass r.desc = 1)

def Dev.itemUnits (d : Dev) (i : Item) : List Nat :=
  match i with
  | .entry e => d.entryUnits e
  | .req r => unitsOf [d.reqCost r]

/-- Workbook slots whose placement covers a retired range (R471). -/
def Dev.wbRetired (d : Dev) (slot : Nat) : Bool :=
  match d.wb slot with
  | some w => w.place.any (fun r => d.isRetired r.da r.bytes)
  | none => false

def Item.wb (i : Item) : Nat := match i with | .entry e => e.wb | .req r => dHandle r.desc % 256

/-- Template lines of an item's job. -/
def Dev.itemLines (d : Dev) (i : Item) : List (List Byte) :=
  let j := match i with | .entry e => d.jobOf e.wb e.alm.job | .req r => d.jobOf (dHandle r.desc % 256) r.jobNo
  (j.map (·.solves)).getD []

/-- R300: the SLX group that has lost a core under a line with GANG 2. -/
def Dev.gangLost (d : Dev) (i : Item) : Option Nat :=
  ((d.itemLines i).find? (fun l => decide (fieldAt l 2 1 = 2 ∧ d.get R.SLX_GROUP_STAT.CORES (fieldAt l 3 1) 0 < 16))).map
    (fun l => 64 * 0x02 + fieldAt l 3 1)

/-- R76: the gone unit that an item is pinned to; 0 for a retired region (DEDUCED, unsafe, log entry 30). -/
def Dev.pinned (d : Dev) (i : Item) : Option Nat :=
  (((d.itemUnits i).find? (fun u => decide (u ∈ d.cal.gone))).orElse (fun _ => d.gangLost i)).orElse
    (fun _ => if d.wbRetired i.wb then some 0 else none)

/-- Priority of the context of an item (R73). -/
def Dev.itemPrio (d : Dev) (i : Item) : Nat :=
  match i with
  | .entry e => (e.ctx.map (fun c => d.get R.CTX_CAL.PRIO c 0)).getD 0
  | .req r => d.get R.CTX_CAL.PRIO r.ctx 0

def Dev.prioOrder (d : Dev) (x y : Item) : Bool :=
  decide (d.itemPrio y < d.itemPrio x) || (decide (d.itemPrio x = d.itemPrio y) && decide (x.adm < y.adm))

/-- `d` with an item among the admitted ones. -/
def Dev.withItem (d : Dev) (i : Item) : Dev :=
  match i with
  | .entry e => { d with cal := { d.cal with entries := d.cal.entries ++ [e] } }
  | .req r => { d with reqs := d.reqs ++ [r] }

/-- Subcode of the first test that an item fails against the items already in `d` (R51, R52, R54; DEDUCED, unsafe, log entry 30). -/
def Dev.itemFails (d : Dev) (i : Item) : Option Nat :=
  d.capLevels.findSome? (fun c =>
    match i with
    | .entry e => d.admitTest e.part [e] c
    | .req r =>
      let e := d.withItem i
      let us := unitsOf [d.reqCost r]
      match us.findSome? (fun u => (unitTest (e.jobsOn r.part u c) (e.horizon r.part u)).map (fun k => k * 4096 + u)) with
      | some s => some s
      | none =>
        if !e.energyTest r.part c (e.partEnergy r.part c) (e.partShots r.part c) then some (0x2FC0 + r.part)
        else if dClass r.desc = 1 then none
        else (us.find? (fun u => resDeviceWide u && !safetyOk (e.jobsOn r.part u c) (e.horizon r.part u))).map (fun u => 6 * 4096 + u))

/-- Walk the items in order up to the first that fails: those kept, the failure, the rest from it on. -/
def Dev.stage (d : Dev) (is : List Item) : Dev × Option (Nat × List Item) :=
  match is with
  | [] => (d, none)
  | i :: rest =>
    match d.itemFails i with
    | none => (d.withItem i).stage rest
    | some s => (d, some (s, i :: rest))

/-- Stage 1: each item is tested; true when one fails. -/
def Dev.stageOne (d : Dev) (is : List Item) : Dev × Bool :=
  is.foldl (fun acc i => match acc.1.itemFails i with | none => (acc.1.withItem i, acc.2) | some _ => (acc.1, true)) (d, false)

def Dev.revokeItem (d : Dev) (i : Item) (sub : Nat) : Dev :=
  match i with
  | .entry e => (match d.entry e.slot with | some x => if x.ending.isNone then d.revokeOne x sub else d | none => d)
  | .req r => (match d.req r.id with | some x => d.revokeReq x sub | none => d)

/-- Stop what runs on a unit that no longer exists: it cannot complete (DEDUCED, unsafe, log entry 30). -/
def Dev.stopItem (d : Dev) (i : Item) : Dev :=
  let src : Src := match i with | .entry e => .entry e.slot | .req r => .req r.id
  (d.runs.filter (fun r => decide (r.src = src))).foldl (fun d r => d.stopRun r.id) d

def Dev.itemStarted (d : Dev) (i : Item) : Bool :=
  match i with
  | .entry _ => false
  | .req r => d.runs.any (fun x => decide (x.src = .req r.id) && x.started.isSome)

/-- R73 to R76: the outcome of the re-admission. -/
def Dev.readmission (d : Dev) : Dev :=
  let ev := d.cal.readmit
  let causeOf (p : Nat) : Nat := (ev.lookup p).getD 1
  let es := (d.cal.entries.filter (fun e => e.ending.isNone)).map Item.entry
  let rs := (d.reqs.filter (fun r => r.isAdmitted)).map Item.req
  let open_ := (es ++ rs).filter (fun i => !d.itemStarted i)
  let gone := (es ++ rs).filter (fun i => (d.pinned i).isSome)
  let moving := open_.filter (fun i => decide (i ∉ gone) && ev.any (fun x => decide (x.1 = i.part)))
  let stays := (es ++ rs).filter (fun i => decide (i ∉ gone ∧ i ∉ moving))
  let others := d.reqs.filter (fun r => !r.isAdmitted)
  let base : Dev := { d with reqs := others, cal := { d.cal with entries := [] } }
  let base := stays.foldl (fun b i => b.withItem i) base
  let s1 := base.stageOne (sortBy (fun x y => decide (x.adm < y.adm)) (moving.filter (·.safety)))
  let safeFail := s1.2 || gone.any (·.safety)
  let held : Dev :=
    if safeFail then { s1.1 with
      reqs := s1.1.reqs.filter (fun r => !d.isSafe r.part)
      cal := { s1.1.cal with entries := s1.1.cal.entries.filter (fun e => !d.isSafe e.part) } }
    else s1.1
  let two := sortBy d.prioOrder (moving.filter (fun i => !i.safety && !(safeFail && d.isSafe i.part)))
  let s2 := held.stage two
  let d := if safeFail then d.dangerous 0xA 0 0 false none else d
  let d := (gone.filter (fun i => !i.safety)).foldl (fun d i => (d.stopItem i).revokeItem i (0x6000 + (d.pinned i).getD 0)) d
  let d := match s2.2 with
    | none => d
    | some f => f.2.foldl (fun d i => d.revokeItem i (4096 * causeOf i.part + f.1 % 4096)) d
  let d : Dev := { d with cal := { d.cal with readmit := [] } }.refreshRoutes
  (d.set R.CAL_STATUS.READMIT 0 0 0).set R.CAL_STATUS.READMIT_PEND 0 0 0

/-- READMISSION_DONE, R73. Not due without a re-admission. -/
def execReadmissionDone (s : State) : Host.Outcome State Fault Refusal :=
  onDev true (fun _ d => if d.bit R.CAL_STATUS.READMIT 0 0 then d.readmission else d) s

/-! ### Cap level (R78, R79, R517) -/

/-- A new effective level, for CAL. -/
def Dev.capChange (d : Dev) (level : Nat) : Dev :=
  let now := d.capNow
  let d : Dev := { d with cal := { d.cal with capWait := none } }
  let d := (d.set R.CAL_STATUS.CAP_PEND 0 0 level).set R.CAL_STATUS.CAP_CHG 0 0 (b2n (decide (level ≠ now)))
  if now < level then d.beginReadmit (List.range d.parts) 1 else d

/-- R517: EFF is the largest of the three requests. -/
def Dev.updateCap (d : Dev) : Dev :=
  let eff := max (d.get R.PWR_CAP.HOST 0 0) (max (d.get R.PWR_CAP.CMC 0 0) (d.get R.PWR_CAP.HW 0 0))
  if eff = d.get R.PWR_CAP.EFF 0 0 then d else (d.set R.PWR_CAP.EFF 0 0 eff).capChange eff

/-- PWR_CAP_HOST_WRITE, R517. -/
def execPwrCapHostWrite (level : BitVec 2) (s : State) : Host.Outcome State Fault Refusal :=
  onDev true (fun _ d => if d.hostUp then (d.wakeIdle.set R.PWR_CAP.HOST 0 0 level.toNat).updateCap else d) s

/-- CMC_CAP_REQUEST, R517. A CMC that has stopped responding requests nothing (R41). -/
def execCmcCapRequest (level : BitVec 2) (s : State) : Host.Outcome State Fault Refusal :=
  onDev true (fun _ d => if d.pwr.cmc then (d.set R.PWR_CAP.CMC 0 0 level.toNat).updateCap else d) s

/-- R78: the re-admission and the started runs of revoked jobs are over. -/
def Dev.capReady (d : Dev) : Bool :=
  !d.bit R.CAL_STATUS.READMIT 0 0 &&
    !d.cal.entries.any (fun e => (match e.ending with | some x => decide (x.1 = 0x31) | none => false) && d.entryStarted e.slot)

/-- R78, R79: a boundary of partition `p` passes while a change is pending. -/
def Dev.capBoundary (d : Dev) (p : Nat) : Dev :=
  if !d.bit R.CAL_STATUS.CAP_CHG 0 0 || (d.cal.capWait.isNone && !d.capReady) then d
  else
    let all := below d.parts (fun k => d.bit R.TB_CFG.EN (d.schedTb k) 0)
    let left := (d.cal.capWait.getD all).filter (fun k => decide (k ≠ p))
    if left.isEmpty then
      let level := d.get R.CAL_STATUS.CAP_PEND 0 0
      let d : Dev := { d with cal := { d.cal with capWait := none } }
      ((d.set R.CAL_STATUS.CAP_NOW 0 0 level).set R.CAL_STATUS.CAP_CHG 0 0 0).setVdd level
    else { d with cal := { d.cal with capWait := some left } }

/-! ### Orbit boundaries (R44, R66) -/

/-- The boundary that has passed last on the schedule base. -/
def Dev.lastBoundary (d : Dev) (p : Nat) : Nat :=
  let o := max 1 (d.pcal p).orbit
  d.schedNow p / o * o

/-- R282, R337, R340, R78 at a boundary. -/
def Dev.orbitBoundary (d : Dev) (p : Nat) : Dev :=
  let b := d.lastBoundary p
  if (d.pcal p).boundary < b then
    let d := d.setPcal p (fun c => { c with orbits := c.orbits + 1, boundary := b })
    (((d.publishIndices p).publishMap p).settleWaits (d.reqs.length + 1)).capBoundary p
  else d

/-- ORBIT_BOUNDARY, R44. Not due before the partition's next boundary. -/
def execOrbitBoundary (part : Nat) (s : State) : Host.Outcome State Fault Refusal :=
  onDev (decide (part < 16)) (fun _ d => if part < d.parts then d.orbitBoundary part else d) s

end Sys2Proof.Machine
end

