-- ==== Sys2Proof/Machine/CtxRows.lean ====
section
/-! DEFINITION. Aborts, purges and resets from the host (R105 to R113). -/

namespace Sys2Proof.Machine

/-! ### Stopping work (R36, R105, R106, R203, R233, R288, R314, R338, R347, R502) -/

/-- What the error registers show of a task that an abort or purge stops (DEDUCED, unsafe, log entry 31). -/
def Dev.haltTask (d : Dev) (r : Run) (k : Nat) (t : Task) : Dev :=
  if t.done then d
  else
    match t.sort with
    | 0 => d.logTask t 5 0
    | 1 => (match t.work.find? (fun g => decide (g ≠ 0)) with | some g => d.logSlx (16 * (g - 1)) 6 0 | none => d)
    | _ =>
      match (d.search r.id k).bind (fun s => s.queries.find? (fun q => !q.done && decide (q.walker < 8))) with
      | some q => d.logPse q.walker 5 0
      | none => d

/-- Stop a run at once; the instructions it issued and had not settled are wasted. -/
def Dev.haltRun (d : Dev) (r : Run) : Dev :=
  let d :=
    if r.started.isSome then (List.range r.tasks.length).foldl (fun d k => match r.tasks[k]? with | some t => d.haltTask r k t | none => d) d
    else d
  let d := r.streams.foldl (fun d s => d.countSlots r s.array (match s.spec with | some x => x.issued | none => s.ops.length) true) d
  d.stopRun r.id

/-- The maintenance work and the staged changes of a context are never reached. -/
def Dev.dropChanges (d : Dev) (c : Nat) : Dev :=
  let mine (id : Nat) : Bool := d.reqs.any (fun r => decide (r.id = id ∧ r.ctx = c))
  let d : Dev := { d with cal := { d.cal with maint := d.cal.maint.filter (fun m => match m.kind with | .hostReq id => !mine id | _ => true) } }
  let d :=
    match (d.map.bind (·.staged)).map (·.1) with
    | some id => if mine id then (d.setMap (fun m => { m with staged := none })).syncMap else d
    | none => d
  d.dropStaged (fun x => decide (x = c))

/-- The start of an abort of context `c` with subcode `sub`: it takes effect at once. -/
def Dev.beginAbort (d : Dev) (c sub : Nat) : Dev :=
  if (d.ctx c).aborting.isSome && decide (sub ≠ 5) then d
  else
    let d := d.setCtx c (fun x => { x with aborting := some sub, dump := none })
    let d := (d.set R.CTX_STATUS.FETCH_STOP c 0 1).set R.CTX_ABORT.ABORT c 0 1
    let d := d.dropChanges c
    let d : Dev := { d with reqs := d.reqs.map (fun r => if r.ctx = c then { r with st := .aborted } else r) }
    let es := d.cal.entries.filter (fun e => decide (e.ctx = some c))
    let d := (es.filter (fun e => e.ending.isNone)).foldl (fun d e => d.setEntry e.slot (fun x => { x with ending := some (0x30, sub) })) d
    let d := (d.runs.filter (fun r => decide (r.ctx = some c))).foldl (fun d r => d.haltRun r) d
    let d := (es.filter (fun e => e.ending.isSome)).foldl (fun d e => d.settleEntry e.slot) d
    d.detachCtx c

/-- Every outstanding request and entry of the context gets its ABORTED record. -/
def Dev.abortRecords (d : Dev) (c sub : Nat) : Dev :=
  let d := (d.reqs.filter (fun r => decide (r.ctx = c))).foldl (fun d r => d.finishReq r 0x30 sub none 0 []) d
  (d.cal.entries.filter (fun e => decide (e.ctx = some c))).foldl (fun d e =>
    let st := e.ending.getD (0x30, sub)
    d.endEntry e st.1 st.2) d

/-- R112: the workbooks that an orphaned context loaded go, and what other contexts run on them is revoked (DEDUCED, unsafe, log entry 31). -/
def Dev.orphanWbs (d : Dev) (c : Nat) : Dev :=
  (d.wbs.filter (fun w => decide (w.ctx = some c))).foldl (fun d w =>
    let d := (d.cal.entries.filter (fun e => decide (e.wb = w.slot))).foldl (fun d e => d.endEntry e 0x31 0x5000) d
    let d := (d.reqs.filter (fun r => r.isAdmitted && decide (dHandle r.desc % 256 = w.slot))).foldl (fun d r => d.revokeReq r 0x5000) d
    d.unload w) d

/-- Both the register in force and the buffered one. -/
def Dev.setBoth (d : Dev) (f : Fld) (i j v : Nat) : Dev :=
  let d := d.set f i j v
  match d.buf.lookup (f.off i j) with
  | some x => { d with buf := SMap.put d.buf (f.off i j) (BitVec.ofNat 128 (putBits x.toNat f.hi f.lo v)) }
  | none => d

/-- The end of an abort. -/
def Dev.endAbort (d : Dev) (c : Nat) : Dev :=
  match (d.ctx c).aborting with
  | none => d
  | some sub =>
    let d := d.abortRecords c sub
    let d := if sub = 5 then d.orphanWbs c else d
    let d := d.setCtx c (fun x => { x with enabled := false, aborting := none })
    ((d.setBoth R.CTX_CTRL.EN c 0 0).set R.CTX_STATUS.ABORT_DONE c 0 1).set R.CTX_ABORT.ABORT c 0 0

/-- A write of 1 to CTX_ABORT.ABORT. -/
def Dev.abortWrite (d : Dev) (c : Nat) : Dev :=
  if (d.ctxPart c).any (fun p => d.isSafe p) then d.set R.CTX_ERR.ABORT_DENIED c 0 1 else d.beginAbort c 1

/-- CTX_ABORT, R105, R107. -/
def execCtxAbort (ctx : Nat) (s : State) : Host.Outcome State Fault Refusal :=
  onDev (decide (ctx < 2048)) (fun _ d => if d.hostUp then d.wakeIdle.abortWrite ctx else d) s

/-- ABORT_DONE, R105. Not due without an abort, nor for an orphaned context. -/
def execAbortDone (ctx : Nat) (s : State) : Host.Outcome State Fault Refusal :=
  onDev (decide (ctx < 2048)) (fun _ d => if d.orphaned ctx then d else d.endAbort ctx) s

/-! ### Purges (R107 to R109) -/

def Dev.allCtxs (d : Dev) (k : Nat) : List Nat := below 2048 (fun c => decide (d.ctxPart c = some k))

def Dev.beginPurge (d : Dev) (k sub : Nat) : Dev := (d.allCtxs k).foldl (fun d c => d.beginAbort c sub) d

/-- What a purge leaves of partition `k`. -/
def Dev.endPurge (d : Dev) (k : Nat) : Dev :=
  let d := (d.allCtxs k).foldl (fun d c => d.endAbort c) d
  let d := (d.cal.entries.filter (fun e => decide (e.part = k))).foldl (fun d e => d.endEntry e 0x30 2) d
  let d := (d.wbs.filter (fun w => decide (w.part = k))).foldl (fun d w => d.unload w) d
  let d := (d.ing.binds.filter (fun b => decide (b.part = k))).foldl (fun d b => d.dropBind b.stream) d
  let d := (d.clearFlags (d.flagShare k).1 (d.flagShare k).2).purgeMem k
  d.setPcal k (fun c => { c with orbit := PartCal.reset.orbit, phases := PartCal.reset.phases,
                                 boundary := d.schedNow k / PartCal.reset.orbit * PartCal.reset.orbit })

def Dev.setBusy (d : Dev) (k v : Nat) : Dev :=
  d.set R.GLB_PURGE_STAT.BUSY 0 0 (putBits (d.get R.GLB_PURGE_STAT.BUSY 0 0) k k v)

/-- A write of GLB_PURGE.PART. -/
def Dev.purgeParts (d : Dev) (ks : Nat) : Dev :=
  (onesOf ks 16).foldl (fun d k =>
    if d.isSafe k then d.set R.GLB_PURGE_STAT.DENIED 0 0 1
    else if k < d.parts then (d.setBusy k 1).beginPurge k 2
    else d) d

/-- PARTITION_PURGE, R107, R108. -/
def execPartitionPurge (parts : BitVec 16) (s : State) : Host.Outcome State Fault Refusal :=
  onDev true (fun _ d => if d.hostUp then d.wakeIdle.purgeParts parts.toNat else d) s

/-- The partitions that a device purge reaches. -/
def Dev.purgeable (d : Dev) : List Nat := below d.parts (fun k => !d.isSafe k)

/-- A write of 1 to GLB_PURGE.DEVICE. -/
def Dev.purgeDevice (d : Dev) : Dev :=
  d.purgeable.foldl (fun d k => d.beginPurge k 3) (d.set R.GLB_PURGE_STAT.DEV_BUSY 0 0 1)

/-- DEVICE_PURGE, R107, R109. -/
def execDevicePurge (s : State) : Host.Outcome State Fault Refusal :=
  onDev true (fun _ d => if d.hostUp then d.wakeIdle.purgeDevice else d) s

def Dev.purgeEnds (d : Dev) (part : Option Nat) : Dev :=
  match part with
  | some k => if bitOf (d.get R.GLB_PURGE_STAT.BUSY 0 0) k then (d.endPurge k).setBusy k 0 else d
  | none =>
    if d.bit R.GLB_PURGE_STAT.DEV_BUSY 0 0 then (d.purgeable.foldl (fun d k => d.endPurge k) d).set R.GLB_PURGE_STAT.DEV_BUSY 0 0 0 else d

/-- PURGE_DONE, R108, R109: of partition `part`, or of the device. Not due without a purge. -/
def execPurgeDone (part : Option Nat) (s : State) : Host.Outcome State Fault Refusal :=
  onDev (part.all (fun k => decide (k < 16))) (fun _ d => d.purgeEnds part) s

/-! ### Host resets (R110 to R113) -/

/-- BAR0 offset of the mailbox of GLB, or of a context window (R489). -/
def mbxBase (w : Option Nat) : Nat := match w with | none => 0x10 | some c => 0x200100 + 0x400 * c

/-- R111: the words of a mailbox go, and MBX_VALID reads 0. -/
def Dev.clearMbx (d : Dev) (w : Option Nat) : Dev :=
  { d with regs := [4, 8, 12, 16, 20].foldl (fun m k => putCell m (mbxBase w + k) 0) d.regs }

/-- Records in the hold of a context are lost, uncounted by CQ_OVF. -/
def Dev.dropHold (d : Dev) (c : Nat) : Dev :=
  (d.addSat R.CTX_CQ_LOST.LOST c 0 (d.ctx c).hold.length).setCtx c (fun x => { x with hold := [] })

/-- The contexts of function `fn`. -/
def Dev.fnCtxs (d : Dev) (fn : Nat) : List Nat := below 2048 (fun c => decide (d.ctxFn c = some fn))

/-- R112, R113: one context of a reset function. -/
def Dev.resetCtx (d : Dev) (c : Nat) : Dev :=
  let d := d.clearMbx (some c)
  if (d.ctxPart c).any (fun p => d.isSafe p) then (d.dropHold c).set R.CTX_STATUS.HOST_LOST c 0 1
  else ((d.beginAbort c 5).dropHold c).set R.CTX_STATUS.ORPHAN c 0 1

/-- A reset of function `fn`. -/
def Dev.resetFn (d : Dev) (fn : Nat) : Dev :=
  let cs := d.fnCtxs fn
  let n := (cs.filter (fun c => !(d.ctxPart c).any (fun p => d.isSafe p))).length
  let d := cs.foldl (fun d c => d.resetCtx c) (if fn = 0 then d.clearMbx none else d)
  if n = 0 then d else { d with pwr := { d.pwr with orphans := d.pwr.orphans.filter (fun o => decide (o.1 ≠ fn)) ++ [(fn, n)] } }

/-- FUNCTION_LEVEL_RESET, R110 to R113. -/
def execFunctionLevelReset (fn : Nat) (s : State) : Host.Outcome State Fault Refusal :=
  onDev (decide (fn < 32)) (fun _ d => if d.hostUp then d.resetFn fn else d) s

/-- The link goes down with every function. -/
def Dev.resetHost (d : Dev) (k : HostResetKind) : Dev :=
  let d := (List.range 32).foldl (fun d fn => d.resetFn fn) d
  { d with pwr := { d.pwr with linkUp := false, perstN := d.pwr.perstN && decide (k ≠ .perst) } }

/-- HOST_RESET, R110 to R113. -/
def execHostReset (kind : HostResetKind) (s : State) : Host.Outcome State Fault Refusal :=
  onDev true (fun _ d => if d.pwr.porN then d.resetHost kind else d) s

/-- Event 0x08 for every reset function whose contexts are quiesced, once PF0 is usable. -/
def Dev.tellOrphans (d : Dev) (fuel : Nat) : Dev :=
  match fuel with
  | 0 => d
  | n + 1 =>
    if !d.hostUp then d
    else
      match d.pwr.orphans.find? (fun o => (d.fnCtxs o.1).all (fun c => !d.orphaned c)) with
      | none => d
      | some o =>
        let d : Dev := { d with pwr := { d.pwr with orphans := d.pwr.orphans.filter (fun x => decide (x.1 ≠ o.1)) } }
        (d.event 0 0x08 0x30 5 (leBytes 1 o.1 ++ leBytes 2 o.2) 0).tellOrphans n

/-- ORPHAN_QUIESCE_DONE, R112: the contexts of function `fn`. Not due without orphaned contexts. -/
def execOrphanQuiesceDone (fn : Nat) (s : State) : Host.Outcome State Fault Refusal :=
  onDev (decide (fn < 32)) (fun _ d =>
    (((d.fnCtxs fn).filter (fun c => d.orphaned c)).foldl (fun d c => d.endAbort c) d).tellOrphans (d.pwr.orphans.length + 1)) s

/-- The link can come up: from boot step 5 on, in a boot halt and in fusing mode, never in STANDBY (R515, R522, R523). -/
def Dev.pcieReady (d : Dev) : Bool :=
  d.pwr.porN && d.pwr.supplies.all id && decide (d.pwr.state ≠ .standby) &&
    (decide (5 ≤ d.get R.PWR_STAT.BOOT_STEP 0 0) || d.pwr.halt || d.pwr.fusing)

/-- PCIE_LINK_UP, R522, R112. Not due before the link can come up. -/
def execPcieLinkUp (s : State) : Host.Outcome State Fault Refusal :=
  onDev true (fun _ d =>
    if d.pcieReady then { d with pwr := { d.pwr with linkUp := true, perstN := true } }.tellOrphans (d.pwr.orphans.length + 1) else d) s

end Sys2Proof.Machine
end

