-- ==== Sys2Proof/Machine/PlkRows.lean ====
section
/-! DEFINITION. The peer link's commands: ports, identity, routes, remote operations, sleep, split and heal
(15_peer_link.md). -/

namespace Sys2Proof.Machine

/-! ### Authority (R428, R429) -/

/-- The piece: reachable members with what they last said of themselves. -/
def Dev.piece (d : Dev) : List Identity :=
  (d.plk.group.filter (fun x => decide (x.1 ≠ d.devId) && d.reaches x.1)).map (·.2)

/-- Weight of the piece; a member that has said nothing counts for 0 (DEDUCED, unsafe, log entry 32). -/
def Dev.pieceWeight (d : Dev) : Nat := d.get R.PLK_GSTAT.WEIGHT 0 0 + sumBy (·.weight) d.piece

/-- Members of the piece that hold the witness token. -/
def Dev.holders (d : Dev) : Nat := b2n (d.bit R.PLK_WITNESS.HOLD 0 0) + (d.piece.filter (·.witness)).length

/-- The two conditions of R428. -/
def Dev.quorum (d : Dev) : Bool :=
  let w := 2 * d.pieceWeight
  let t := d.get R.PLK_GROUP.TOTAL_W 0 0
  decide (t < w) || (decide (w = t) && decide (d.holders = 1))

/-- WIT_SEEN and WIT_CONFLICT. -/
def Dev.syncWitness (d : Dev) : Dev :=
  let n := if d.topo = 0 then 0 else d.holders
  let d := d.set R.PLK_GSTAT.WIT_SEEN 0 0 (b2n (decide (0 < n)))
  if 1 < n then d.set R.PLK_GSTAT.WIT_CONFLICT 0 0 1 else d

/-- Authority gained or lost, with event 0x62 (R431). -/
def Dev.setAuth (d : Dev) (v : Bool) : Dev :=
  if d.bit R.PLK_GSTAT.AUTH 0 0 = v then d
  else
    let cs := 0 :: (((d.map.bind (fun m => d.wb m.wb)).bind (·.ctx)).toList)
    ((d.set R.PLK_GSTAT.AUTH 0 0 (b2n v)).eventAll cs 0x62 0 0 (leBytes 1 (b2n v) ++ leBytes 1 d.pieceWeight) 0).syncMap

/-- R428: authority goes when the conditions break. -/
def Dev.checkAuth (d : Dev) : Dev :=
  let d := d.syncWitness
  if d.topo ≠ 0 ∧ d.quorum = false then d.setAuth false else d

/-! ### Route changes and peer loss (R417, R425) -/

/-- An operation to a lost member ends with ERR_PEER (R423). -/
def Dev.failOp (d : Dev) (o : L4) (e : AccErr) : Dev :=
  let d : Dev := { d with plk := { d.plk with ops := d.plk.ops.filter (fun x => decide (x.tag ≠ o.tag)) } }
  match o.copy with
  | some c =>
    (match (d.mover c.1).find? (fun x => decide (x.id = c.2)) with
     | some x => d.copyFail x e
     | none => d)
  | none => d.taggedFail o.run o.tag e

def Dev.endOpsTo (d : Dev) (lost : List Nat) : Dev :=
  (d.plk.ops.filter (fun o => decide (o.member ∈ lost))).foldl (fun d o =>
    if d.plk.ops.any (fun x => decide (x.tag = o.tag)) then d.failOp o (.peer o.member) else d) d

/-- R459: the partners among the lost members. -/
def Dev.partnersLost (d : Dev) (lost : List Nat) : Dev :=
  (d.saf.chans.filter (fun c => c.xcmp && decide (c.peer ∈ lost))).foldl (fun d c =>
    if c.degradeOk then
      let d := d.setChan c.num (fun c => { c with degraded := true, good := 0, waiting := none })
      if c.degraded then d else d.eventAll d.safeCtxs 0x69 0 0 (leBytes 1 c.num ++ [1] ++ leBytes 1 c.peer) 0
    else d.dangerous 0xC c.num 0 false none) d

/-- Routes and REACH after a port or a member's reach has changed. `tell` says that a port went DOWN. -/
def Dev.reroute (d : Dev) (tell : Bool) : Dev :=
  let was := d.get R.PLK_GSTAT.REACH 0 0
  let old := d.plk.routes
  let d := d.newRoutes false
  let now := d.reachNow
  let d := d.set R.PLK_GSTAT.REACH 0 0 now
  let lost := (onesOf was 16).filter (fun n => !bitOf now n)
  let back := (onesOf now 16).any (fun n => !bitOf was n)
  let d : Dev := if back then { d with plk := { d.plk with healPend := true } } else d
  let d := if lost.isEmpty then d
    else
      let d : Dev := { d with plk := { d.plk with healPend := true } }
      ((d.endOpsTo lost).event 0 0x61 0 0 (leBytes 2 now ++ leBytes 2 (sumBy (2 ^ ·) lost)) 0).partnersLost lost
  let d := if !lost.isEmpty || (tell && decide (d.plk.routes ≠ old ∨ d.plk.nextRoutes ≠ [])) then
      (d.beginReadmit (List.range d.parts) 3).settleSearches
    else d
  d.checkAuth

/-- R414: the identity frame of this device, sent on port `p` (Table 15-4). -/
def Dev.identityBytes (d : Dev) (p : Nat) : List Byte :=
  leBytes 1 d.devId ++ leBytes 1 (d.get R.PLK_GSTAT.WEIGHT 0 0) ++ leBytes 1 d.topo ++ leBytes 1 d.torusW ++
    leBytes 2 (d.get R.PLK_GROUP.MEMBERS 0 0) ++ leBytes 1 (d.get R.PLK_GROUP.TOTAL_W 0 0) ++
    leBytes 1 (b2n (d.bit R.PLK_WITNESS.HOLD 0 0) + 2 * b2n (d.bit R.PLK_SLEEP.EN 0 0)) ++ leBytes 1 p ++
    leBytes 1 (d.get R.PLK_PORT_STAT.LANE_MAP p 0) ++ leBytes 1 0xB1 ++ [0] ++ leBytes 2 (d.get R.PLK_GSTAT.REACH 0 0) ++ [0, 0]

def Dev.setPlkPort (d : Dev) (p : Nat) (f : PlkPort → PlkPort) : Dev :=
  { d with plk := { d.plk with ports := modifyAt d.plk.ports p f } }

/-- The port has been retired (R471). -/
def Dev.portGone (d : Dev) (p : Nat) : Bool := decide (64 * 0x0C + p ∈ d.cal.gone)

/-- R413: a DOWN port with EN set retrains. -/
def Dev.train (d : Dev) (p cause : Nat) : Dev :=
  if d.bit R.PLK_PORT_CFG.EN p 0 && decide (d.topo ≠ 0) && !d.portGone p then d.setPort p 1 cause else d

/-- R413, R425: port `p` goes DOWN. -/
def Dev.portDown (d : Dev) (p cause : Nat) : Dev :=
  let open_ := d.portOpen p
  let d := (d.setPort p 0 cause).setPlkPort p (fun x => { x with upSince := none, fails := 0 })
  let d := if open_ then
      let d := d.reroute true
      let to_ := ((d.neighbour d.devId p).bind d.routeNow).bind (·.head?)
      { d with cal := { d.cal with lostPorts := d.cal.lostPorts.filter (fun x => decide (x.1 ≠ p)) ++ [(p, to_)] } }
    else d
  d.train p cause

/-! ### Port commands -/

def portOk (p : Nat) : Bool := decide (p < 4)

/-- PORT_TRAINED, R414: the lanes of a training port work with the lane map. Not due in another state. -/
def execPortTrained (port : Nat) (laneMap : BitVec 4) (s : State) : Host.Outcome State Fault Refusal :=
  onDev (portOk port) (fun _ d =>
    if d.portState port = 1 then
      let d := (d.set R.PLK_PORT_STAT.LANE_MAP port 0 laneMap.toNat).setPort port 2 (d.get R.PLK_PORT_STAT.DOWN_CAUSE port 0)
      d.portSend port 1 (d.identityBytes port)
    else d) s

/-- Why a neighbour's identity frame does not bring the port UP (Table 15-8, byte 4). -/
def Dev.mismatch (d : Dev) (p : Nat) (i : Identity) : Option Nat :=
  if i.devId = d.devId then some 4
  else if d.neighbour d.devId p ≠ some i.devId then some 1
  else if i.topo ≠ d.topo ∨ i.width ≠ d.torusW ∨ i.members.toNat ≠ d.get R.PLK_GROUP.MEMBERS 0 0 ∨
      i.totalW ≠ d.get R.PLK_GROUP.TOTAL_W 0 0 then some 2
  else if i.laneMap.toNat ≠ d.get R.PLK_PORT_STAT.LANE_MAP p 0 then some 3
  else none

/-- What a member last said of itself. -/
def Dev.noteMember (d : Dev) (i : Identity) : Dev :=
  { d with plk := { d.plk with group := d.plk.group.filter (fun x => decide (x.1 ≠ i.devId)) ++ [(i.devId, i)] } }

/-- An identity frame: the neighbour's on a port in IDENT, a routed group-state message on one that is UP. -/
def Dev.identity (d : Dev) (p : Nat) (i : Identity) : Dev :=
  match d.portState p with
  | 2 =>
    (match d.mismatch p i with
     | some k =>
       let d := d.set R.PLK_PORT_STAT.DOWN_CAUSE p 0 5
       let want := match d.neighbour d.devId p with | some n => leBytes 1 n | none => [Config.undefByte d.freeIx]
       { d with freeIx := d.freeIx + 1 }.event 0 0x65 0 0 (leBytes 1 p ++ want ++ leBytes 1 i.devId ++ leBytes 1 k) 0
     | none =>
       let d := (d.setPort p 3 0).set R.PLK_PORT_STAT.NEIGHBOUR p 0 i.devId
       let d := d.setPlkPort p (fun x => { x with upSince := some d.now, neighbour := some i })
       let d : Dev := { d with cal := { d.cal with lostPorts := d.cal.lostPorts.filter (fun x => decide (x.1 ≠ p)) }
                               plk := { d.plk with healPend := true } }
       (d.noteMember i).reroute false)
  | 3 | 4 => if d.isMember i.devId && decide (i.devId ≠ d.devId) then (d.noteMember i).reroute false else d
  | _ => d

/-- IDENTITY_FRAME, R414. -/
def execIdentityFrame (port : Nat) (i : Identity) (s : State) : Host.Outcome State Fault Refusal :=
  onDev (portOk port) (fun _ d => d.identity port i) s

/-- R412: resend what is buffered from `seq` on; what lies before it has arrived. -/
def Dev.resend (d : Dev) (p seq : Nat) : Dev :=
  match d.plk.ports[p]? with
  | none => d
  | some x =>
    match x.replay with
    | [] => d
    | first :: _ =>
      let kept := x.replay.filter (fun m => decide ((seq + 4096 - first.1) % 4096 < (m.1 + flitsOf m.2.2.2.2.length + 4096 - first.1) % 4096))
      let same := decide (kept.length = x.replay.length)
      if kept.isEmpty then d
      else if same && decide (8 ≤ x.fails) then d.portDown p 2
      else
        let n := sumBy (fun (m : Nat × Nat × Nat × Nat × List Byte) => flitsOf m.2.2.2.2.length) kept
        let d := d.setPlkPort p (fun x => { x with replay := kept, fails := if same then x.fails + 1 else 1 })
        let d := (d.addSat R.PLK_PORT_STAT.REPLAYS p 0 n).count 5 2 n ⟨3, none, 0x0B, p, none, none⟩
        kept.foldl (fun d m => d.emit (.peer m.2.1 m.2.2.1 m.2.2.2.1 m.2.2.2.2)) d

/-- REPLAY_REQUEST, R412: the other end of `port` asks for the flits from `seq` on. -/
def execReplayRequest (port : Nat) (seq : BitVec 12) (s : State) : Host.Outcome State Fault Refusal :=
  onDev (portOk port) (fun _ d => if d.portState port = 3 then d.resend port seq.toNat else d) s

/-- PORT_NO_FLIT_TIMEOUT, R413: only in UP. -/
def execPortNoFlitTimeout (port : Nat) (s : State) : Host.Outcome State Fault Refusal :=
  onDev (portOk port) (fun _ d => if d.portState port = 3 then d.portDown port 1 else d) s

/-- The two active lanes of a port. -/
def Dev.laneActive (d : Dev) (p l : Nat) : Bool :=
  let m := d.get R.PLK_PORT_STAT.LANE_MAP p 0
  decide (m % 4 = l ∨ m / 4 % 4 = l)

/-- LANE_LOCK_LOSS, R413: an active lane of a port that has been trained; the next self-test shows whether the lane has a
hard fault (R463). -/
def execLaneLockLoss (port lane : Nat) (s : State) : Host.Outcome State Fault Refusal :=
  onDev (portOk port && decide (lane < 3)) (fun _ d =>
    if decide (2 ≤ d.portState port) && d.laneActive port lane then (d.suspect ⟨11, 3 * port + lane⟩).portDown port 3 else d) s

/-- GROUP_STATE_TIMER, R414: none is sent while the group sleeps. -/
def execGroupStateTimer (s : State) : Host.Outcome State Fault Refusal :=
  onDev true (fun _ d =>
    if decide (d.topo = 0) || d.bit R.PLK_GSTAT.QUIET 0 0 then d
    else (d.reached.filter (fun n => decide (n ≠ d.devId))).foldl (fun d n =>
      d.peerSend n 0 1 (d.identityBytes ((d.firstHop n).getD 0))) d) s

/-! ### Heal (R428) -/

/-- Both conditions of a heal, which follows a split or the first formation. -/
def Dev.healed (d : Dev) : Bool :=
  d.plk.healPend && decide (d.topo ≠ 0) &&
    (List.range 4).all (fun p => !d.portOpen p ||
      (match (d.plk.ports[p]?).bind (·.upSince) with | some t => decide (t + 10000000 ≤ d.now) | none => false)) &&
    (d.reached.filter (fun n => decide (n ≠ d.devId))).all (fun n =>
      d.plk.group.any (fun x => decide (x.1 = n ∧ x.2.reach.toNat = d.get R.PLK_GSTAT.REACH 0 0)))

/-- HEAL, R428. Not due before both of its conditions hold. -/
def execHeal (s : State) : Host.Outcome State Fault Refusal :=
  onDev true (fun _ d =>
    if d.healed then
      let d : Dev := { d with plk := { d.plk with healPend := false } }
      let d := d.syncWitness
      if d.quorum then d.setAuth true else d.setAuth false
    else d) s

/-! ### Remote operations at the target (R418, R422, R423) -/

/-- A peer window that grants member `m` the access. -/
def Dev.granted (d : Dev) (m x n : Nat) (wr : Bool) : Bool :=
  (List.range 32).any (fun w =>
    let base := d.get R.PLK_PWIN_BASE.DA w 0 * 65536
    d.bit R.PLK_PWIN_CFG.VALID w 0 && decide (base ≤ x ∧ x + n ≤ base + d.get R.PLK_PWIN_CFG.SIZE w 0 * 65536) &&
      bitOf (if wr then d.get R.PLK_PWIN_PEERS.WR w 0 else d.get R.PLK_PWIN_PEERS.RD w 0) m)

/-- What the acknowledgement says: kind byte, then data or the error's tier and address (DESIGN CHOICE, unsafe, log entry 26). -/
def ackBytes (a : PeerAck) : List Byte :=
  match a with
  | .done bs => 0 :: bs
  | .refused => [1]
  | .poison x => 2 :: leBytes 6 x
  | .tier f t x => [3, BitVec.ofNat 8 (b2n f), BitVec.ofNat 8 t] ++ leBytes 6 x

def ackOf (e : AccErr) : PeerAck :=
  match e with
  | .poison _ a => .poison a
  | .tier f t a => .tier f t a
  | _ => .refused

/-- The access that a memory request asks for, as an L2 access of the target. -/
def Dev.serveOp (d : Dev) (w : Who) (x : Nat) (op : PeerOp) : Dev × PeerAck :=
  match op with
  | .put bs =>
    (match d.write w x bs with
     | (d, none) => (d, .done [])
     | (d, some e) => (d, ackOf e))
  | .get n =>
    (match d.readDev w x n with
     | (d, .ok bs) => (d, .done bs)
     | (d, .error e) => (d, ackOf e))
  | .atomicAdd w64 v =>
    let n := if w64 then 8 else 4
    (match d.atomic w x n false false v.toNat with
     | (d, .ok old) => (d, .done (leBytes n old))
     | (d, .error e) => (d, ackOf e))
  | .atomicMax w64 sgn v =>
    let n := if w64 then 8 else 4
    (match d.atomic w x n true sgn v.toNat with
     | (d, .ok old) => (d, .done (leBytes n old))
     | (d, .error e) => (d, ackOf e))

/-- Bytes that an operation reaches, and whether it writes. -/
def opSpan (op : PeerOp) : Nat × Bool :=
  match op with
  | .put bs => (bs.length, true)
  | .get n => (n, false)
  | .atomicAdd w _ => (if w then 8 else 4, true)
  | .atomicMax w _ _ => (if w then 8 else 4, true)

def Dev.peerRequest (d : Dev) (src x tag : Nat) (op : PeerOp) : Dev :=
  let n := (opSpan op).1
  let aligned := match op with | .put _ | .get _ => true | _ => decide (x % n = 0)
  let r :=
    if d.isMember src && decide (src ≠ d.devId) && aligned && d.granted src x n (opSpan op).2 then
      d.serveOp (Who.device ((d.ownerOf x).getD 0) 0x0B) x op
    else (d, .refused)
  r.1.peerSend src tag 4 (ackBytes r.2)

/-- PEER_MEMORY_REQUEST, R418, R422. -/
def execPeerMemoryRequest (src off tag : Nat) (op : PeerOp) (s : State) : Host.Outcome State Fault Refusal :=
  onDev (decide (src < 16 ∧ off < 2 ^ 40 ∧ 0 < (opSpan op).1 ∧ (opSpan op).1 ≤ 65536)) (fun _ d =>
    if d.topo = 0 then d else d.peerRequest src off tag op) s

/-! ### Acknowledgements at the originator (R418, R419, R423) -/

/-- The error of an acknowledgement, its address in this device's peer space. -/
def ackErr (o : L4) (a : PeerAck) : AccErr :=
  let x (y : Nat) : Nat := 0x400000000000 + o.member * 0x10000000000 + y
  match a with
  | .poison y => .poison (tierOf y) (x y)
  | .tier f t y => .tier f t (x y)
  | _ => .blocked

/-- A successful acknowledgement. -/
def Dev.ackDone (d : Dev) (o : L4) (bs : List Byte) : Dev :=
  match o.kind with
  | 0 => d.opEnded o.run o.tag (fun _ s => s)
  | 1 =>
    (match (d.run o.run).bind (fun r => (r.taggedOp o.tag).map (fun so => (r, so))) with
     | none => d
     | some x =>
       match d.write (x.1.who 8 x.2.1.array (some x.2.1.array)) o.dst (slice bs 0 o.len) with
       | (d, none) => d.opEnded o.run o.tag (fun _ s => s)
       | (d, some e) => d.taggedFail o.run o.tag e)
  | 2 => d.opEnded o.run o.tag (fun _ s => if o.dst = 0 then s else s.setReg (o.dst - 1) (leNat (slice bs 0 o.len)))
  | 3 =>
    (match o.copy.bind (fun c => ((d.mover c.1).find? (fun x => decide (x.id = c.2))).map (fun x => (c.1, x))) with
     | some x => d.advanceCopy x.1 x.2 o.len
     | none => d)
  | _ =>
    match o.copy with
    | some c => d.landCopy c.1 c.2 o.dst (slice bs 0 o.len)
    | none => d

/-- The oldest operation to a member is acknowledged under its tag; tag 0 is that of a relay, which a refusal reports. -/
def Dev.acked (d : Dev) (tag : Nat) (a : PeerAck) : Dev :=
  match d.plk.ops.find? (fun o => decide (o.tag = tag)) with
  | none => if tag = 0 ∧ a = .refused then d.set R.PLK_GSTAT.RELAY_ERR 0 0 1 else d
  | some o =>
    if (d.plk.ops.find? (fun x => decide (x.member = o.member))).map (·.tag) ≠ some tag then d
    else
      match a with
      | .done bs => ({ d with plk := { d.plk with ops := d.plk.ops.filter (fun x => decide (x.tag ≠ tag)) } }).ackDone o bs
      | _ => d.failOp o (ackErr o a)

/-- PEER_ACKNOWLEDGEMENT, R418, R419. Not due out of order. -/
def execPeerAcknowledgement (tag : Nat) (a : PeerAck) (s : State) : Host.Outcome State Fault Refusal :=
  onDev true (fun _ d => d.acked tag a) s

/-! ### Flag relays (R424) -/

/-- A window's flag range with the sender in its WR mask holds the flag. -/
def Dev.relayGranted (d : Dev) (m flag : Nat) : Bool :=
  (List.range 32).any (fun w =>
    let first := d.get R.PLK_PWIN_FLAGS.FIRST w 0
    d.bit R.PLK_PWIN_CFG.VALID w 0 && decide (first ≤ flag ∧ flag < first + d.get R.PLK_PWIN_FLAGS.COUNT w 0) &&
      bitOf (d.get R.PLK_PWIN_PEERS.WR w 0) m)

/-- FLAG_RELAY, R424. -/
def execFlagRelay (src flag : Nat) (s : State) : Host.Outcome State Fault Refusal :=
  onDev (decide (src < 16 ∧ flag < 4096)) (fun _ d =>
    if d.topo = 0 then d
    else if d.isMember src && d.relayGranted src flag then d.writeFlag ⟨3, none, 0x0B, 0, none, none⟩ flag true
    else d.peerSend src 0 4 (ackBytes .refused)) s

/-! ### Sleep and wake (R426, R427) -/

/-- A quiet token as the message of its class: leader, lap, mark. -/
def Dev.sendToken (d : Dev) (leader : Nat) (commit veto : Bool) : Dev :=
  d.peerSend (d.nextMember d.devId) 0 8 (leBytes 1 leader ++ leBytes 1 (b2n commit + 4 * b2n veto))

/-- The lap's end or its cancellation: the next attempt waits QUIET_US. -/
def Dev.endLap (d : Dev) : Dev :=
  { d with plk := { d.plk with lap := 0, voted := false, wakeLatched := false, quietSince := none } }

/-- Every UP port goes QUIET. -/
def Dev.goQuiet (d : Dev) : Dev :=
  let d := (below 4 (fun p => decide (d.portState p = 3))).foldl (fun d p => d.setPort p 4 0) d
  (d.set R.PLK_GSTAT.QUIET 0 0 1).endLap.event 0 0x63 0 0 (leBytes 1 1 ++ leBytes 1 0) 0

/-- The last row of Table 15-6: a latched wake goes out at once. -/
def Dev.wakeNow (d : Dev) : Dev :=
  ((below 4 (fun p => decide (d.portState p = 3))).foldl (fun d p => d.portSend p 10 (leBytes 1 d.devId)) d).endLap

/-- The commit lap is over for this member. -/
def Dev.sleepOrWake (d : Dev) : Dev := if d.plk.wakeLatched then d.wakeNow else d.goQuiet

/-- QUIET_VOTE_TIMER, R426: the leader votes and sends the token. Not due before it votes quiet. -/
def execQuietVoteTimer (s : State) : Host.Outcome State Fault Refusal :=
  onDev true (fun _ d =>
    if decide (d.topo ≠ 0 ∧ d.leader = d.devId ∧ d.plk.lap = 0) && !d.bit R.PLK_GSTAT.QUIET 0 0 && d.votesQuiet then
      let d : Dev := { d with plk := { d.plk with lap := 1, voted := true, wakeLatched := false } }
      if d.nextMember d.devId = d.devId then d.goQuiet else d.sendToken d.devId false false
    else d) s

/-- A token arrives. -/
def Dev.token (d : Dev) (t : QuietTok) : Dev :=
  if t.leader = d.devId then
    if !t.commit && decide (d.plk.lap = 1) then
      if t.veto || d.plk.wakeLatched || !d.votesQuiet then d.endLap
      else ({ d with plk := { d.plk with lap := 2 } }).sendToken d.devId true false
    else if t.commit && decide (d.plk.lap = 2) then d.sleepOrWake
    else d
  else if !t.commit then
    let yes := d.votesQuiet
    ({ d with plk := { d.plk with voted := yes && !t.veto, wakeLatched := false } }).sendToken t.leader false (t.veto || !yes)
  else (d.sendToken t.leader true t.veto).sleepOrWake

/-- QUIET_TOKEN, R426. -/
def execQuietToken (t : QuietTok) (s : State) : Host.Outcome State Fault Refusal :=
  onDev (decide (t.leader < 16)) (fun _ d => if decide (d.topo = 0) || d.bit R.PLK_GSTAT.QUIET 0 0 then d else d.token t) s

/-- VETO_MESSAGE, Table 15-6: before the commit point it cancels the sleep; after it, nothing. -/
def execVetoMessage (s : State) : Host.Outcome State Fault Refusal :=
  onDev true (fun _ d => if d.leader = d.devId ∧ d.plk.lap = 1 then d.endLap else d) s

/-- WAKE_PATTERN, R427: a QUIET port's neighbour wakes the group; a member on the way to sleep latches it. -/
def execWakePattern (port : Nat) (s : State) : Host.Outcome State Fault Refusal :=
  onDev (portOk port) (fun _ d =>
    if d.portState port = 4 then
      d.wakePorts (d.get R.PLK_PORT_STAT.NEIGHBOUR port 0) ((List.range 4).filter (fun p => decide (p ≠ port)))
    else if d.portState port = 3 ∧ d.plk.voted = true then { d with plk := { d.plk with wakeLatched := true } }
    else d) s

/-- PLK_SLEEP_WAKE, R427. -/
def execPlkSleepWake (s : State) : Host.Outcome State Fault Refusal :=
  onDev true (fun _ d => if d.hostUp then d.wakeIdle.wakeRequest else d) s

end Sys2Proof.Machine
end

