-- ==== Sys2Proof/Machine/SafRows.lean ====
section
/-! DEFINITION. Functional safety's commands: compares, frames, pulses, clearance, cross-compare, device-scope conditions
(16_safety.md). -/

namespace Sys2Proof.Machine

def chanOk (c : Nat) : Bool := decide (c < 16)

/-- The safe state is latched. -/
def Dev.safeNow (d : Dev) : Bool := d.bit R.SAF_STATUS.SAFE 0 0

/-! ### The twin compare and the safe result frame (R440, R446 to R448, R458, R459) -/

/-- Flags of a frame for a compared pose; `x` says that it has been cross-compared. -/
def SafChan.flags (c : SafChan) (pose : List Byte) (x : Bool) : Nat :=
  let pf := fieldAt pose 126 1
  let void := bitOf pf 2
  let stop := decide (fieldAt pose 124 1 < c.confMin) || void || (c.degraded && !c.degradeOk)
  b2n stop + 4 * b2n (bitOf pf 0) + 8 * b2n c.degraded + 16 * b2n void + 32 * b2n x

/-- Staleness bound of copy A's entry (R265). -/
def Dev.chanStale (d : Dev) (e : Entry) : Nat :=
  match e.track.bind d.track with
  | some k => (((k.bounds.find? (fun b => decide (b.1 = e.slot))).map (fun b => b.2.2.1))).getD 0
  | none => 0

/-- The frame of a compared pose, with the SEQ that the channel now stands at. -/
def Dev.poseFrame (d : Dev) (c : SafChan) (e : Entry) (k : Nat) (pose : List Byte) (x : Bool) : List Byte :=
  let tb := match e.track.bind d.track with | some t => t.tb | none => 0
  frameOf c (SMap.read 0 d.saf.seqs c.num) (c.flags pose x) 0 tb d.frameDev (fieldAt pose 0 8) (slice pose 8 120) (d.chanStale e)
    (e.prom k)

/-- R458: bytes 16 to 151 of a frame. -/
def xBytes (f : List Byte) : List Byte := slice f 16 136

/-- A frame that has passed both compares carries XCMP; SEQ and CRC are those of its sending. -/
def Dev.sendCompared (d : Dev) (c : SafChan) (f : List Byte) (x : Bool) : Dev :=
  let flags := fieldAt f 12 1 + (if x then 32 else 0)
  let b := putSlice (putSlice (slice f 0 252) 4 (leBytes 4 (SMap.read 0 d.saf.seqs c.num))) 12 (leBytes 1 flags)
  d.sendFrame c flags (fieldAt f 124 1) (b ++ leBytes 4 (crc32c b))

/-- R459: outputs in which both devices exchanged t_o, while a channel is degraded; 16 in a row end that. -/
def Dev.countGood (d : Dev) (c : SafChan) (prom : Nat) : Dev :=
  if !(c.xcmp && c.degraded) then d
  else
    let n := if (c.partnerTo.lookup prom).isSome && d.reaches c.peer then c.good + 1 else 0
    if n < 16 then d.setChan c.num (fun c => { c with good := n })
    else
      (d.setChan c.num (fun c => { c with good := 0, degraded := false })).eventAll d.safeCtxs 0x69 0 0
        (leBytes 1 c.num ++ [0] ++ leBytes 1 c.peer) 0

/-- R458: the two devices' bytes for one output are both here. -/
def Dev.crossCompare (d : Dev) (c : SafChan) (f theirs : List Byte) : Dev :=
  let d := d.setChan c.num (fun c => { c with waiting := none })
  if xBytes f = slice theirs 0 136 then d.sendCompared c f true else d.dangerous 0xB c.num 0 false none

/-- The records of run `k` of both copies are visible. -/
def Dev.comparePoses (d : Dev) (c : SafChan) (e : Entry) (k : Nat) (a b : List Byte) : Dev :=
  let d := d.setChan c.num (fun c => { c with poseA := none, poseB := none })
  if slice a 0 128 ≠ slice b 0 128 then d.dangerous 1 c.num 0 false none
  else
    let f := d.poseFrame c e k a false
    let prom := e.prom k
    if c.xcmp && !c.degraded then
      let d := d.wakeSend c.peer c.num 9 (leBytes 8 prom ++ xBytes f)
      match c.partnerBytes.lookup prom with
      | some t => d.crossCompare c f t
      | none => d.setChan c.num (fun c => { c with waiting := some (prom, (c.toA.map (·.2)).getD prom, f) })
    else (d.sendCompared c f false).countGood c prom

/-- TWIN_POSE_COMPARE, R440. Not due before both copies' records of one run are visible. -/
def execTwinPoseCompare (channel : Nat) (s : State) : Host.Outcome State Fault Refusal :=
  onDev (chanOk channel) (fun _ d =>
    match d.chan channel with
    | some c =>
      (match c.poseA, c.poseB, d.chanEntry c 0 with
       | some a, some b, some e => if a.1 = b.1 ∧ d.safeNow = false then d.comparePoses c e a.1 a.2 b.2 else d
       | _, _, _ => d)
    | none => d) s

/-- SAFE_STATE_RELEASE_FRAME, R451: a nominal release of a channel in the safe state. -/
def execSafeStateReleaseFrame (channel : Nat) (s : State) : Host.Outcome State Fault Refusal :=
  onDev (chanOk channel) (fun _ d =>
    match d.chan channel with
    | some c => if d.safeNow then d.stopFrame c else d
    | none => d) s

/-- XCMP_PARTNER_TIMEOUT, R458. Not due before 100 µs after t_o, nor without a frame that waits. -/
def execXcmpPartnerTimeout (channel : Nat) (s : State) : Host.Outcome State Fault Refusal :=
  onDev (chanOk channel) (fun _ d =>
    match d.chan channel with
    | some c =>
      (match c.waiting with
       | some w =>
         if w.2.1 + 100000 ≤ d.schedNow (d.safePart.getD 0) then
           (d.setChan channel (fun c => { c with waiting := none })).dangerous 0xC channel 0 false none
         else d
       | none => d)
    | none => d) s

/-- The landing descriptor of the ring that receives a mirrored stream of a channel (Table 16-2, MIRROR). -/
def SafChan.mirrorIn (c : SafChan) (stream : Nat) : Option Nat :=
  ((List.range 5).find? (fun m => decide (fieldAt c.blk (48 + 16 * m) 2 = stream ∧ fieldAt c.blk (50 + 16 * m) 1 = 1))).map
    (fun m => fieldAt c.blk (56 + 16 * m) 8)

/-- R457: a mirrored slot lands in this device's ring and its ready flag is set, where the two landing descriptors agree
as far as the slot shows them (DEDUCED, unsafe, log entry 34). -/
def Dev.landMirror (d : Dev) (c : SafChan) (stream slot : Nat) (bs : List Byte) : Dev :=
  match c.mirrorIn stream with
  | none => d
  | some da =>
    let ld := d.mem.bytes da 64
    let stride := if isImage (ldFormat ld) then ldStride ld else 0
    if fieldAt bs 2 2 = ldFormat ld ∧ bs.length = ldSlotBytes ld ∧ slot < ldSlots ld ∧ fieldAt bs 28 4 = stride then
      let p := d.safePart.getD 0
      (d.write (Who.device p 3) (ldBase ld + slot * ldSlotBytes ld) bs).1.writeFlag (flagOcc p) (ldReady ld + slot) true
    else
      let d := d.setChan c.num (fun c => { c with degraded := true, good := 0 })
      if c.degraded then d else d.eventAll d.safeCtxs 0x69 0 0 (leBytes 1 c.num ++ [1] ++ leBytes 1 c.peer) 0

/-- The last exchanges of a channel that are kept. -/
def keepNew {α : Type} (l : List (Nat × α)) (prom : Nat) (x : α) : List (Nat × α) :=
  ((prom, x) :: l.filter (fun y => decide (y.1 ≠ prom))).take 16

/-- A CLASS 9 message from member `src`. -/
def Dev.safetyMsg (d : Dev) (src : Nat) (m : SafetyMsg) : Dev :=
  let mine (n : Nat) : Option SafChan := (d.chan n).bind (fun c => if c.xcmp && decide (c.peer = src) then some c else none)
  match m with
  | .outTime n prom t =>
    (match mine n with
     | some _ => d.setChan n (fun c => { c with partnerTo := keepNew c.partnerTo prom.toNat t.toNat })
     | none => d)
  | .frameBytes n prom bs =>
    (match mine n with
     | some c =>
       (match c.waiting with
        | some w => if w.1 = prom.toNat ∧ d.safeNow = false then d.crossCompare c w.2.2 bs
                    else d.setChan n (fun c => { c with partnerBytes := keepNew c.partnerBytes prom.toNat bs })
        | none => d.setChan n (fun c => { c with partnerBytes := keepNew c.partnerBytes prom.toNat bs }))
     | none => d)
  | .mirrorSlot stream slot bs =>
    (match d.saf.chans.find? (fun c => c.xcmp && decide (c.peer = src) && (c.mirrorIn stream).isSome) with
     | some c => d.landMirror c stream slot bs
     | none => d)
  | .consumed stream slot =>
    { d with saf := { d.saf with chans := d.saf.chans.map (fun c =>
        if c.xcmp && decide (c.peer = src) then { c with mirrored := c.mirrored.filter (fun x => decide (x ≠ (stream, slot))) } else c) } }

/-- SAFETY_FLIT, R457, R458. -/
def execSafetyFlit (src : Nat) (m : SafetyMsg) (s : State) : Host.Outcome State Fault Refusal :=
  onDev (decide (src < 16)) (fun _ d => if d.topo = 0 then d else d.safetyMsg src m) s

/-! ### Pulses (R445, R537) -/

/-- Operational, and nothing keeps the pulses off. -/
def Dev.pulsing (d : Dev) : Bool :=
  d.safePart.isSome && d.bit R.SAF_STATUS.OPER 0 0 && !d.safeNow && !d.bit R.SAF_STATUS.CLR_BUSY 0 0

/-- The pulses start at the next 100 µs boundary of the reference clock (R455). -/
def Dev.armPulses (d : Dev) : Dev := { d with saf := { d.saf with driving := false, nextEdge := (d.now / 100000 + 1) * 100000 } }

/-- SAFE_PULSE_EDGE, R445. Not due before the next half period. -/
def execSafePulseEdge (s : State) : Host.Outcome State Fault Refusal :=
  onDev true (fun _ d =>
    if d.pulsing && decide (d.saf.nextEdge ≤ d.now) then
      let v := !d.saf.level
      ({ d with saf := { d.saf with level := v, driving := true, nextEdge := d.saf.nextEdge + 50000 } }.set
        R.SAF_STATUS.PULSE 0 0 1).emit (.safePins v)
    else d) s

/-- SAFE_READBACK_CHECK, R537: the levels read back from SAFE_A and SAFE_B. Not due before 1 µs after an edge. -/
def execSafeReadbackCheck (a b : Bool) (s : State) : Host.Outcome State Fault Refusal :=
  onDev true (fun _ d =>
    if d.saf.driving && decide (d.saf.nextEdge ≤ d.now + 49000) && decide (a ≠ d.saf.level ∨ b = d.saf.level) then
      d.dangerous 0xD 0 0 false none
    else d) s

/-! ### Clearance (R454, R455) -/

def Dev.setClr (d : Dev) (f : ClrSeq → ClrSeq) : Dev := { d with saf := { d.saf with clr := f d.saf.clr } }

def ms (n : Nat) : Nat := n * 1000000

/-- A length of time within bounds in milliseconds. -/
def Dev.lasted (d : Dev) (t : Option Nat) (lo hi : Nat) : Bool :=
  match t with
  | some x => decide (x + ms lo ≤ d.now ∧ d.now ≤ x + ms hi)
  | none => false

def Dev.ignoreClr (d : Dev) : Dev := (d.setClr (fun c => { c with first := false })).set R.SAF_STATUS.CLR_IGNORED 0 0 1

/-- An edge of SAFE_CLR. -/
def Dev.clrEdge (d : Dev) (rising : Bool) : Dev :=
  let c := d.saf.clr
  if c.level = rising then d
  else if rising then
    let d := if c.first && !d.lasted c.fall 5 100 then d.ignoreClr else d
    d.setClr (fun c => { c with level := true, rise := some d.now })
  else
    let ok := d.lasted c.rise 5 50
    let d := d.setClr (fun c => { c with level := false, fall := some d.now })
    if !ok then d.ignoreClr
    else if !c.first then d.setClr (fun c => { c with first := true })
    else if d.bit R.SAF_STATUS.CLR_BUSY 0 0 then d.setClr (fun c => { c with first := false })
    else if !d.safeNow || !d.bit R.SAF_STATUS.OPER 0 0 then d.ignoreClr
    else
      let d := d.setClr (fun c => { c with first := false })
      { d with saf := { d.saf with testBad := false } }.set R.SAF_STATUS.CLR_BUSY 0 0 1

/-- SAFE_CLR_EDGE, R454. -/
def execSafeClrEdge (rising : Bool) (s : State) : Host.Outcome State Fault Refusal :=
  onDev true (fun _ d => if d.pwr.porN then d.clrEdge rising else d) s

/-- Admit the entries of one almanac record at boot or clearance (R434, R542): false where that fails. -/
def Dev.bootAdmit (d : Dev) (x : Nat × Nat) (tb : Nat) : Dev × Bool :=
  match d.wb x.1 with
  | none => (d, false)
  | some w =>
    if d.bit R.TB_CFG.EN (d.schedTb w.part) 0 = false ∨ w.almanac.length ≤ x.2 ∨ ((d.channelOf w.slot x.2).map (·.2)) = some 1 ∨
        (w.orbit ≠ 0 ∧ (w.orbit ≠ (d.pcal w.part).orbit ∨ w.phases ≠ (d.pcal w.part).phases)) then (d, false)
    else
      let es := d.candidates w x.2 none 0
      if es.isEmpty || (d.admitFails w.part es).isSome then (d, false) else (d.placeEntries w es tb, true)

/-- Boot entries in their order, up to one that fails. -/
def Dev.bootAdmitAll (d : Dev) (xs : List (Nat × Nat)) (tb : Nat → Nat) : Dev × Bool :=
  match xs with
  | [] => (d, true)
  | x :: rest =>
    match d.bootAdmit x (tb x.1) with
    | (e, true) => e.bootAdmitAll rest tb
    | (e, false) => (e, false)

/-- The tracks of the safety channels. -/
def Dev.safeTracks (d : Dev) : List Nat :=
  dedup (d.saf.chans.flatMap (fun c => [fieldAt c.blk 4 1, fieldAt c.blk 5 1]))

/-- Time base that a workbook's tracks were admitted on. -/
def Dev.wbTb (d : Dev) (wb : Nat) : Nat := ((d.tracks.find? (fun k => decide (k.wb = wb))).map (·.tb)).getD 0

/-- R452: after clearance the other partitions are left as after a device purge. -/
def Dev.afterDevSafe (d : Dev) : Dev :=
  d.purgeable.foldl (fun d k => d.endPurge k) (d.purgeable.foldl (fun d k => d.beginPurge k 3) d)

/-- R455: the safe state is left. -/
def Dev.clearSafe (d : Dev) : Dev :=
  let cause := d.get R.SAF_STATUS.CAUSE 0 0
  let dev := d.bit R.SAF_STATUS.DEV_SAFE 0 0
  let d := (((d.set R.SAF_STATUS.CAUSE 0 0 0).set R.SAF_STATUS.DEV_SAFE 0 0 0).set R.SAF_STATUS.SAFE 0 0 0).set R.SAF_STATUS.FAULTS 0 0 0
  let d := d.eventAll d.safeCtxs 0x68 0 0 (leBytes 1 cause ++ leBytes 1 (b2n dev)) 0
  let d := if dev then d.afterDevSafe else d
  let d := d.safeTracks.foldl (fun d t => d.acquire t) d
  let d := d.saf.chans.foldl (fun d c => d.setChan c.num (fun c => { c with
    toA := none, toB := none, poseA := none, poseB := none, partnerTo := [], partnerBytes := [], waiting := none })) d
  match d.bootAdmitAll d.saf.bootEntries d.wbTb with
  | (d, true) => d.armPulses
  | (d, false) => d.dangerous 0xA 0 0 false none

/-- CLEARANCE_TEST_DONE, R455. Not due without a clearance self-test. -/
def execClearanceTestDone (passed : Bool) (s : State) : Host.Outcome State Fault Refusal :=
  onDev true (fun _ d =>
    if d.bit R.SAF_STATUS.CLR_BUSY 0 0 then
      let good := passed && !d.saf.testBad
      let d := d.set R.SAF_STATUS.CLR_BUSY 0 0 0
      if good then d.clearSafe else (d.set R.SAF_STATUS.CLR_FAIL 0 0 1).dangerous 9 0 0 false none
    else d) s

/-! ### Device-scope conditions (Table 16-3) -/

/-- SUPPLY_OUT_OF_RANGE, cause 0x0F. -/
def execSupplyOutOfRange (_c : OutOfRange) (s : State) : Host.Outcome State Fault Refusal :=
  onDev true (fun _ d => if d.pwr.porN then d.dangerous 0xF 0 0 true none else d) s

/-- SAF_LOCKSTEP_MISMATCH, cause 0x0E. -/
def execSafLockstepMismatch (s : State) : Host.Outcome State Fault Refusal :=
  onDev true (fun _ d => if d.pwr.porN then d.dangerous 0xE 0 0 true none else d) s

end Sys2Proof.Machine
end

