-- ==== Sys2Proof/Machine/SprRows.lean ====
section
/-! DEFINITION. Wear, sparing and retirement (R461 to R471, R443, R444). -/

namespace Sys2Proof.Machine

/-! ### Islands (Table 01-2; DEDUCED, unsafe, log entry 35) -/

/-- One of the 225 self-timed islands: 34 columns per array, VXUs and SEQs, solver islands, vision engines, FTE islands,
walkers, movers and fabric islands. -/
def islandOk (i : Island) : Bool :=
  match i.blk with
  | 8 => decide (i.unit < 144)
  | 9 => decide (i.unit < 17)
  | 5 => decide (i.unit < 28)
  | 6 => decide (i.unit < 4)
  | 10 => decide (i.unit < 8)
  | 7 => decide (i.unit < 24)
  | _ => false

/-- An island, a solver core (32 + its number in block 9) or a peer lane (3 × port + lane in block 11). -/
def siteOk (i : Island) : Bool :=
  islandOk i || decide (i.blk = 9 ∧ 32 ≤ i.unit ∧ i.unit < 288) || decide (i.blk = 11 ∧ i.unit < 12)

/-- Resource ID of vision engine `u`, numbered through the kinds. -/
def visionRes (u : Nat) : Nat :=
  if u < 8 then 0xC0 + u
  else if u < 12 then 0x100 + (u - 8)
  else if u < 20 then 0x140 + (u - 12)
  else if u < 24 then 0x180 + (u - 20)
  else 0x1C0 + (u - 24)

def arraySlices (a : Nat) : List Nat := (List.range 4).map (fun s => 0x40 + 4 * a + s)

/-- Resource IDs whose work needs the unit; none for a fabric island. -/
def Dev.islandRes (d : Dev) (i : Island) : List Nat :=
  let u := i.unit
  match i.blk with
  | 8 =>
    if u < 136 then [0x40 + 4 * (u / 34) + d.columnSlice (u / 34) (u % 34)]
    else arraySlices ((u - 136) % 4)
  | 9 => if u < 16 then [0x80 + u] else if 32 ≤ u then [0x80 + (u - 32) / 16] else []
  | 5 => [visionRes u]
  | 6 => [0x200 + u]
  | 10 => [0x240 + u]
  | 7 => if u < 16 then [0x280 + u] else []
  | 11 => [64 * 0x0C + u / 3]
  | _ => []

/-- Bytes of T1 behind a fabric island: 16 banks, two regions of 6 MiB. -/
def fabricBytes : Nat := 12 * mib

/-- Partitions that hold the unit. -/
def Dev.islandParts (d : Dev) (i : Island) : List Nat :=
  if i.blk = 7 ∧ 16 ≤ i.unit then
    let b := (i.unit - 16) * fabricBytes
    let n := t1Size / d.parts
    (List.range d.parts).filter (fun p => decide (p * n < b + fabricBytes ∧ b < (p + 1) * n))
  else if i.blk = 11 ∨ (i.blk = 9 ∧ i.unit = 16) then List.range d.parts
  else dedup ((d.islandRes i).filterMap d.resPart)

def Dev.islandPart (d : Dev) (i : Island) : Nat := (d.islandParts i).headD 0

/-- The run's job has work on the unit. -/
def Dev.usesIsland (d : Dev) (r : Run) (i : Island) : Bool :=
  if (d.islandRes i).isEmpty then decide (r.part ∈ d.islandParts i)
  else (d.costOf r.wb r.job).recs.any (fun x => decide (x.res ∈ d.islandRes i))

/-! ### Pools (Table 17-1) -/

/-- Size of a pool instance; the DRAM stacks report theirs at boot. -/
def Dev.poolSize (_d : Dev) (pool inst : Nat) : Nat :=
  match pool with
  | 1 => 2
  | 2 => 16
  | 3 | 5 => 4
  | 4 => 2
  | 6 => 4
  | 7 => 1
  | 8 => (Config.dramSpares inst).toNat
  | 9 => 256
  | 10 => 32
  | _ => 0

/-- R464: spares in service or retired. -/
def spareUse (nv : NonVol) (pool inst : Nat) : Nat :=
  if pool = 10 then nv.fuseRows
  else (dedup ((nv.spareMap.filter (fun r => decide (r.pool = pool ∧ r.inst = inst))).filterMap (·.spare))).length

/-- A spare that no request has taken. -/
def Dev.spareFree (nv : NonVol) (d : Dev) (pool inst sp : Nat) : Bool :=
  !nv.spareMap.any (fun r => decide (r.pool = pool ∧ r.inst = inst ∧ r.spare = some sp)) &&
  !d.spr.queue.any (fun e => decide (e.pool = pool ∧ e.inst = inst ∧ e.spare = some sp))

/-- Number of the unit that spare `sp` is itself: column 32 + sp, core 256 + sp, lane 2; none in the other pools. -/
def selfUnit (pool sp : Nat) : Option Nat :=
  match pool with
  | 1 => some (32 + sp)
  | 2 => some (256 + sp)
  | 7 => some 2
  | _ => none

/-- R466: the lowest-numbered free spare; an idle spare that fails takes itself (DEDUCED, unsafe, log entry 35). -/
def Dev.takeSpare (nv : NonVol) (d : Dev) (pool inst unit : Nat) : Option Nat :=
  let frees := (List.range (d.poolSize pool inst)).filter (fun sp => d.spareFree nv pool inst sp)
  match frees.find? (fun sp => decide (selfUnit pool sp = some unit)) with
  | some sp => some sp
  | none => frees.head?

/-- Steps of an eclipse (Table 17-1, R467). -/
def eclipseSteps (pool : Nat) : Nat :=
  match pool with
  | 4 => 6
  | 6 => 12
  | _ => 1

/-- SPR_POOL.USED and the pool's size; row pools have no register. -/
def Dev.syncPool (nv : NonVol) (d : Dev) (pool inst : Nat) : Dev :=
  if pool ∈ [1, 2, 4, 6, 7, 8, 9, 10] ∧ inst < 16 then
    (d.set R.SPR_POOL.SIZE pool inst (d.poolSize pool inst)).set R.SPR_POOL.USED pool inst (spareUse nv pool inst)
  else d

/-! ### What a substitution or retirement does -/

/-- TA_SLICE_STAT.WIDTH: columns in service and not fenced (R352, R463). -/
def Dev.syncWidths (d : Dev) (a : Nat) : Dev :=
  (List.range 4).foldl (fun d s =>
    let w := (List.range 34).filter (fun j =>
      decide ((d.get R.TA_COL_STAT.ROLE a j = 0 ∨ d.get R.TA_COL_STAT.ROLE a j = 2) ∧ d.columnSlice a j = s) &&
        !d.isFenced 8 (34 * a + j))
    d.set R.TA_SLICE_STAT.WIDTH a s w.length) d

/-- R76: unit `u` keeps `w` of `full`; with none left it is gone. -/
def Dev.narrow (d : Dev) (u w full : Nat) : Dev :=
  if w = 0 then { d with cal := { d.cal with gone := dedup (d.cal.gone ++ [u]) } }
  else { d with cal := { d.cal with narrowed := d.cal.narrowed.filter (fun x => decide (x.1 ≠ u)) ++ [(u, w, full)] } }

def Dev.retireRange (d : Dev) (rs : List (Nat × Nat)) : Dev := { d with mem := { d.mem with retired := d.mem.retired ++ rs } }

/-- Bank of a T0 row: 64 banks of 384 KiB per array. -/
def t0Bank (x : Nat) : Nat := x % 0x2000000 / 0x60000

/-- Bank of a T1 row: 8 banks in each region of 6 MiB, by offset bits 9 to 7. -/
def t1Bank (x : Nat) : Nat := 8 * ((x - 0x10000000) / (6 * mib)) + x / 128 % 8

/-- The rows of T1 bank `b`. -/
def t1BankRanges (b : Nat) : List (Nat × Nat) :=
  (List.range 6144).map (fun k => (0x10000000 + b / 8 * (6 * mib) + 1024 * k + 128 * (b % 8), 128))

/-- R470, R471, R352, R300: a unit leaves service for good. -/
def Dev.retireUnit (nv : NonVol) (d : Dev) (pool inst unit : Nat) : Dev :=
  match pool with
  | 1 =>
    let s := d.columnSlice inst unit
    let d := (d.set R.TA_COL_STAT.ROLE inst unit 3).syncWidths inst
    d.narrow (0x40 + 4 * inst + s) (d.get R.TA_SLICE_STAT.WIDTH inst s) 8
  | 2 =>
    let g := unit / 16
    let lost := (lostCores nv).filter (fun c => decide (c / 16 = g))
    let quads := ((List.range 4).filter (fun q => !lost.any (fun c => decide (c % 16 / 4 = q)))).length
    let d := (d.set R.SLX_GROUP_STAT.CORES g 0 (16 - (dedup lost).length)).set R.SLX_GROUP_STAT.QUADS g 0 quads
    d.narrow (0x80 + g) quads 4
  | 4 => d.retireRange [(inst * 0x2000000 + unit * 0x60000, 0x60000)]
  | 6 => d.retireRange (t1BankRanges unit)
  | 7 => d.narrow (64 * 0x0C + inst) 0 1
  | 8 => d.retireRange [(unit, 65536)]
  | 0 =>
    if inst = 7 ∧ 16 ≤ unit then d.retireRange [(0x10000000 + (unit - 16) * fabricBytes, fabricBytes)]
    else (d.islandRes ⟨inst, unit⟩).foldl (fun d u => d.narrow u 0 1) d
  | _ => d

/-- R466: spare `sp` takes the place of a unit. -/
def Dev.placeSpare (nv : NonVol) (d : Dev) (pool inst unit sp : Nat) : Dev :=
  match pool with
  | 1 =>
    let d := if unit = 32 + sp then d
      else (d.set R.TA_COL_STAT.LOGICAL inst (32 + sp) (d.get R.TA_COL_STAT.LOGICAL inst unit)).set R.TA_COL_STAT.ROLE inst (32 + sp) 2
    ((d.set R.TA_COL_STAT.ROLE inst unit 3).syncWidths inst).set R.TA_STATUS.SPARES_FREE inst 0 (2 - spareUse nv 1 inst)
  | 7 =>
    if unit = 2 then d.set R.PLK_PORT_STAT.SPARE_USED inst 0 1
    else (d.set R.PLK_PORT_STAT.SPARE_USED inst 0 1).set R.PLK_PORT_STAT.LANE_MAP inst 0
      (let m := d.get R.PLK_PORT_STAT.LANE_MAP inst 0
       if unit = 0 then m / 4 * 4 + 2 else m % 4 + 8)
  | 3 | 5 | 8 => { d with spr := { d.spr with rowCe := SMap.write 0 d.spr.rowCe unit 0 } }
  | _ => d

/-- Effect of a record of the spare map. -/
def Dev.applyRec (nv : NonVol) (d : Dev) (r : SpareRec) : Dev :=
  match r.spare with
  | some sp => d.placeSpare nv r.pool r.inst r.unit sp
  | none => d.retireUnit nv r.pool r.inst r.unit

/-- The island, core or lane that a request of pools 1, 2 and 7 replaces. -/
def fencedUnit (pool inst unit : Nat) : Option Island :=
  match pool with
  | 0 => some ⟨inst, unit⟩
  | 1 => some ⟨8, 34 * inst + unit⟩
  | 2 => some ⟨9, 32 + unit⟩
  | 7 => some ⟨11, 3 * inst + unit⟩
  | _ => none

def Dev.unfence (d : Dev) (pool inst unit : Nat) : Dev :=
  { d with spr := { d.spr with fenced := d.spr.fenced.filter (fun i => decide (fencedUnit pool inst unit ≠ some i)) } }.syncSpr

/-- UNIT of a spare-class record (Table 17-3): the column, core or port, or the instance. -/
def spareUnit (pool inst unit : Nat) : Nat :=
  match pool with
  | 1 => 34 * inst + unit
  | 2 | 0 => unit
  | _ => inst

def Dev.spareAnnal (d : Dev) (pool inst unit part : Nat) : Dev :=
  d.annal 3 pool 0x0D (annUnit part (spareUnit pool inst unit)) (leBytes 8 unit)

def warnLevels : List Nat := [50, 90, 100]

/-- Levels of R469 that a pool instance has reached. -/
def Dev.reachedLevels (nv : NonVol) (d : Dev) (pool inst : Nat) : List Nat :=
  warnLevels.filter (fun l => decide (0 < d.poolSize pool inst ∧ l * d.poolSize pool inst ≤ 100 * spareUse nv pool inst))

/-- R469: SPARE_WARN at levels reached for the first time. -/
def Dev.spareWarn (nv : NonVol) (d : Dev) (pool inst : Nat) : Dev :=
  (d.reachedLevels nv pool inst).foldl (fun d l =>
    if (pool, inst, l) ∈ d.spr.warned then d
    else
      let d : Dev := { d with spr := { d.spr with warned := d.spr.warned ++ [(pool, inst, l)] } }
      let used := spareUse nv pool inst
      let size := d.poolSize pool inst
      let d := (d.set R.SPR_STATUS.WARN 0 0 1).annal 3 pool 0x0D (annUnit 0 inst) (leBytes 1 (100 * used / size) ++ leBytes 1 (size - used))
      d.event 0 0x07 0 0 (leBytes 1 pool ++ leBytes 2 inst ++ leBytes 1 (100 * used / size) ++ leBytes 1 (size - used)) 0) d

/-- Partitions that a retirement concerns (R72). -/
def Dev.retireParts (d : Dev) (pool inst unit : Nat) : List Nat :=
  match pool with
  | 4 => (d.ownerOf (inst * 0x2000000 + unit * 0x60000)).toList
  | 6 => (d.ownerOf (0x10000000 + unit / 8 * (6 * mib))).toList
  | 8 => (d.ownerOf unit).toList
  | _ => (match fencedUnit pool inst unit with | some i => d.islandParts i | none => [])

/-- R470: retire a unit. -/
def retire (nv : NonVol) (d : Dev) (pool inst unit : Nat) : NonVol × Dev :=
  let ps := d.retireParts pool inst unit
  let nv : NonVol := { nv with spareMap := nv.spareMap ++ [⟨pool, inst, unit, none⟩] }
  let d := (d.unfence pool inst unit).retireUnit nv pool inst unit
  let d := if pool = 7 then (d.unfence pool inst unit).portDown inst 3 else d
  let d := (d.set R.SPR_STATUS.RETIRED 0 0 1).spareAnnal pool inst unit (ps.headD 0)
  let d := d.event 0 0x71 0 0 (leBytes 1 pool ++ leBytes 2 (if pool = 0 then unit else inst)) 0
  let d := ps.foldl (fun d p => d.hardMinimum p) d
  (nv, if ps.isEmpty then d else d.beginReadmit ps 2)

/-- R463: a unit has a hard fault: it is fenced, and its eclipse is requested or, without a pool, it is retired. -/
def hardFault (nv : NonVol) (d : Dev) (i : Island) : NonVol × Dev :=
  if decide (i ∈ d.spr.fenced) || (decide (i.blk = 8 ∧ i.unit < 136) && decide (d.get R.TA_COL_STAT.ROLE (i.unit / 34) (i.unit % 34) = 3)) ||
      nv.spareMap.any (fun r => r.spare.isNone && decide (fencedUnit r.pool r.inst r.unit = some i)) then (nv, d)
  else
    let part := d.islandPart i
    let fence (d : Dev) (x : Island) : Dev := { d with spr := { d.spr with fenced := d.spr.fenced ++ [x] } }.syncSpr
    let d : Dev := { d with spr := { d.spr with below := d.spr.below.filter (fun x => decide (x.1 ≠ i)) } }
    if i.blk = 8 ∧ i.unit < 136 then
      (nv, ((fence d i).syncWidths (i.unit / 34)).requestEclipse 1 (i.unit / 34) (i.unit % 34) true part)
    else if i.blk = 9 then
      let cores :=
        if i.unit < 16 then ((List.range 16).map (fun k => 16 * i.unit + k)).filter (fun c =>
          !nv.spareMap.any (fun r => decide (r.pool = 2 ∧ r.unit = c)))
        else if i.unit = 16 then
          ((List.range 16).filter (fun sp => d.spareFree nv 2 0 sp)).map (fun sp => 256 + sp) ++
            dedup (((nv.spareMap.filter (fun r => decide (r.pool = 2 ∧ r.unit < 256) && r.spare.isSome)).map (·.unit)).filter
              (fun c => decide (c ∉ lostCores nv)))
        else [i.unit - 32]
      (nv, cores.foldl (fun d c =>
        (if c < 256 then fence d ⟨9, 32 + c⟩ else d).requestEclipse 2 0 c true ((d.resPart (0x80 + c / 16)).getD 0)) d)
    else if i.blk = 11 then
      (nv, ((fence d i).requestEclipse 7 (i.unit / 3) (i.unit % 3) true 0).portDown (i.unit / 3) 3)
    else retire nv d 0 i.blk i.unit

def hardFaults (nv : NonVol) (d : Dev) (is : List Island) : NonVol × Dev :=
  is.foldl (fun x i => hardFault x.1 x.2 i) (nv, d)

/-! ### Eclipse (R465 to R469) -/

/-- An eclipse leaves the queue. -/
def Dev.dropEclipse (d : Dev) (e : Eclipse) : Dev :=
  { d with
    spr := { d.spr with queue := d.spr.queue.filter (fun x => decide (x.id ≠ e.id)) }
    cal := { d.cal with maint := d.cal.maint.filter (fun m => decide (m.kind ≠ MaintKind.eclipse e.id)) } }.syncSpr

/-- The last step of an eclipse has ended with spare `sp`. -/
def eclipseDone (nv : NonVol) (d : Dev) (e : Eclipse) (sp : Nat) : NonVol × Dev :=
  let nv : NonVol := { nv with spareMap := nv.spareMap ++ [⟨e.pool, e.inst, e.unit, some sp⟩] }
  let d := ((d.dropEclipse e).unfence e.pool e.inst e.unit).placeSpare nv e.pool e.inst e.unit sp
  let d := (d.syncPool nv e.pool e.inst).spareAnnal e.pool e.inst e.unit e.part
  let d := if e.pool = 7 then d.event 0 0x64 0 0 (leBytes 1 e.inst ++ leBytes 1 e.unit ++ leBytes 1 (b2n e.hard)) 0 else d
  (nv, d.spareWarn nv e.pool e.inst)

/-- A request finds its pool empty: the bank of a row is eclipsed, anything else is retired. -/
def eclipseEmpty (nv : NonVol) (d : Dev) (e : Eclipse) : NonVol × Dev :=
  let d := d.dropEclipse e
  match e.pool with
  | 3 => (nv, d.requestEclipse 4 (e.unit / 0x2000000) (t0Bank e.unit) true e.part)
  | 5 => (nv, d.requestEclipse 6 0 (t1Bank e.unit) true e.part)
  | _ => retire nv d e.pool e.inst e.unit

def eclipseStep (nv : NonVol) (d : Dev) (p : Nat) : NonVol × Dev :=
  match (d.nextMaint p).map (·.kind) with
  | some (MaintKind.eclipse id) =>
    match d.spr.queue.find? (fun e => decide (e.id = id)) with
    | none => (nv, d)
    | some e =>
      match e.spare.orElse (fun _ => d.takeSpare nv e.pool e.inst e.unit) with
      | none => eclipseEmpty nv d e
      | some sp =>
        if eclipseSteps e.pool ≤ e.done + 1 then eclipseDone nv d e sp
        else (nv, { d with spr := { d.spr with queue := d.spr.queue.map (fun x =>
          if x.id = id then { x with done := x.done + 1, spare := some sp } else x) } })
  | _ => (nv, d)

/-- ECLIPSE_STEP, R465. Not due while another item comes first in the reserve. -/
def execEclipseStep (part : Nat) (s : State) : Host.Outcome State Fault Refusal :=
  onBoth (decide (part < 16)) (fun x => if part < x.2.parts then eclipseStep x.1 x.2 part else x) s

/-! ### Rate monitors and canaries (R17, R443, R461 to R463) -/

/-- R17: a reading below the floor makes the work on the island late. -/
def Dev.belowFloor (d : Dev) (i : Island) : Dev :=
  let d := (d.runs.filter (fun r => r.started.isSome && d.usesIsland r i)).foldl (fun d r => d.setRun r.id (fun x => x.addCause 2)) d
  if d.spr.below.any (fun x => decide (x.1 = i)) then d
  else { d with spr := { d.spr with below := d.spr.below ++ [(i, d.now)] } }

/-- RATE_MONITOR_BELOW_FLOOR, R17. -/
def execRateMonitorBelowFloor (i : Island) (s : State) : Host.Outcome State Fault Refusal :=
  onDev (islandOk i) (fun _ d => d.belowFloor i) s

/-- R443, R463: below the floor for 1 ms. -/
def belowForLong (nv : NonVol) (d : Dev) (i : Island) : NonVol × Dev :=
  match d.spr.below.lookup i with
  | some t =>
    if t + 1000000 ≤ d.now then
      let x := hardFault nv d i
      (x.1, if (d.islandParts i).any d.isSafe then x.2.dangerous 3 0 0 false none else x.2)
    else (nv, d)
  | none => (nv, d)

/-- UNIT_BELOW_FLOOR_1MS, R443. Not due before 1 ms after the first reading. -/
def execUnitBelowFloor1ms (i : Island) (s : State) : Host.Outcome State Fault Refusal :=
  onBoth (islandOk i) (fun x => belowForLong x.1 x.2 i) s

/-- R461: one sample of the drift, in 1/65536. -/
def Dev.canary (d : Dev) (i : Island) (measured predicted : Nat) : Dev :=
  if predicted = 0 then d
  else
    let x : Int := ((measured : Int) - predicted) * 65536 / predicted
    let l := d.spr.drift
    let l := if l.any (fun y => decide (y.1 = i)) then l.map (fun y => if y.1 = i then (y.1, y.2.1 + x, y.2.2 + 1) else y)
      else l ++ [(i, x, 1)]
    { d with spr := { d.spr with drift := l } }

/-- CANARY_SAMPLE, R461. -/
def execCanarySample (i : Island) (measured predicted : Nat) (s : State) : Host.Outcome State Fault Refusal :=
  onDev (islandOk i) (fun _ d => d.canary i measured predicted) s

/-- R462: a wear eclipse of an island that has a spare pool. -/
def Dev.wearEclipse (nv : NonVol) (d : Dev) (i : Island) : Dev :=
  if i.blk = 8 then d.requestEclipse 1 (i.unit / 34) (i.unit % 34) false (d.islandPart i)
  else if i.unit < 16 then
    (((List.range 16).map (fun k => 16 * i.unit + k)).filter (fun c => !nv.spareMap.any (fun r => decide (r.pool = 2 ∧ r.unit = c)))).foldl
      (fun d c => d.requestEclipse 2 0 c false (d.islandPart i)) d
  else
    (dedup (((nv.spareMap.filter (fun r => decide (r.pool = 2 ∧ r.unit < 256) && r.spare.isSome)).map (·.unit)).filter
      (fun c => decide (c ∉ lostCores nv)))).foldl (fun d c => d.requestEclipse 2 0 c false ((d.resPart (0x80 + c / 16)).getD 0)) d

/-- R462: SPR acts on the mean drift of one island. -/
def Dev.wearOf (nv : NonVol) (d : Dev) (x : Island × Int × Nat) : Dev :=
  let i := x.1
  let mean : Int := x.2.1 / (max 1 x.2.2 : Nat)
  let reaches (t : Nat) : Bool := decide ((t * 256 : Nat) * (x.2.2 : Int) ≤ x.2.1)
  let pool := if i.blk = 8 ∧ i.unit < 136 then 1 else if i.blk = 9 then 2 else 0
  let worn := decide (i.blk = 8 ∧ i.unit < 136) && decide (d.get R.TA_COL_STAT.ROLE (i.unit / 34) (i.unit % 34) = 3)
  if worn || !reaches (d.get R.SPR_THRESH.WARN 0 0) then d
  else
    let d := d.annal 3 pool 0x0D (annUnit (d.islandPart i) i.unit) (leBytes 1 i.blk ++ leBytes 4 (ofSigned 32 mean))
    if reaches (d.get R.SPR_THRESH.ECL 0 0) then
      let flags := if pool = 0 then 1 else 2
      let d := d.event 0 0x70 0 0 (leBytes 1 i.blk ++ leBytes 2 i.unit ++ leBytes 1 flags ++ leBytes 1 (min 255 (mean / 256).toNat)) 0
      if pool = 0 then d else d.wearEclipse nv i
    else d

/-- WEAR_WINDOW_END, R462. -/
def Dev.wearWindow (nv : NonVol) (d : Dev) : Dev :=
  let d := d.spr.drift.foldl (fun d x => d.wearOf nv x) d
  { d with spr := { d.spr with drift := [] } }

def execWearWindowEnd (s : State) : Host.Outcome State Fault Refusal := onDev true (fun nv d => d.wearWindow nv) s

/-- CANARY_STALL, R463. -/
def execCanaryStall (i : Island) (s : State) : Host.Outcome State Fault Refusal :=
  onBoth (islandOk i) (fun x => hardFault x.1 x.2 i) s

/-! ### Self-test (R444, R463) -/

/-- R463: a fault that the self-test does not reproduce; the third within 24 h is a hard one. -/
def transient (nv : NonVol) (d : Dev) (i : Island) : NonVol × Dev :=
  let fresh := (d.spr.transients ++ [(i, d.now)]).filter (fun x => decide (d.now < x.2 + 86400000000000))
  let d : Dev := { d with spr := { d.spr with transients := fresh } }
  if 3 ≤ (fresh.filter (fun x => decide (x.1 = i))).length then hardFault nv d i else (nv, d)

def selfTest (nv : NonVol) (d : Dev) (p : Nat) (failed : Bool) (reproduced : List Island) : NonVol × Dev :=
  let due := d.spr.suspects.filter (fun i => decide (d.islandPart i = p))
  let d : Dev := { d with spr := { d.spr with suspects := d.spr.suspects.filter (fun i => decide (i ∉ due)) } }
  let x := due.foldl (fun x i => if i ∈ reproduced then hardFault x.1 x.2 i else transient x.1 x.2 i) (nv, d)
  (x.1, if failed && x.2.isSafe p then x.2.dangerous 9 0 0 false none else x.2)

/-- SELF_TEST_STEP, R444, R463. -/
def execSelfTestStep (part : Nat) (failed : Bool) (reproduced : List Island) (s : State) : Host.Outcome State Fault Refusal :=
  onBoth (decide (part < 16) && reproduced.all siteOk) (fun x => if part < x.2.parts then selfTest x.1 x.2 part failed reproduced else x) s

end Sys2Proof.Machine
end

