-- ==== Sys2Proof/Machine/AnnRows.lean ====
section
/-! DEFINITION. The annals: writing records, power failure, reading (R41, R472 to R479, R516, R543). -/

namespace Sys2Proof.Machine

/-! ### Regions (Table 17-2) -/

/-- Base and size of the ring of a class; 0 stands for the first-fault region. -/
def annRegion (c : Nat) : Nat × Nat :=
  match c with
  | 0 => (0x20000, 0x100000)
  | 1 => (0x200000, 0x800000)
  | 2 => (0xA00000, 0x1000000)
  | 3 => (0x1A00000, 0x400000)
  | 4 => (0x1E00000, 0x1000000)
  | 5 => (0x2E00000, 0x800000)
  | 6 => (0x3600000, 0x200000)
  | 7 => (0x3800000, 0x800000)
  | _ => (0x120000, 0xE0000)

/-- Retired sectors of a region, by sector number in the annals, ascending (R471). -/
def retiredSectors (nv : NonVol) (c : Nat) : List Nat :=
  let r := annRegion c
  sortBy (fun x y => decide (x < y)) (((nv.spareMap.filter (fun x => decide (x.pool = 9 ∧ x.spare = none))).map (·.unit)).filter
    (fun s => decide (r.1 ≤ s * 4096 ∧ s * 4096 < r.1 + r.2)))

/-- Annals offset of record number `n` of a region: 64 records a sector, retired sectors left out. -/
def annOffset (nv : NonVol) (c n : Nat) : Nat :=
  let r := annRegion c
  let bad := retiredSectors nv c
  let k := n % max 1 (r.2 / 64 - 64 * bad.length)
  let s := bad.foldl (fun s b => if b ≤ s then s + 1 else s) (r.1 / 4096 + k / 64)
  s * 4096 + 64 * (k % 64)

/-- A 64-byte record (Table 17-3). -/
def annBytes (r : AnnRec) (flags seq boot : Nat) (payload : List Byte) : List Byte :=
  let b := leBytes 1 r.cls ++ leBytes 1 r.code ++ leBytes 1 r.source ++ leBytes 1 flags ++ leBytes 4 seq ++ leBytes 4 boot ++
    leBytes 4 r.unit ++ leBytes 8 r.time ++ leBytes 8 r.uptime ++ slice payload 0 28
  b ++ leBytes 4 (crc32c b)

/-- First-fault slots (R475), less those of retired sectors (R471). -/
def ffSlots (nv : NonVol) : Nat := 16384 - 64 * (retiredSectors nv 0).length

def NonVol.annCount (nv : NonVol) (c : Nat) : Nat := SMap.read 0 nv.annSeq c

def NonVol.putRecord (nv : NonVol) (c off : Nat) (b : List Byte) : NonVol :=
  { nv with annals := SMap.write [] nv.annals off b, annSeq := SMap.write 0 nv.annSeq c (nv.annCount c + 1) }

/-- R473 to R476: write one record to its region, and the first of class 1 and 2 of this boot to the first-fault region. -/
def writeRecord (nv : NonVol) (d : Dev) (r : AnnRec) : NonVol × Dev :=
  let lost := d.ann.drops
  let first := (decide (r.cls = 1) && !d.ann.first1) || (decide (r.cls = 2) && !d.ann.first2)
  let copy := first && decide (nv.annCount 0 < ffSlots nv)
  let payload := if lost = 0 then r.payload else putSlice (slice r.payload 0 28) 24 (leBytes 4 lost)
  let b := annBytes r (b2n copy + 2 * b2n (decide (lost ≠ 0))) (nv.annCount r.cls % 2 ^ 32) nv.boots payload
  let nv := nv.putRecord r.cls (annOffset nv r.cls (nv.annCount r.cls)) b
  let nv := if copy then nv.putRecord 0 (annOffset nv 0 (nv.annCount 0)) b else nv
  let d : Dev := { d with ann := { d.ann with
    drops := 0
    first1 := d.ann.first1 || decide (r.cls = 1)
    first2 := d.ann.first2 || decide (r.cls = 2) } }
  (nv, d.set R.ANN_STATUS.FF_FULL 0 0 (b2n (decide (ffSlots nv ≤ nv.annCount 0))))

/-- The oldest queued record is written. After the final record of a power failure ANN writes nothing. -/
def writeNext (nv : NonVol) (d : Dev) : NonVol × Dev :=
  match d.ann.queue with
  | r :: rest => if d.ann.final then (nv, d) else writeRecord nv { d with ann := { d.ann with queue := rest } } r
  | [] => (nv, d)

/-- ANNALS_RECORD_WRITE, R473 to R476. -/
def execAnnalsRecordWrite (s : State) : Host.Outcome State Fault Refusal := onBoth true (fun x => writeNext x.1 x.2) s

/-! ### Power failure (R477, R516) -/

/-- PWR_FAIL_N falls: the safe state, no more releases, the queue closed. -/
def Dev.powerFail (d : Dev) : Dev :=
  let d := d.dangerous 0xF 0 0 true none
  { d with pwr := { d.pwr with pwrFailN := false }, ann := { d.ann with closed := true }, cal := { d.cal with stopped := true } }

/-- PWR_FAIL_FALL, R516. -/
def execPwrFailFall (s : State) : Host.Outcome State Fault Refusal :=
  onDev true (fun _ d => if d.pwr.porN && d.pwr.pwrFailN then d.powerFail else d) s

/-- SEQ of the newest record of a class; all ones before the first. -/
def NonVol.lastSeq (nv : NonVol) (c : Nat) : Nat := (nv.annCount c + 2 ^ 32 - 1) % 2 ^ 32

/-- R477: what the queue still holds is dropped, and the final record is written. -/
def finalRecord (nv : NonVol) (d : Dev) : NonVol × Dev :=
  if d.ann.closed && !d.ann.final then
    let drops := d.ann.drops + d.ann.queue.length
    let d := if d.ann.queue.isEmpty then d else d.set R.ANN_STATUS.LOST 0 0 1
    let p := leBytes 4 (cellOf d.regs R.SAF_STATUS.reg.base) ++ leBytes 4 (cellOf d.regs R.CAL_STATUS.reg.base) ++
      leBytes 4 drops ++ leBytes 4 (nv.lastSeq 1) ++ leBytes 4 (nv.lastSeq 2)
    let d : Dev := { d with ann := { d.ann with queue := [], drops := drops } }
    let x := writeRecord nv d ⟨8, 1, 0x0E, 0, d.tb0Stamp, d.uptime, p⟩
    (x.1, { x.2 with ann := { x.2.ann with final := true } }.set R.ANN_STATUS.PF_DONE 0 0 1)
  else (nv, d)

/-- POWER_FAIL_FINAL_RECORD, R477. Not due without a power failure. -/
def execPowerFailFinalRecord (s : State) : Host.Outcome State Fault Refusal := onBoth true (fun x => finalRecord x.1 x.2) s

/-- PWR_FAIL_N rises again before POR_N: ANN resumes; the other partitions are left as after a device purge. -/
def Dev.powerBack (d : Dev) : Dev :=
  let d : Dev := { d with
    pwr := { d.pwr with pwrFailN := true }
    ann := { d.ann with closed := false, final := false }
    cal := { d.cal with stopped := false } }
  (d.annal 6 3 0x0E 0 []).afterDevSafe

/-- POWER_RESTORED, R477, R516. -/
def execPowerRestored (s : State) : Host.Outcome State Fault Refusal :=
  onDev true (fun _ d => if d.pwr.porN && !d.pwr.pwrFailN then d.powerBack else d) s

/-! ### Reading (R478, R479) -/

/-- `n` bytes at an annals offset below 64 MiB; the header's layout is open (DESIGN CHOICE, safe, log entry 7), an unwritten record reads 0. -/
def readAnnals (nv : NonVol) (d : Dev) (off n : Nat) : List Byte × Dev :=
  let x := freeWords Config.headerByte n d
  let bs := (List.range n).map (fun i =>
    let o := off + i
    if o < 0x20000 then (x.1[i]?).getD 0
    else ((SMap.read [] nv.annals (o / 64 * 64))[o % 64]?).getD 0)
  (bs, if off < 0x20000 then x.2 else d)

/-- Pools of Table 17-1 and how many instances have an SPR_POOL register. -/
def poolInstances : List (Nat × Nat) := [(1, 4), (2, 1), (4, 4), (6, 1), (7, 4), (8, 2), (9, 1), (10, 1)]

/-- GET_INFO: boot count, newest SEQ by region, FF_FULL, use per pool (DESIGN CHOICE, unsafe, log entry 36). -/
def infoBytes (nv : NonVol) : List Byte :=
  leBytes 4 nv.boots ++ (List.range 9).flatMap (fun c => leBytes 4 (nv.lastSeq c)) ++
    leBytes 1 (b2n (decide (ffSlots nv ≤ nv.annCount 0))) ++
    poolInstances.flatMap (fun p => leBytes 1 p.1 ++ (List.range p.2).flatMap (fun i => leBytes 2 (spareUse nv p.1 i)))

/-- GET_INFO, R478. -/
def execGetInfo (s : State) : Host.Outcome State Fault Refusal :=
  onDev true (fun nv d => if d.pwr.porN then d.emit (.mctp (0 :: infoBytes nv)) else d) s

/-- READ, R478, R479: completion code 0x02 and no data outside the annals or for a wrong count. -/
def Dev.annRead (nv : NonVol) (d : Dev) (off count : Nat) : Dev :=
  if off % 64 = 0 ∧ 1 ≤ count ∧ count ≤ 16 ∧ off + 64 * count ≤ 0x4000000 then
    let x := readAnnals nv d off (64 * count)
    x.2.emit (.mctp (0 :: x.1))
  else d.emit (.mctp [2])

def execRead (off count : Nat) (s : State) : Host.Outcome State Fault Refusal :=
  onDev true (fun nv d => if d.pwr.porN then d.annRead nv off count else d) s

/-- The spare map as READ_SPARE_MAP sends it (DESIGN CHOICE, unsafe, log entry 36). -/
def mapBytes (nv : NonVol) : List Byte :=
  nv.spareMap.flatMap (fun r => leBytes 1 r.pool ++ leBytes 4 r.inst ++ leBytes 6 r.unit ++
    leBytes 2 (match r.spare with | some sp => sp | none => 0xFFFF))

/-- READ_SPARE_MAP, R478. -/
def execReadSpareMap (s : State) : Host.Outcome State Fault Refusal :=
  onDev true (fun nv d => if d.pwr.porN then d.emit (.mctp (0 :: mapBytes nv)) else d) s

/-- CMC_UNRESPONSIVE, R41, R517. -/
def execCmcUnresponsive (s : State) : Host.Outcome State Fault Refusal :=
  onDev true (fun _ d =>
    if d.pwr.porN && d.pwr.cmc then
      (({ d with pwr := { d.pwr with cmc := false } }.annal 7 1 0x0E 0 []).set R.PWR_CAP.CMC 0 0 0).updateCap
    else d) s

end Sys2Proof.Machine
end

