-- ==== Sys2Proof/Machine/Regs.lean ====
section
/-! DEFINITION. Register access: the map, buffered fields, update strobes with the checks of each block, power domains
(R83, R85, R121, R152, R168, R171, R172, R208, R210, R215, R415, R422, R435, R480 to R488, R499, R511 to R513). -/

namespace Sys2Proof.Machine

/-! ### The map (R480, R481, R493) -/

/-- Block number of an offset; 18 for a context window. -/
def blockOf (off : Nat) : Nat := if off < 0x200000 then off / 0x10000 else 18

/-- The context of a window offset of the PF0 view. -/
def windowCtx (off : Nat) : Nat := (off - 0x200000) / 0x400

/-- `old` with the fields of `r` that `keep` names taken from `v`. -/
def RegRow.merge (r : RegRow) (keep : FldRow → Bool) (old v : Nat) : Nat :=
  (r.flds.filter keep).foldl (fun m f => putBits m f.hi f.lo (bitsOf v f.hi f.lo)) old

/-- `old` with every RW field taken from `v`. -/
def RegRow.mergeRw (r : RegRow) (old v : Nat) : Nat := r.merge (fun f => decide (f.acc = .rw)) old v

/-! ### What is pending (R483, R484) -/

abbrev Cells := SMap (BitVec 128)

/-- Value last written to a register, if a write to it has not been applied. -/
def Dev.written (d : Dev) (off : Nat) : Option Nat :=
  match d.buf.lookup off with
  | some v => some v.toNat
  | none => (d.strobes.reverse.findSome? (fun s => s.2.1.lookup off)).map (·.toNat)

/-- Block that takes the words of a mailbox selector (Table 18-3): TIM, or PMC. -/
def selBlock (sel : Nat) : Nat := if 0xC00 ≤ sel then 15 else 2

def bitSum (n : Nat) (p : Nat → Bool) : Nat := sumBy (fun b => if p b then 2 ^ b else 0) (List.range n)

/-- GLB_PEND and GLB_UPD_STAT. -/
def Dev.syncPend (d : Dev) : Dev :=
  let pend := bitSum 18 (fun b => d.buf.any (fun c => decide (blockOf c.1 = b)) || d.mbxPend.any (fun m => decide (selBlock m.sel = b)) ||
    d.strobes.any (fun s => decide (s.1 = b) && (!s.2.1.isEmpty || !s.2.2.isEmpty)))
  (d.set R.GLB_PEND.PEND 0 0 pend).set R.GLB_UPD_STAT.BUSY 0 0 (bitSum 18 (fun b => d.strobes.any (fun s => decide (s.1 = b))))

/-- Buffer the RW fields of a write to the register at `off`, those that `keep` names. -/
def Dev.buffer (d : Dev) (r : RegRow) (off v : Nat) (keep : FldRow → Bool) : Dev :=
  let old := (d.written off).getD (cellOf d.regs off)
  let new := r.merge (fun f => decide (f.acc = .rw) && keep f) old v
  { d with buf := SMap.put d.buf off (BitVec.ofNat 128 new) }.syncPend

/-! ### Reads (R480, R483, R487, R488) -/

/-- A register as it stands, with the fields that follow other state: IN_USE of a base (R152), the SIZE that a DRAM stack reports. -/
def Dev.liveCell (d : Dev) (off : Nat) : Nat :=
  let v := cellOf d.regs off
  match (List.range 4).find? (fun n => decide (off = R.TB_STATUS.reg.off n 0)) with
  | some n => putBits v 7 7 (b2n (d.tbInUse n))
  | none =>
    if off = R.SPR_POOL.SIZE.off 8 0 ∨ off = R.SPR_POOL.SIZE.off 8 1 then
      putBits v 31 16 (d.poolSize 8 ((off - R.SPR_POOL.SIZE.off 8 0) / 4))
    else v

/-- Counters that belong to context `c` (R501), by the registers as they stood. -/
def ownedBy (regs : Cells) (c : Nat) : Nat :=
  let bit (f : Fld) (n : Nat) : Bool := bitOf (cellOf regs (f.off n 0)) f.lo
  if bit R.CTX_CNT.USER_EN c then
    ((List.range 128).filter (fun n => bit R.PMC_CTR_CFG.OWN_EN n &&
      decide (bitsOf (cellOf regs (R.PMC_CTR_CFG.OWNER.off n 0)) R.PMC_CTR_CFG.OWNER.hi R.PMC_CTR_CFG.OWNER.lo = c))).length
  else 0

/-- What the last slow tick sampled. -/
def Dev.seenCell (d : Dev) (off : Nat) : Nat :=
  let v := cellOf d.shadow off
  if 0x200000 ≤ off ∧ off = R.CTX_CNT.reg.off (windowCtx off) 0 then putBits v 7 0 (ownedBy d.shadow (windowCtx off) % 256) else v

/-- A read by PF0 of 4 bytes at an aligned offset. -/
def Dev.readReg (d : Dev) (off : Nat) : Nat :=
  match regAt off with
  | none => 0
  | some (r, _, _) =>
    let now := d.liveCell off
    let last := (d.written off).getD now
    let seen := d.seenCell off
    r.flds.foldl (fun m f =>
      let v := match f.acc with
        | .rw => bitsOf last f.hi f.lo
        | .sh => bitsOf seen f.hi f.lo
        | .w1c => Nat.lor (bitsOf now f.hi f.lo) (if r.has .sh then bitsOf seen f.hi f.lo else 0)
        | .mb => 0
        | .wm => if f.lo = 16 then 0 else bitsOf now f.hi f.lo
        | .ro => bitsOf now f.hi f.lo
      putBits m f.hi f.lo v) 0

/-! ### Clamps (the field tables) -/

/-- Field `f` of a register value replaced by a function of itself. -/
def mapBits (v : Nat) (f : Fld) (g : Nat → Nat) : Nat := putBits v f.hi f.lo (g (bitsOf v f.hi f.lo))

def clampNat (lo hi v : Nat) : Nat := max lo (min hi v)

/-- A signed 4-bit field kept within bounds. -/
def clampLog (lo hi : Int) (v : Nat) : Nat := ofSigned 4 (max lo (min hi (toSigned 4 v)))

/-- A register value as the strobe puts it in force, by the row's base offset. -/
def clampCell (base v : Nat) : Nat :=
  if base = R.CAL_PCFG.reg.base then mapBits (mapBits v R.CAL_PCFG.AGE_LIMIT (max 1)) R.CAL_PCFG.RESERVE (clampNat 21 256)
  else if base = R.SQ_CFG.reg.base then mapBits v R.SQ_CFG.LOG2 (clampNat 6 16)
  else if base = R.CQ_CFG.reg.base then mapBits v R.CQ_CFG.LOG2 (clampNat 6 16)
  else if base = R.CTX_MSIX.reg.base then mapBits v R.CTX_MSIX.COUNT (max 1)
  else if base = R.MEM_T3_BUDGET.reg.base then mapBits v R.MEM_T3_BUDGET.BUDGET_US (max 1)
  else if base = R.TB_CFG.reg.base then mapBits (mapBits v R.TB_CFG.SW_THRESH (max 1)) R.TB_CFG.FORCE_SW (fun _ => 0)
  else if base = R.TB_RATE.reg.base then mapBits v R.TB_RATE.RATE (fun x => ofSigned 32 (clampRate (toSigned 32 x)))
  else if base = R.PTP_SLOT.reg.base then mapBits v R.PTP_SLOT.LOG_SYNC (clampLog (-7) 1)
  else if base = R.PTP_SLOT_ANN.reg.base then
    mapBits (mapBits (mapBits v R.PTP_SLOT_ANN.LOG_ANN (clampLog (-3) 4)) R.PTP_SLOT_ANN.ANN_TIMEOUT (clampNat 2 10))
      R.PTP_SLOT_ANN.LOG_DELAY (clampLog (-7) 5)
  else if base = R.ETH_SM_CFG.reg.base then mapBits v R.ETH_SM_CFG.SPREAD (max 1)
  else if base = R.SPI_CFG.reg.base then mapBits (mapBits v R.SPI_CFG.CS_DLY (max 1)) R.SPI_CFG.DIV (max 3)
  else if base = R.SDI_CFG.reg.base then mapBits v R.SDI_CFG.FREQ (clampNat 50 250)
  else if base = R.PSE_INDEX_CTL.reg.base then
    mapBits (mapBits (mapBits v R.PSE_INDEX_CTL.FRESH_PCT (clampNat 1 100)) R.PSE_INDEX_CTL.TOMB_PCT (clampNat 1 100))
      R.PSE_INDEX_CTL.REBUILD (fun _ => 0)
  else if base = R.PLK_PORT_CFG.reg.base then mapBits v R.PLK_PORT_CFG.FWD (min 8)
  else if base = R.PLK_SLEEP.reg.base then mapBits (mapBits v R.PLK_SLEEP.QUIET_US (max 1)) R.PLK_SLEEP.WAKE (fun _ => 0)
  else if base = R.SPR_THRESH.reg.base then
    let v := mapBits (mapBits v R.SPR_THRESH.ROW_CE (max 1)) R.SPR_THRESH.ECL (clampNat 2 48)
    mapBits v R.SPR_THRESH.WARN (clampNat 1 (bitsOf v R.SPR_THRESH.ECL.hi R.SPR_THRESH.ECL.lo))
  else if base = R.PWR_THERM.reg.base then mapBits v R.PWR_THERM.THERM_HI (clampNat 90 114)
  else if base = R.PWR_CFG.reg.base then mapBits v R.PWR_CFG.REQ (fun _ => 0)
  else v

/-- Value that a taken write would put in force. -/
def Dev.appliedValue (d : Dev) (off v : Nat) : Nat :=
  match regAt off with
  | some (r, _, _) => clampCell r.base (r.mergeRw (cellOf d.regs off) v)
  | none => cellOf d.regs off

def Dev.putReg (d : Dev) (off v : Nat) : Dev := { d with regs := putCell d.regs off v }

/-- Put taken writes in force. -/
def Dev.applyCells (d : Dev) (cs : Cells) : Dev := cs.foldl (fun d c => d.putReg c.1 (d.appliedValue c.1 c.2.toNat)) d

/-- Give registers back the values they have in `old`. -/
def Dev.restoreCells (d old : Dev) (offs : List Nat) : Dev := offs.foldl (fun d o => d.putReg o (cellOf old.regs o)) d

def Cells.touches (cs : Cells) (f : Fld) (i j : Nat) : Bool := cs.any (fun c => decide (c.1 = f.off i j))

/-! ### Writes that the safety partition's rules deny (R435) -/

/-- The safety partition while it has admitted entries. -/
def Dev.guarded (d : Dev) : Option Nat :=
  match d.safePart with
  | some p => if d.cal.entries.any (fun e => decide (e.part = p)) then some p else none
  | none => none

/-- The register holds a field of the guarded partition alone. -/
def Dev.denies (d : Dev) (off : Nat) : Bool :=
  match d.guarded with
  | some p => decide (off = R.CAL_PCFG.reg.off p 0 ∨ off = R.CAL_PENERGY.reg.off p 0 ∨ off = R.SLX_TAU.reg.off p 0) ||
      (decide (0x200000 ≤ off ∧ off = R.CTX_CAL.reg.off (windowCtx off) 0) && decide (d.ctxPart (windowCtx off) = some p))
  | none => false

def Dev.denied (d : Dev) : Dev := d.set R.SAF_STATUS.WR_DENIED 0 0 1

/-- Taken writes less those that R435 ignores. -/
def Dev.allowCells (d : Dev) (cs : Cells) : Dev × Cells :=
  if cs.any (fun c => d.denies c.1) then (d.denied, cs.filter (fun c => !d.denies c.1)) else (d, cs)

/-! ### CAL -/

def Dev.applyCal (d : Dev) (cs : Cells) : Dev :=
  let x := d.allowCells cs
  let e := x.1.applyCells x.2
  let total := sumBy (fun k => e.get R.CAL_PENERGY.SHARE k 0) (List.range d.parts)
  let e := if 1024 < total then
      (e.restoreCells d ((List.range 16).map (fun k => R.CAL_PENERGY.reg.off k 0))).set R.CAL_STATUS.SHARE_ERR 0 0 1
    else e
  let moved := below d.parts (fun k => decide (e.get R.CAL_PCFG.RESERVE k 0 ≠ d.get R.CAL_PCFG.RESERVE k 0 ∨
    e.get R.CAL_PENERGY.SHARE k 0 ≠ d.get R.CAL_PENERGY.SHARE k 0))
  if moved.isEmpty then e else e.beginReadmit moved 4

/-! ### TIM -/

/-- TB_CFG of base `n`. -/
def Dev.applyTb (d : Dev) (n v : Nat) : Dev :=
  let was := d.bit R.TB_CFG.PRI_EN n 0
  let force := bitOf v R.TB_CFG.FORCE_SW.lo
  let keepEn := d.bit R.TB_CFG.EN n 0 && !bitOf v R.TB_CFG.EN.lo && d.tbInUse n
  let d := d.putReg (R.TB_CFG.reg.off n 0) (d.appliedValue (R.TB_CFG.reg.off n 0) v)
  let d := if keepEn then (d.set R.TB_CFG.EN n 0 1).set R.TB_STATUS.WR_DENIED n 0 1 else d
  let now := d.bit R.TB_CFG.PRI_EN n 0
  let d := if !was && now then d.setTbState n 1 else if was && !now then d.setTbState n 0 else d
  if force && d.qualified n then d.switchTb n else d

/-- A new schedule base takes effect only in a partition without admitted entries (R153). -/
def Dev.applySched (d : Dev) (v : Nat) : Dev :=
  (List.range 16).foldl (fun d k =>
    let f : Fld := ⟨R.TIM_SCHED.reg.base, 0, 0, 2 * k + 1, 2 * k⟩
    let new := bitsOf v (2 * k + 1) (2 * k)
    if new = d.get f 0 0 then d
    else if d.guarded = some k then d.denied
    else if d.cal.entries.any (fun e => decide (e.part = k)) then d
    else
      let d := d.set f 0 0 new
      d.setPcal k (fun c => { c with boundary := d.lastBoundary k })) d

/-- The program of trigger `t`, with the window of a mailbox write. A refused program leaves everything as it was. -/
def Dev.applyProgram (d : Dev) (t : Nat) (cs : Cells) (m : Option MbxWrite) : Dev :=
  let old := d.trig t
  let mine := cs.filter (fun c => decide (c.1 = R.TRIG_CTRL.reg.off t 0 ∨ c.1 = R.TRIG_PERIOD.reg.off t 0))
  let e := d.applyCells mine
  let e := match m with
    | some w => e.setTrig t (fun x => { x with bufStart := w.lo % 2 ^ 64, bufStop := w.hi % 2 ^ 64 })
    | none => e
  if (e.trigBad t).isSome then
    ((e.applyTrig t).restoreCells d (mine.map (·.1))).setTrig t (fun x => { x with bufStart := old.bufStart, bufStop := old.bufStop })
  else e.applyTrig t

/-- A wide write to TIM (Table 05-1). -/
def Dev.applyTimMbx (d : Dev) (w : MbxWrite) : Dev :=
  let n := w.sel % 4
  if 0x280 ≤ w.sel ∧ w.sel < 0x288 then
    if d.tbInUse n then d.set R.TB_STATUS.WR_DENIED n 0 1
    else if w.sel < 0x284 then d.setTb n (fun t => { t with val := w.lo % 2 ^ 64, frac := 0 })
    else d.setTb n (fun t => { t with val := (t.val + w.lo) % 2 ^ 64 })
  else if 0x288 ≤ w.sel ∧ w.sel < 0x28C then d.setTb n (fun t => { t with preset := w.lo % 2 ^ 64 })
  else if 0x2A0 ≤ w.sel ∧ w.sel < 0x2A8 then
    d.setSlot (w.sel - 0x2A0) (fun x => { x with filtId := w.lo % 2 ^ 64, filtPort := w.hi % 65536 })
  else d

def Dev.applyTim (d : Dev) (cs : Cells) (ms : List MbxWrite) : Dev :=
  let isTb (o : Nat) : Bool := (List.range 4).any (fun n => decide (o = R.TB_CFG.reg.off n 0))
  let isRate (o : Nat) : Bool := (List.range 4).any (fun n => decide (o = R.TB_RATE.reg.off n 0))
  let isTrig (o : Nat) : Bool := (List.range 16).any (fun t => decide (o = R.TRIG_CTRL.reg.off t 0 ∨ o = R.TRIG_PERIOD.reg.off t 0))
  let plain (o : Nat) : Bool := !isTb o && !isRate o && !isTrig o && decide (o ≠ R.TIM_SCHED.reg.base)
  let e := (List.range 4).foldl (fun d n => match cs.lookup (R.TB_CFG.reg.off n 0) with | some v => d.applyTb n v.toNat | none => d) d
  let e := e.applyCells (cs.filter (fun c => (List.range 4).any (fun n =>
    decide (c.1 = R.TB_RATE.reg.off n 0) && !e.bit R.TB_CFG.PRI_EN n 0)))
  let e := e.applyCells (cs.filter (fun c => plain c.1))
  let e := (List.range 8).foldl (fun e s =>
    if cellOf e.regs (R.PTP_SLOT.reg.off s 0) = cellOf d.regs (R.PTP_SLOT.reg.off s 0) then e
    else e.setSlot s (fun x => { PtpSlot.reset with filtId := x.filtId, filtPort := x.filtPort })) e
  let e := match cs.lookup R.TIM_SCHED.reg.base with | some v => e.applySched v.toNat | none => e
  let e := ms.foldl (fun e w => e.applyTimMbx w) e
  (List.range 16).foldl (fun e t =>
    let m := ms.reverse.find? (fun w => decide (w.sel = 0x290 + t))
    if m.isSome || cs.touches R.TRIG_CTRL.reg t 0 || cs.touches R.TRIG_PERIOD.reg t 0 then e.applyProgram t cs m else e) e

/-! ### ING -/

/-- EN bit of the port or entry that a stream comes from. -/
def Dev.sourceOn (d : Dev) (s : Nat) : Bool :=
  match srcOf s with
  | .csi p _ => d.bit R.CSI_CFG.EN p 0
  | .eth n => d.bit R.ETH_SM_CFG.EN n 0
  | .spi i => d.bit R.SPI_CFG.EN i 0
  | .enc i => d.bit R.ENC_CFG.EN i 0
  | .sdi c => d.bit R.SDI_CFG.EN c 0
  | _ => true

def Dev.applyIng (d : Dev) (cs : Cells) : Dev :=
  let e := d.applyCells cs
  let e := (List.range 16).foldl (fun e p =>
    if e.get R.CSI_CFG.EN p 0 = d.get R.CSI_CFG.EN p 0 then e
    else
      (((((e.set R.CSI_STAT.OTHER_DT p 0 0).set R.CSI_STAT.HDR_ERR p 0 0).set R.CSI_STAT.CRC_ERR p 0 0).set R.CSI_STAT.LINK p 0 0)).setCsi p
        (fun c => { c with discovering := false, vcs := 0 })) e
  let e := (List.range 64).foldl (fun e n =>
    if d.bit R.ETH_SM_CFG.EN n 0 && !e.bit R.ETH_SM_CFG.EN n 0 then
      { e with ing := { e.ing with ethSeen := e.ing.ethSeen.filter (fun x => decide (x ≠ n)) } }
    else e) e
  (e.ing.binds.filter (fun b => d.sourceOn b.stream && !e.sourceOn b.stream)).foldl (fun e b => e.loseStream b.stream 7) e

/-! ### SGC -/

/-- Registers of lane `l`. -/
def laneReg (l off : Nat) : Bool :=
  decide (off = R.SGC_LANE_CFG.reg.off l 0 ∨ off = R.SGC_LANE_TAPS.reg.off l 0 ∨ off = R.SGC_GRID_PERIOD.reg.off l 0 ∨
    off = R.SGC_GRID_OFFSET.reg.off l 0 ∨ (R.SGC_COEF.reg.off l 0 ≤ off ∧ off < R.SGC_COEF.reg.off l 384))

/-- R215: a lane's set is applied as a whole or refused. -/
def Dev.applyLane (d : Dev) (l : Nat) (cs : Cells) : Dev :=
  let mine := cs.filter (fun c => laneReg l c.1)
  if mine.isEmpty then d
  else
    let b := d.ing.binds.find? (fun b => decide (laneOf b.stream = some l))
    let rd (off : Nat) : Nat := match mine.lookup off with | some v => d.appliedValue off v.toNat | none => cellOf d.regs off
    match (d.laneCfg l rd).bad with
    | some k =>
      let to_ := 0 :: (match b with | some b => d.bindCtxs b | none => [])
      (d.set R.SGC_LANE_STAT.PARAM_ERR l 0 1).eventAll to_ 0x38 0 0 (leBytes 1 l ++ leBytes 1 k) 0
    | none =>
      let e := d.applyCells mine
      let on := e.bit R.SGC_LANE_CFG.EN l 0
      match b with
      | some b =>
        if (e.lane l).active then (if on then e.appliedLane l b.tb else e.stopLane l)
        else if on && decide (ldFormat b.ld = 0x12) then e.startLane l b.tb
        else e.reportLane l
      | none => e.reportLane l

def Dev.applySgc (d : Dev) (cs : Cells) : Dev := (List.range 24).foldl (fun d l => d.applyLane l cs) d

/-! ### PLK -/

/-- Bytes of the safety partition's share of T1 and T2. -/
def Dev.safeRanges (d : Dev) : List (Nat × Nat) :=
  match d.safePart with
  | some p => [(0x10000000 + p * (t1Size / d.parts), t1Size / d.parts), (0x800000000 + p * (stackSize / d.parts), stackSize / d.parts),
      (0xC00000000 + p * (stackSize / d.parts), stackSize / d.parts)]
  | none => []

/-- R422: peer window `w` grants write access into the safety partition's share. -/
def Dev.pwinUnsafe (d : Dev) (w : Nat) : Bool :=
  let a := d.get R.PLK_PWIN_BASE.DA w 0 * 65536
  let n := d.get R.PLK_PWIN_CFG.SIZE w 0 * 65536
  d.bit R.PLK_PWIN_CFG.VALID w 0 && decide (d.get R.PLK_PWIN_PEERS.WR w 0 ≠ 0) &&
    d.safeRanges.any (fun r => decide (r.1 < a + n ∧ a < r.1 + r.2))

/-- R413, R415, R422, R429. -/
def Dev.applyPlk (d : Dev) (cs : Cells) : Dev :=
  let e := d.applyCells cs
  let open_ := (List.range 4).any (fun p => d.bit R.PLK_PORT_CFG.EN p 0)
  let refuse := cs.touches R.PLK_GROUP.reg 0 0 && open_
  let e := if refuse then (e.restoreCells d [R.PLK_GROUP.reg.base]).set R.PLK_GSTAT.GROUP_ERR 0 0 1 else e
  let e := (List.range 32).foldl (fun e w =>
    if e.pwinUnsafe w then
      (e.restoreCells d [R.PLK_PWIN_BASE.reg.off w 0, R.PLK_PWIN_CFG.reg.off w 0, R.PLK_PWIN_PEERS.reg.off w 0,
        R.PLK_PWIN_FLAGS.reg.off w 0]).set R.PLK_GSTAT.GROUP_ERR 0 0 1
    else e) e
  let e := if cs.touches R.PLK_GROUP.reg 0 0 && !refuse && decide (e.topo ≠ 0) then
      (({ e with plk := { e.plk with healPend := true, group := [] } } : Dev).reroute false).checkAuth
    else e
  let e := (List.range 4).foldl (fun e p =>
    if d.bit R.PLK_PORT_CFG.EN p 0 = e.bit R.PLK_PORT_CFG.EN p 0 then e
    else if e.bit R.PLK_PORT_CFG.EN p 0 then e.train p 0
    else e.portDown p 4) e
  if d.bit R.PLK_WITNESS.HOLD 0 0 = e.bit R.PLK_WITNESS.HOLD 0 0 then e else e.checkAuth

/-! ### PMC -/

/-- R499, R504. -/
def Dev.applyPmc (d : Dev) (cs : Cells) (ms : List MbxWrite) : Dev :=
  let e := d.applyCells cs
  let e := (List.range 128).foldl (fun e n =>
    if [R.PMC_CTR_CFG.reg, R.PMC_CTR_MST.reg, R.PMC_CTR_ALO.reg, R.PMC_CTR_AHI.reg].all (fun f =>
        decide (cellOf e.regs (f.off n 0) = cellOf d.regs (f.off n 0))) then e
    else e.setCtr n (fun _ => Ctr.reset)) e
  ms.foldl (fun e w => e.setCtr (w.sel - 0xC00) (fun c => { c with val := w.lo % 2 ^ 64 })) e

/-! ### Power domains (R511 to R513) -/

/-- PWR_STAT.STATE and the state of Table 20-4 that the domains make. -/
def Dev.syncPower (d : Dev) : Dev :=
  let off := (List.range 48).any (fun n => decide (2 ≤ n ∧ (n ≤ 37 ∨ 45 ≤ n)) && !d.domainOn n)
  let st := if off then Power.trim else Power.active
  match d.pwr.state with
  | .active | .trim => { d with pwr := { d.pwr with state := st } }.set R.PWR_STAT.STATE 0 0 (b2n off)
  | .idle => { d with pwr := { d.pwr with idleFrom := st } }
  | _ => d

/-- Domains that the safety partition's units lie in. -/
def Dev.safeDomains (d : Dev) : List Nat :=
  match d.safePart with
  | none => []
  | some p =>
    let units (c n : Nat) : List (Nat × Nat) := ((List.range n).filter (fun u => decide (d.resPart (64 * c + u) = some p))).map (fun u => (c, u))
    (units 1 16 ++ units 2 16 ++ units 3 8 ++ units 4 4 ++ units 5 8 ++ units 6 4 ++ units 7 4 ++ units 8 4 ++ units 9 8).flatMap domainsOf

/-- R512: domains that TRIM_EN switches off: no loaded workbook needs them, no load waits. -/
def Dev.trimmable (d : Dev) : List Nat :=
  if !d.bit R.PWR_CFG.TRIM_EN 0 0 || d.reqs.any (fun r => decide (dOpc r.desc = 1)) || !decide (d.pwr.state = .active ∨ d.pwr.state = Power.trim) then []
  else
    let held := d.wbs.flatMap (fun w => d.needs w)
    let safe := if d.bit R.SAF_STATUS.OPER 0 0 then d.safeDomains else []
    (List.range 48).filter (fun n => decide (2 ≤ n ∧ n ≤ 37) && d.domainOn n && !held.contains n && !safe.contains n &&
      (decide (n < 18 ∨ 21 < n) || (List.range 4).all (fun s => !held.contains (4 * (n - 18) + 2 + s) && !safe.contains (4 * (n - 18) + 2 + s))))

def Dev.trimDomains (d : Dev) : Dev :=
  let ns := d.trimmable
  if ns.isEmpty then d else (ns.foldl (fun d n => d.setDomain n false) d).syncPower

/-- R512: an IO_OFF bit that is refused. -/
def Dev.ioBusy (d : Dev) (k : Nat) : Bool :=
  match k with
  | 0 => d.ing.binds.any (fun b => match srcOf b.stream with | .csi _ _ | .spi _ | .enc _ | .sdi _ => true | _ => false) ||
      (List.range 16).any (fun i => d.bit R.CSI_CFG.EN i 0 || d.bit R.SDI_CFG.EN i 0) ||
      (List.range 8).any (fun i => d.bit R.SPI_CFG.EN i 0 || d.bit R.ENC_CFG.EN i 0)
  | 1 => (List.range 64).any (fun n => d.bit R.ETH_SM_CFG.EN n 0) || (List.range 8).any (fun s => d.bit R.PTP_SLOT.EN s 0) ||
      d.ing.binds.any (fun b => match srcOf b.stream with | .eth _ => true | _ => false) || d.saf.chans.any (fun c => decide (c.link ≠ 0))
  | _ => (List.range 4).any (fun p => d.bit R.PLK_PORT_CFG.EN p 0)

def Dev.applyPwr (d : Dev) (cs : Cells) : Dev :=
  let e := d.applyCells cs
  let e := (List.range 3).foldl (fun e k =>
    if bitOf (e.get R.PWR_CFG.IO_OFF 0 0) k && !bitOf (d.get R.PWR_CFG.IO_OFF 0 0) k && d.ioBusy k then
      (e.set R.PWR_CFG.IO_OFF 0 0 (putBits (e.get R.PWR_CFG.IO_OFF 0 0) k k 0)).set R.PWR_STAT.REQ_ERR 0 0 1
    else e.setDomain (45 + k) (!bitOf (e.get R.PWR_CFG.IO_OFF 0 0) k)) e
  e.syncPower.trimDomains

/-! ### Update strobes (R484) -/

/-- The strobe of block `b` with the writes it took. -/
def Dev.applyBlock (d : Dev) (b : Nat) (cs : Cells) (ms : List MbxWrite) : Dev :=
  match b with
  | 1 => d.applyCal cs
  | 2 => d.applyTim cs ms
  | 3 => d.applyIng cs
  | 4 => d.applySgc cs
  | 9 => let x := d.allowCells cs; x.1.applyCells x.2
  | 11 => d.applyPlk cs
  | 13 => let e := d.applyCells cs; e.putReg R.SPR_THRESH.reg.base (clampCell R.SPR_THRESH.reg.base (cellOf e.regs R.SPR_THRESH.reg.base))
  | 15 => d.applyPmc cs ms
  | 16 => d.applyPwr cs
  | _ => d.applyCells cs

/-- GLB_UPDATE takes what has been written to each block it names. -/
def Dev.takeWrites (d : Dev) (blocks : Nat) : Dev :=
  let ss := (onesOf blocks 18).map (fun b =>
    (b, d.buf.filter (fun c => decide (blockOf c.1 = b)), d.mbxPend.filter (fun m => decide (selBlock m.sel = b))))
  { d with
    strobes := d.strobes ++ ss
    buf := d.buf.filter (fun c => !bitOf blocks (blockOf c.1) || decide (18 ≤ blockOf c.1))
    mbxPend := d.mbxPend.filter (fun m => !bitOf blocks (selBlock m.sel)) }.syncPend

/-- The oldest strobe of a block ends. -/
def Dev.endStrobe (d : Dev) (b : Nat) : Dev :=
  match d.strobes.findIdx? (fun s => decide (s.1 = b)) with
  | some i =>
    match d.strobes[i]? with
    | some s => (({ d with strobes := d.strobes.eraseIdx i } : Dev).applyBlock b s.2.1 s.2.2).syncPend
    | none => d
  | none => d

/-! ### Context fields (R83, R85, R121, R485) -/

/-- R83: the context may be assigned as the value of CTX_FUNC says. -/
def Dev.funcOk (d : Dev) (c v : Nat) : Bool :=
  let fn := bitsOf v R.CTX_FUNC.FUNC.hi R.CTX_FUNC.FUNC.lo
  let slot := bitsOf v R.CTX_FUNC.SLOT.hi R.CTX_FUNC.SLOT.lo
  let others := (d.fnCtxs fn).filter (fun x => decide (x ≠ c))
  decide (c ≠ 0) && (!bitOf v 31 ||
    (decide (others.length < 64) &&
      (decide (fn = 0) ||
        (bitOf (d.fuse (8 + fn / 2)) (16 * (fn % 2) + (d.ctxPart c).getD 0) && !others.any (fun x => decide (d.get R.CTX_FUNC.SLOT x 0 = slot))))))

/-- T3 window `w` of context `c` as its registers say (R121). -/
def Dev.t3Window (d : Dev) (c w : Nat) : T3W :=
  let da := d.get R.CTX_T3W_DA.DA c w
  let size := d.get R.CTX_T3W_CFG.SIZE c w
  { valid := d.bit R.CTX_T3W_CFG.VALID c w && decide (size ≠ 0) && bitOf da 31
    wr := d.bit R.CTX_T3W_CFG.WR c w
    rd := d.bit R.CTX_T3W_CFG.RD c w
    da := da * 65536
    bytes := size * 65536
    iova := d.get R.CTX_T3W_IOVA_LO.IOVA c w * 4096 + d.get R.CTX_T3W_IOVA_HI.IOVA c w * 2 ^ 32 }

/-- R85: EN goes from 0 to 1. Records held for the context are drained into the new ring. -/
def Dev.enableCtx (d : Dev) (c : Nat) : Dev :=
  let d := (((d.set R.CTX_STATUS.FETCH_STOP c 0 0).set R.CTX_STATUS.ABORT_DONE c 0 0).set R.CTX_STATUS.HOST_LOST c 0 0).set
    R.CTX_CQ_LOST.LOST c 0 0
  let d := d.setCtx c (fun x => { x with
    enabled := true
    tb := d.get R.CTX_CTRL.TB c 0
    sqBase := d.get R.SQ_BASE_LO.ADDR c 0 * 4096 + d.get R.SQ_BASE_HI.ADDR c 0 * 2 ^ 32
    sqLog := d.get R.SQ_CFG.LOG2 c 0
    cqBase := d.get R.CQ_BASE_LO.ADDR c 0 * 4096 + d.get R.CQ_BASE_HI.ADDR c 0 * 2 ^ 32
    cqLog := d.get R.CQ_CFG.LOG2 c 0
    t3w := (List.range 8).map (d.t3Window c)
    sqHead := 0, sqTail := 0, cqTail := 0, cqHead := 0, phase := true, expSeq := none, sinceIrq := 0 })
  d.drainHold c ((d.ctx c).hold.length + 1)

/-- Fields that only PF0 may write. -/
def pf0Only (off : Nat) (f : FldRow) : Bool :=
  decide (0x200000 ≤ off) &&
    (let x := (off - 0x200000) % 0x400
     decide (x = 0x38 ∨ x = 0x40 ∨ x = 0x60 ∨ (x = 0 ∧ f.lo = R.CTX_CTRL.ATTACH_EN.lo)))

/-- CTX_UPDATE of context `c`: its buffered fields go into force; through a VF, those that only PF0 writes stay buffered. -/
def Dev.updateCtx (d : Dev) (c : Nat) (pf0 : Bool) : Dev :=
  let mine := d.buf.filter (fun x => decide (0x200000 ≤ x.1 ∧ windowCtx x.1 = c))
  let rest := d.buf.filter (fun x => !decide (0x200000 ≤ x.1 ∧ windowCtx x.1 = c))
  let x := d.allowCells mine
  let was := (d.ctx c).enabled
  let value (off v : Nat) : Nat :=
    match regAt off with
    | some (r, _, _) => clampCell r.base (r.merge (fun f => decide (f.acc = .rw) && (pf0 || !pf0Only off f)) (cellOf d.regs off) v)
    | none => v
  let kept := if pf0 then [] else mine.filter (fun y => match regAt y.1 with
    | some (r, _, _) => r.flds.any (fun f => pf0Only y.1 f && decide (f.acc = .rw) &&
        decide (bitsOf y.2.toNat f.hi f.lo ≠ bitsOf (cellOf d.regs y.1) f.hi f.lo))
    | none => false)
  let e : Dev := { x.1 with buf := kept.foldl (fun m y => SMap.put m y.1 y.2) rest }
  let e := x.2.foldl (fun e y =>
    if y.1 = R.CTX_FUNC.reg.off c 0 then
      let v := value y.1 y.2.toNat
      if was || !d.funcOk c v then e else e.putReg y.1 v
    else e.putReg y.1 (value y.1 y.2.toNat)) e
  let e := if was && e.bit R.CTX_CTRL.EN c 0 then e.set R.CTX_CTRL.TB c 0 (d.get R.CTX_CTRL.TB c 0) else e
  let e := if !was && (d.ctx c).aborting.isSome then e.set R.CTX_CTRL.EN c 0 0 else e
  let now := e.bit R.CTX_CTRL.EN c 0
  let e := if !was && now then e.enableCtx c
    else if was && !now then (e.stopDump c).setCtx c (fun x => { x with enabled := false })
    else e
  e.syncPend

end Sys2Proof.Machine
end

