-- ==== Sys2Proof/Machine/Clock.lean ====
section
/-! DEFINITION. What a nanosecond of the reference clock does while no command waits (DESIGN CHOICE, unsafe, log entry 1): R151, R426, R487, R512. -/

namespace Sys2Proof.Machine

/-- R151: every enabled base advances by its own time. -/
def Dev.advanceBases (d : Dev) : Dev :=
  (List.range 4).foldl (fun d n => if d.bit R.TB_CFG.EN n 0 then d.setTb n (fun t => t.advance (d.tbRate n)) else d) d

/-- R487: an edge of the 1 MHz slow tick samples every SH field and counts. What R512 switches off goes then. -/
def Dev.slowTick (d : Dev) : Dev :=
  let d := (d.addWrap R.GLB_TICK.TICK 0 0 1).trimDomains
  { d with shadow := d.regs }

/-- One nanosecond. While POR_N is low only the reference clock runs. -/
def Dev.tick (d : Dev) : Dev :=
  let d := { d with now := d.now + 1 }
  if d.pwr.porN then
    let d := d.advanceBases
    let d := d.noteCalm
    if (d.now - d.pwr.porAt) % 1000 = 0 then d.slowTick else d
  else d

end Sys2Proof.Machine
end

