-- ==== Sys2Proof/Machine/PwrRows.lean ====
section
/-! DEFINITION. Reset, boot, power states, thermal limit, fuses (R509, R512 to R527). -/

namespace Sys2Proof.Machine

/-! ### Fuses (R525) -/

/-- R525: what FUS checks at each sensing. -/
def Dev.fuseMapOk (d : Dev) : Bool :=
  let w3 := d.fuse 3
  let p := 2 ^ min 4 (bitsOf w3 2 0)
  let en := bitOf w3 3
  let part := bitsOf w3 7 4
  let first := bitsOf (d.fuse 4) 10 0
  let count := bitsOf (d.fuse 4) 21 11
  decide (bitsOf w3 2 0 ≤ 4) && (!en || decide ((p = 2 ∨ p = 4 ∨ p = 8) ∧ part < p)) &&
    (decide (count = 0) || (en && decide (d.ctxPart first = some part ∧ first + count ≤ 2048 ∧ d.ctxPart (first + count - 1) = some part))) &&
    (List.range 31).all (fun k => decide (bitsOf (d.fuse (8 + (k + 1) / 2)) (16 * ((k + 1) % 2) + 15) (16 * ((k + 1) % 2)) < 2 ^ p)) &&
    (List.range 40).all (fun u => decide (d.unitAssign u < p)) &&
    (List.range 16).all (fun i => (List.range 16).all (fun j =>
      !bitOf (d.fuse (24 + (16 * i + j) / 32)) ((16 * i + j) % 32) || decide (i < p ∧ j < p)))

/-- Registers that show fuses, the annals header or the spare map. -/
def senseFuses (nv : NonVol) (d : Dev) : Dev :=
  let d := nv.fuses.foldl (fun d w => d.set R.FUS_WORD.VALUE w.1 0 w.2.toNat) d
  let p := d.parts
  let d := (((d.set R.FUS_STATUS.INT_LOCK 0 0 (b2n (bitOf (d.fuse 3) 31))).set R.FUS_STATUS.MFG_LOCK 0 0 (b2n (bitOf (d.fuse 5) 31))).set
    R.FUS_STATUS.SPARES_USED 0 0 nv.fuseRows).set R.ANN_MCTP.IANA 0 0 (d.fuse 2)
  let d := (d.set R.GLB_ID.PLOG2 0 0 (bitsOf (d.fuse 3) 2 0)).set R.GLB_ID.SAFE_PART 0 0 (d.safePart.getD 15)
  let d := d.set R.SAF_STATUS.PART 0 0 (d.safePart.getD 15)
  let d := (d.set R.PLK_GSTAT.DEV_ID 0 0 (bitsOf (d.fuse 3) 12 9)).set R.PLK_GSTAT.WEIGHT 0 0 (bitsOf (d.fuse 3) 16 13)
  let d := (List.range 16).foldl (fun d k => d.set R.CAL_PENERGY.SHARE k 0 (1024 / p)) d
  let d := (List.range (bitsOf (d.fuse 4) 21 11)).foldl (fun d i => d.set R.CTX_CAL.SAFETY (bitsOf (d.fuse 4) 10 0 + i) 0 1) d
  let d := (List.range 16).foldl (fun d k => d.set R.TA_SLICE_STAT.PART (k / 4) (k % 4) (d.sliceOwner (k / 4) (k % 4))) d
  let d := (List.range 4).foldl (fun d a => (List.range (d.streamParts a).length).foldl (fun d q =>
    d.set R.SEQ_STREAM_STAT.PART a q ((d.streamPart a q).getD 0)) d) d
  let d := (List.range 16).foldl (fun d g => d.set R.SLX_GROUP_STAT.PART g 0 ((d.resPart (0x80 + g)).getD 0)) d
  let d := (List.range 8).foldl (fun d w => d.set R.PSE_WALKER_STAT.PART w 0 ((d.resPart (0x240 + w)).getD 0)) d
  let d := (List.range 28).foldl (fun d u => d.set R.VIS_UNIT_STAT.PART u 0 ((d.resPart (visionRes u)).getD 0)) d
  let d := d.set R.CTX_FUNC.VALID 0 0 1
  let d := (d.set R.ANN_STATUS.BOOT 0 0 (nv.boots % 65536)).set R.ANN_STATUS.FF_FULL 0 0 (b2n (decide (ffSlots nv ≤ nv.annCount 0)))
  poolInstances.foldl (fun d x => (List.range x.2).foldl (fun d i =>
    if x.1 = 8 then d.set R.SPR_POOL.USED 8 i (spareUse nv 8 i) else d.syncPool nv x.1 i) d) d

/-! ### Reset (R519) -/

/-- What a reset keeps beside the spare map, fuses and annals: the model's own counters and what has left the device. -/
def Dev.cleared (d : Dev) : Dev := { Dev.reset with now := d.now, freeIx := d.freeIx, nextId := d.nextId, outbox := d.outbox }

/-- The value of a fuse word, spare rows applied. -/
def NonVol.fuseNow (nv : NonVol) (w : Nat) : Nat := (SMap.read 0 nv.fuses w).toNat

/-- POR_N falls. A fuse word being programmed keeps the bits already blown (R527); PSQ disables group B in reverse order. -/
def resetAll (nv : NonVol) (d : Dev) : NonVol × Dev :=
  let x : NonVol × Nat := match d.pwr.prog with
    | some (w, bits) =>
      ({ nv with fuses := SMap.write 0 nv.fuses w (BitVec.ofNat 32
        (Nat.lor (nv.fuseNow w) (Nat.land bits (Config.trimWord d.freeIx).toNat))) }, 1)
    | none => (nv, 0)
  let e : Dev := { d.cleared with freeIx := d.freeIx + x.2 }
  let ons := (List.range 6).filter (fun n => d.pwr.supplies.getD n false || decide (d.pwr.await.map (·.1) = some n))
  (x.1, ons.reverse.foldl (fun e n => e.emit (.psq n false)) (e.emit (.safePins false)))

/-- POR_N_ASSERT, R519. -/
def execPorNAssert (s : State) : Host.Outcome State Fault Refusal := onBoth true (fun x => resetAll x.1 x.2) s

/-! ### Boot image (R520, R524) -/

def img (im : List Byte) (off n : Nat) : Nat := fieldAt im off n

/-- A table of `n` records of `size` bytes lies in front of the signature section. -/
def tableIn (im : List Byte) (off n size : Nat) : Bool := decide (n = 0 ∨ (64 ≤ off ∧ off + n * size + 256 ≤ img im 12 4))

/-- Form of a boot image (Table 20-5a). -/
def imageForm (im : List Byte) : Bool :=
  let n := img im 12 4
  decide (img im 0 4 = 0x53425452 ∧ img im 4 2 = 1 ∧ img im 6 1 ≤ 8 ∧ img im 7 1 ≤ 64 ∧ img im 8 4 ≤ 64 ∧ n % 64 = 0 ∧ 320 ≤ n ∧
    n ≤ im.length ∧ img im 36 2 ≤ 256 ∧ img im 38 1 < 4 ∧ img im 39 1 = 0 ∧ img im 44 1 ≤ 24 ∧ leNat (slice im 45 19) = 0) &&
  tableIn im (img im 16 4) (img im 20 4) 1 && tableIn im (img im 24 4) (img im 6 1) 16 && tableIn im (img im 28 4) (img im 7 1) 4 &&
  tableIn im (img im 32 4) (img im 36 2) 8 && tableIn im (img im 40 4) (img im 44 1) 16

/-- R524: an image must be signed. -/
def Dev.bootSigned (d : Dev) : Bool := bitOf (d.fuse 3) 31 || (List.range 8).any (fun s => (d.keyHash s).isSome)

def Dev.imageOk (d : Dev) (im : List Byte) : Bool :=
  let n := img im 12 4
  imageForm im && decide (popcount (d.fuse 6) 32 + popcount (d.fuse 7) 32 ≤ img im 8 4) &&
    (!d.bootSigned || (d.sigBad (slice im (n - 256) 256) (slice im 0 (n - 256))).isNone)

/-- Image A, else image B. -/
def Dev.bootImage (d : Dev) (f : Flash) : Option (List Byte) :=
  if d.imageOk f.imageA then some f.imageA else if d.imageOk f.imageB then some f.imageB else none

/-! ### Boot failures (R523) -/

/-- A failure is reported; `dev` where no partition runs. -/
def Dev.bootFail (d : Dev) (err : Nat) (dev : Bool) : Dev :=
  ((d.set R.PWR_STAT.BOOT_ERR 0 0 err).annal 6 2 0x10 0 (leBytes 1 err)).dangerous 0x10 0 0 dev none

/-- A boot halt. -/
def Dev.bootHalt (d : Dev) (err : Nat) : Dev := { d.bootFail err true with pwr := { (d.bootFail err true).pwr with halt := true } }

/-! ### Boot step 7 (R521, R434) -/

/-- A CFG record may name this register. -/
def Dev.cfgOk (d : Dev) (off : Nat) : Bool :=
  match regAt off with
  | none => false
  | some (r, _, _) =>
    r.has .rw && (decide (blockOf off ∈ [2, 3, 4]) ||
      (match d.safePart with
       | some p => decide (off = R.CAL_PCFG.reg.off p 0 ∨ off = R.CAL_PENERGY.reg.off p 0)
       | none => false))

/-- CFG writes, followed by one strobe of TIM, ING, SGC and CAL; none where a record names another field. -/
def Dev.bootCfg (d : Dev) (im : List Byte) : Option Dev :=
  let recs := (List.range (img im 36 2)).map (fun i => (img im (img im 32 4 + 8 * i) 4, img im (img im 32 4 + 8 * i + 4) 4))
  if recs.all (fun r => d.cfgOk r.1) then
    let d := recs.foldl (fun d r => match regAt r.1 with | some (row, _, _) => d.buffer row r.1 r.2 (fun _ => true) | none => d) d
    some ([2, 3, 4, 1].foldl (fun d b => d.endStrobe b) (d.takeWrites 0x1E))
  else none

/-- A BIND record: stream and landing descriptor address; none where the binding fails. -/
def Dev.bootBind (d : Dev) (p tb s x : Nat) : Option Dev :=
  let spi := match srcOf s with | .spi _ => true | _ => false
  let n := if spi then 128 else 64
  if srcOf s = .bad ∨ x % 64 ≠ 0 ∨ (tierOf x ≠ 1 ∧ tierOf x ≠ 2) ∨ d.inShare p x n = false ∨ d.bit R.TB_CFG.EN tb 0 = false then none
  else match d.readDev (Who.device p 3) x n with
    | (_, .error _) => none
    | (d, .ok bs) =>
      let ld := bs.take 64
      let pb := bs.drop 64
      if !ldReservedOk ld || (spi && !spiReservedOk pb) || (d.bind s).isSome || !d.ldOk s p ld || (spi && !spiOk pb) || !d.limitsOk s ld then none
      else some (d.addBind s none p tb ld pb)

/-- Fold a step that can fail over a list. -/
def tryAll {α : Type} (f : Dev → α → Option Dev) (d : Dev) (l : List α) : Option Dev :=
  l.foldl (fun d x => d.bind (fun d => f d x)) (some d)

/-- A safety workbook's record: file offset, bytes, T2 address. -/
def wbRec (im : List Byte) (i : Nat) : Nat × Nat × Nat :=
  let o := img im 24 4 + 16 * i
  (img im o 4, img im (o + 4) 4, img im (o + 8) 8)

/-- R38: the CMC copies a workbook from flash into the safety partition's T2. -/
def Dev.bootCopy (f : Flash) (p : Nat) (d : Dev) (r : Nat × Nat × Nat) : Option Dev :=
  match f.files.lookup r.1 with
  | some b =>
    if r.2.1 ≤ b.length ∧ tierOf r.2.2 = 2 ∧ r.2.1 ≠ 0 ∧ d.inShare p r.2.2 r.2.1 = true then
      some { d with mem := d.mem.store r.2.2 (b.take r.2.1) }
    else none
  | none => none

/-- R434: load one workbook from T2: the error of R523, or the device and the slot. -/
def Dev.bootLoad (d : Dev) (p : Nat) (r : Nat × Nat × Nat) : Except Nat (Dev × Nat) :=
  let im := d.mem.bytes r.2.2 r.2.1
  match d.checkImage im r.2.1 p none true with
  | .error e => .error (if e.status = 0x11 ∧ 0x100 ≤ e.sub ∧ !d.cal.gone.isEmpty then 6 else 4)
  | .ok w => .ok (d.install w im, w.slot)

/-- Workbooks in the image's order: the device and their slots. -/
def Dev.bootLoads (d : Dev) (p : Nat) (rs : List (Nat × Nat × Nat)) : Except Nat (Dev × List Nat) :=
  rs.foldl (fun acc r =>
    match acc with
    | .error e => .error e
    | .ok x => (match x.1.bootLoad p r with | .error e => .error e | .ok y => .ok (y.1, x.2 ++ [y.2]))) (.ok (d, []))

/-- R521 and R434 for safety partition `p`: BOOT_ERR with what has been done, or the device. -/
def Dev.stepSeven (d : Dev) (f : Flash) (im : List Byte) (p : Nat) : Dev × Nat :=
  let recs := (List.range (img im 6 1)).map (wbRec im)
  let tb := img im 38 1
  match tryAll (Dev.bootCopy f p) d recs with
  | none => (d, 4)
  | some d =>
    let d : Dev := { d with pwr := { d.pwr with cmcLocked := true } }
    match d.bootCfg im with
    | none => (d, 4)
    | some d =>
      let d := d.set ⟨R.TIM_SCHED.reg.base, 0, 0, 2 * p + 1, 2 * p⟩ 0 0 tb
      let d := d.setPcal p (fun c => { c with boundary := d.lastBoundary p })
      let binds := (List.range (img im 44 1)).map (fun i => (img im (img im 40 4 + 16 * i) 2, img im (img im 40 4 + 16 * i + 8) 8))
      match tryAll (fun d (b : Nat × Nat) => d.bootBind p tb b.1 b.2) d binds with
      | none => (d, 4)
      | some d =>
        match d.bootLoads p recs with
        | .error e => (d, e)
        | .ok (d, slots) =>
          let ents := (List.range (img im 7 1)).map (fun i => (slots.getD (img im (img im 28 4 + 4 * i) 1) 256, img im (img im 28 4 + 4 * i + 2) 2))
          let d : Dev := { d with saf := { d.saf with bootEntries := ents } }
          match d.bootAdmitAll ents (fun _ => tb) with
          | (d, true) => (d, 0)
          | (d, false) => (d, 5)

/-! ### The boot sequence (R509, R522) -/

/-- Steps 4 to 8, once group B is up. -/
def bootOn (nv : NonVol) (d : Dev) (f : Flash) : Dev :=
  if d.pwr.halt || d.pwr.fusing then d
  else match d.bootImage f with
    | none => d.bootHalt 2
    | some im =>
      let d := d.set R.FUS_STATUS.UNSECURE 0 0 (b2n (!d.bootSigned))
      let d := nv.spareMap.foldl (fun d r => d.applyRec nv r) d
      let d := d.set R.PWR_STAT.BOOT_STEP 0 0 6
      let done (d : Dev) : Dev := (d.set R.PWR_STAT.BOOT_STEP 0 0 8).annal 6 1 0x10 0 []
      match d.safePart with
      | none =>
        let d := { d with pwr := { d.pwr with cmcLocked := true } }
        if img im 6 1 ≠ 0 then d.bootFail 4 false
        else (match d.bootCfg im with | some d => done d | none => d.bootFail 4 false)
      | some p =>
        match d.stepSeven f im p with
        | (d, 0) =>
          if bitsOf (d.fuse 3) 18 17 = 0 then (done d).dangerous 0x10 0 0 false none
          else ((done d).set R.SAF_STATUS.OPER 0 0 1).armPulses
        | (d, e) => d.bootFail e false

/-- All domains on. -/
def Dev.domainsOn (d : Dev) : Dev := (d.set R.PWR_DOM_LO.ON 0 0 0xFFFFFFFF).set R.PWR_DOM_HI.ON 0 0 0xFFFF

/-- POR_N rises: fuses are sensed and checked, and PSQ enables the first supply of group B. -/
def release (nv : NonVol) (d : Dev) (fuseEn : Bool) : NonVol × Dev :=
  let nv : NonVol := { nv with boots := (nv.boots + 1) % 2 ^ 32 }
  let d := senseFuses nv d
  let d : Dev := { d with pwr := { d.pwr with
    porN := true, pwrFailN := true, fuseEn := fuseEn, state := .active, porAt := d.now, fusing := fuseEn
    jtagOpen := decide (bitsOf (d.fuse 3) 18 17 = 0), await := some (0, d.now) } }
  let d : Dev := { d with spr := { d.spr with warned := poolInstances.flatMap (fun x => (List.range x.2).flatMap (fun i =>
    if x.1 = 8 then [] else (d.reachedLevels nv x.1 i).map (fun l => (x.1, i, l)))) } }
  let d := ((d.set R.PWR_DOM_LO.ON 0 0 3).set R.FUS_STATUS.FUSING 0 0 (b2n fuseEn)).annal 5 2 0x11 0 []
  let d := if d.fuseMapOk then d.set R.PWR_STAT.BOOT_STEP 0 0 2 else (d.set R.FUS_STATUS.MAP_ERR 0 0 1).bootHalt 3
  (nv, d.emit (.psq 0 true))

/-- POR_N_RELEASE, R509, R522, R525, R527. Not due while POR_N is high. -/
def execPorNRelease (fuseEn : Bool) (s : State) : Host.Outcome State Fault Refusal :=
  onBoth true (fun x => if x.2.pwr.porN then x else release x.1 x.2 fuseEn) s

/-- A supply reports power good: the next one is enabled, or boot goes on. -/
def Dev.supplyGood (nv : NonVol) (d : Dev) (f : Flash) : Dev :=
  match d.pwr.await with
  | none => d
  | some (n, _) =>
    let d : Dev := { d with pwr := { d.pwr with supplies := modifyAt d.pwr.supplies n (fun _ => true), await := none } }
    if n < 5 then { d with pwr := { d.pwr with await := some (n + 1, d.now) } }.emit (.psq (n + 1) true)
    else
      let d := d.domainsOn
      bootOn nv (if d.pwr.halt then d else d.set R.PWR_STAT.BOOT_STEP 0 0 3) f

/-- SUPPLY_POWER_GOOD, R509, R520 to R524. Not due without a supply being awaited. -/
def execSupplyPowerGood (flash : Flash) (s : State) : Host.Outcome State Fault Refusal :=
  onDev true (fun nv d => d.supplyGood nv flash) s

/-- SUPPLY_GOOD_TIMEOUT, R509, R523. Not due before 2 ms after the enable. -/
def execSupplyGoodTimeout (s : State) : Host.Outcome State Fault Refusal :=
  onDev true (fun _ d =>
    match d.pwr.await with
    | some (_, t) => if t + 2000000 ≤ d.now then { d with pwr := { d.pwr with await := none } }.bootFail 1 true else d
    | none => d) s

/-! ### Power states (R512 to R515) -/

def Dev.refused (d : Dev) : Dev := d.set R.PWR_STAT.REQ_ERR 0 0 1

/-- R514. -/
def Dev.requestIdle (d : Dev) : Dev :=
  let free := d.cal.entries.isEmpty && d.reqs.isEmpty && d.ing.binds.isEmpty &&
    (decide (d.topo = 0) || d.bit R.PLK_GSTAT.QUIET 0 0)
  if free then { d with pwr := { d.pwr with idleFrom := d.pwr.state, state := .idle } }.set R.PWR_STAT.STATE 0 0 2 else d.refused

/-- PWR_REQ_IDLE, R514. -/
def execPwrReqIdle (s : State) : Host.Outcome State Fault Refusal :=
  onDev true (fun _ d => if d.hostUp then d.wakeIdle.requestIdle else d) s

/-- R515. -/
def Dev.requestStandby (d : Dev) : Dev :=
  let free := d.wbs.all (fun w => d.isSafe w.part) && d.ing.binds.isEmpty &&
    (!d.bit R.SAF_STATUS.OPER 0 0 || d.bit R.SAF_STATUS.SAFE 0 0)
  if free then
    let d := d.wbs.foldl (fun d w => d.unload w) d
    let d := d.resetHost .linkDown
    let d := (d.set R.PWR_DOM_LO.ON 0 0 3).set R.PWR_DOM_HI.ON 0 0 (if d.bit R.PWR_CFG.T2_RET 0 0 then 0xC00 else 0)
    { d with pwr := { d.pwr with state := .standby } }
  else d.refused

/-- PWR_REQ_STANDBY, R515. -/
def execPwrReqStandby (s : State) : Host.Outcome State Fault Refusal :=
  onDev true (fun _ d => if d.hostUp then d.wakeIdle.requestStandby else d) s

/-- Registers of TIM. -/
def timCells (m : SMap (BitVec 128)) : SMap (BitVec 128) := m.filter (fun c => decide (blockOf c.1 = 2))

/-- The wake from STANDBY: as POR_N, but for the time bases, TIM's configuration and ANN; T2 keeps its contents where it
has refreshed itself. -/
def standbyWake (nv : NonVol) (d : Dev) (f : Flash) : Dev :=
  let ret := d.bit R.PWR_CFG.T2_RET 0 0
  let m : Mem := { Mem.reset with
    cells := if ret then d.mem.cells.filter (fun c => decide (tierOf c.1 = 2)) else []
    poison := if ret then d.mem.poison.filter (fun c => decide (tierOf (64 * c.1) = 2)) else []
    upset := if ret then d.mem.upset.filter (fun c => decide (tierOf (64 * c.1) = 2)) else []
    zero := if ret then d.mem.zero else [] }
  let e := senseFuses nv { d.cleared with
    regs := timCells d.regs, buf := timCells d.buf, shadow := [], tim := d.tim, ann := d.ann, mem := m }
  let e := (e.set R.ANN_STATUS.PF_DONE 0 0 (d.get R.ANN_STATUS.PF_DONE 0 0)).set R.ANN_STATUS.LOST 0 0 (d.get R.ANN_STATUS.LOST 0 0)
  let e : Dev := { e with pwr := { e.pwr with
    porN := true, pwrFailN := d.pwr.pwrFailN, cmc := d.pwr.cmc, state := .active, porAt := d.now, supplies := List.replicate 6 true
    jtagOpen := d.pwr.jtagOpen, perstN := false } }
  bootOn nv (e.domainsOn.set R.PWR_STAT.BOOT_STEP 0 0 3) f

/-- STANDBY_WAKE, R515, R519. Not due in another state. -/
def execStandbyWake (flash : Flash) (s : State) : Host.Outcome State Fault Refusal :=
  onDev true (fun nv d => if d.pwr.state = .standby then standbyWake nv d flash else d) s

/-- R512: a domain that a load waits for is on: its SRAM holds zeros, and its units have passed or failed their self-test. -/
def domainUp (nv : NonVol) (d : Dev) (n : Nat) (failed : List Island) : NonVol × Dev :=
  if n ∈ d.pwr.waking then
    let d : Dev := { d with pwr := { d.pwr with waking := d.pwr.waking.filter (fun x => decide (x ≠ n)) } }
    let d : Dev := if 2 ≤ n ∧ n < 18 then { d with mem := d.mem.wipe (sliceBase ((n - 2) / 4) ((n - 2) % 4)) sliceSize } else d
    hardFaults nv (d.setDomain n true).syncPower failed
  else (nv, d)

/-- DOMAIN_POWER_UP_DONE, R512. Not due for a domain that is not being switched on. -/
def execDomainPowerUpDone (d : Nat) (failed : List Island) (s : State) : Host.Outcome State Fault Refusal :=
  onBoth (decide (d < 48) && failed.all siteOk) (fun x => domainUp x.1 x.2 d failed) s

/-! ### Thermal limit (R518) -/

def Dev.tjMax (d : Dev) : Int := toSigned 8 (d.get R.PWR_THERM.TJ_MAX 0 0)

def Dev.thermHi (d : Dev) : Int := d.get R.PWR_THERM.THERM_HI 0 0

def Dev.setHw (d : Dev) (level : Nat) : Dev := (d.set R.PWR_CAP.HW 0 0 level).updateCap

/-- Since when the hottest sensor has read more than 10 °C below THERM_HI. -/
def Dev.noteCool (d : Dev) (tj : Int) : Dev :=
  { d with pwr := { d.pwr with
    belowSince := if tj < d.thermHi - 10 then (match d.pwr.belowSince with | some t => some t | none => some d.now) else none } }

/-- The thermal trip: cause 2 for the runs, set-point 3, level 3. -/
def Dev.trip (d : Dev) : Dev :=
  let d := (d.runs.filter (fun r => r.started.isSome)).foldl (fun d r => d.setRun r.id (fun x => x.addCause 2)) d
  ((d.set R.PWR_THERM.TRIPPED 0 0 1).setVdd 3).setHw 3

/-- What follows a reading of the hottest sensor. -/
def Dev.thermalAct (d : Dev) (tj : Int) : Dev :=
  let e := if 118 ≤ tj then (d.noteCool tj).trip else d.noteCool tj
  if 125 < tj then e.dangerous 0xF 0 0 true none else e

/-- A reading of the hottest sensor. -/
def Dev.thermal (d : Dev) (tj : Int) : Dev := (d.set R.PWR_THERM.TJ_MAX 0 0 (ofSigned 8 (satSigned 8 tj))).thermalAct tj

/-- THERMAL_SAMPLE, R518. -/
def execThermalSample (tj : Int) (s : State) : Host.Outcome State Fault Refusal :=
  onDev true (fun _ d => if d.pwr.porN then d.thermal tj else d) s

/-- An instant of the reference clock lies at least `n` back, or has never been. -/
def Dev.since (d : Dev) (t : Option Nat) (n : Nat) : Bool := match t with | some x => decide (x + n ≤ d.now) | none => true

/-- THERMAL_HW_RAISE, R518. Not due below THERM_HI or within 10 ms of the last raise. -/
def execThermalHwRaise (s : State) : Host.Outcome State Fault Refusal :=
  onDev true (fun _ d =>
    if d.pwr.porN && decide (d.thermHi ≤ d.tjMax ∧ d.get R.PWR_CAP.HW 0 0 < 3) && d.since d.pwr.lastRaise 10000000 then
      { d with pwr := { d.pwr with lastRaise := some d.now } }.setHw (d.get R.PWR_CAP.HW 0 0 + 1)
    else d) s

/-- THERMAL_HW_LOWER, R518. Not due before 1 s below THERM_HI − 10 °C or within 1 s of the last lowering. -/
def execThermalHwLower (s : State) : Host.Outcome State Fault Refusal :=
  onDev true (fun _ d =>
    if d.pwr.porN && d.pwr.belowSince.isSome && decide (0 < d.get R.PWR_CAP.HW 0 0) && d.since d.pwr.belowSince 1000000000 &&
        d.since d.pwr.lastLower 1000000000 then
      { d with pwr := { d.pwr with lastLower := some d.now } }.setHw (d.get R.PWR_CAP.HW 0 0 - 1)
    else d) s

/-! ### Fuse programming (R527) -/

/-- Bits of a fuse word that the locks close. -/
def Dev.closedBits (d : Dev) (w : Nat) : Nat :=
  let int := if bitOf (d.fuse 3) 31 then 1 else 0
  let mfg := if bitOf (d.fuse 5) 31 then 1 else 0
  let all := 0xFFFFFFFF
  if w < 3 ∨ 136 ≤ w then mfg * all
  else if w = 6 ∨ w = 7 ∨ (37 ≤ w ∧ w < 40) then 0
  else if w = 5 then Nat.lor (int * 0x7F00FFFF) (mfg * 0x80000000)
  else int * all

/-- A word closed as a whole, or the data names a closed bit. -/
def Dev.fuseLocked (d : Dev) (w data : Nat) : Bool :=
  let c := d.closedBits w
  decide (c = 0xFFFFFFFF ∨ Nat.land c data ≠ 0)

/-- A write of 1 to FUS_PROG_CTRL.GO. One word is programmed at a time. -/
def Dev.program (nv : NonVol) (d : Dev) : Dev :=
  let w := d.get R.FUS_PROG_ADDR.WORD 0 0
  let data := d.get R.FUS_PROG_DATA.DATA 0 0
  let err (e : Nat) : Dev := d.set R.FUS_PROG_CTRL.ERR 0 0 e
  if d.pwr.prog.isSome then d
  else if !d.pwr.fusing then err 3
  else if d.fuseLocked w data then err 1
  else if 32 ≤ nv.fuseRows then err 2
  else
    ((({ d with pwr := { d.pwr with prog := some (w, data) } } : Dev).set R.FUS_PROG_CTRL.ERR 0 0 0).set R.FUS_PROG_CTRL.DONE 0 0 0).set
      R.FUS_PROG_CTRL.BUSY 0 0 1

/-- FUSE_PROGRAM, R527. -/
def execFuseProgram (s : State) : Host.Outcome State Fault Refusal :=
  onDev true (fun nv d => if d.hostUp then d.wakeIdle.program nv else d) s

/-- Programming ends: the word is read back, and moves to the lowest free spare row when a bit does not read 1. -/
def programDone (nv : NonVol) (d : Dev) (readback : Nat) : NonVol × Dev :=
  match d.pwr.prog with
  | none => (nv, d)
  | some (w, data) =>
    let old := nv.fuseNow w
    let want := Nat.lor old data
    let good := decide (Nat.land readback want = want)
    let v := if good then Nat.lor readback old else want
    let nv : NonVol := { nv with fuses := SMap.write 0 nv.fuses w (BitVec.ofNat 32 v), fuseRows := nv.fuseRows + b2n (!good) }
    let d : Dev := { d with pwr := { d.pwr with prog := none } }
    let d := ((d.set R.FUS_PROG_CTRL.BUSY 0 0 0).set R.FUS_PROG_CTRL.DONE 0 0 1).set R.FUS_PROG_DATA.DATA 0 0 v
    if good then (nv, d)
    else
      let d := (d.set R.FUS_PROG_CTRL.REMAP 0 0 1).set R.FUS_STATUS.SPARES_USED 0 0 nv.fuseRows
      (nv, (d.syncPool nv 10 0).spareWarn nv 10 0)

/-- FUSE_PROGRAM_DONE, R527. Not due without a word being programmed. -/
def execFuseProgramDone (readback : W32) (s : State) : Host.Outcome State Fault Refusal :=
  onBoth true (fun x => programDone x.1 x.2 readback.toNat) s

/-! ### JTAG (R519, R526) -/

/-- DEBUG of the fuses. -/
def Dev.debugMode (d : Dev) : Nat := bitsOf (d.fuse 3) 18 17

/-- TRST_N_RESET, R519. -/
def execTrstNReset (s : State) : Host.Outcome State Fault Refusal :=
  onDev true (fun _ d => { d with pwr := { d.pwr with jtagOpen := d.pwr.porN && decide (d.debugMode = 0) } }) s

/-- JTAG_CHALLENGE, R526: refused while the safety partition is operational outside the safe state. -/
def execJtagChallenge (signed : Bool) (s : State) : Host.Outcome State Fault Refusal :=
  onDev true (fun _ d =>
    if d.pwr.porN && decide (d.debugMode = 1) && signed && !(d.bit R.SAF_STATUS.OPER 0 0 && !d.safeNow) then
      { d with pwr := { d.pwr with jtagOpen := true } }
    else d) s

/-- PMC_FREEZE, R499: acts at the write. -/
def execPmcFreeze (freeze : Bool) (s : State) : Host.Outcome State Fault Refusal :=
  onDev true (fun _ d => if d.hostUp then d.wakeIdle.set R.PMC_CTRL.FREEZE 0 0 (b2n freeze) else d) s

end Sys2Proof.Machine
end

