-- ==== Sys2Proof/Machine/RegRows.lean ====
section
/-! DEFINITION. The commands of registers and mailboxes, and the configuration parity checker (R111, R154, R189, R408,
R478, R480 to R496, R504). -/

namespace Sys2Proof.Machine

/-! ### Who reaches what (R82, R482, R523, R527) -/

/-- The function exists. -/
def viaOk (v : Via) : Bool := match v with | .pf0 => true | .vf f => decide (1 ≤ f ∧ f < 32)

/-- Only PF0 is served in a boot halt and in fusing mode. -/
def Dev.hears (d : Dev) (v : Via) : Bool := match v with | .pf0 => true | .vf _ => !(d.pwr.halt || d.pwr.fusing)

/-- The function reaches the window of context `c`: PF0 through the global view, a VF its own. -/
def Dev.reachesCtx (d : Dev) (v : Via) (c : Nat) : Bool :=
  d.hears v && (match v with | .pf0 => true | .vf f => decide (d.ctxFn c = some f))

def viaPf0 (v : Via) : Bool := match v with | .pf0 => true | .vf _ => false

def boxOf (m : Mbx) : Option Nat := match m with | .glb => none | .ctx n _ => some n

def boxVia (m : Mbx) : Via := match m with | .glb => .pf0 | .ctx _ v => v

def boxOk (m : Mbx) : Bool := (match m with | .glb => true | .ctx n _ => decide (n < 2048)) && viaOk (boxVia m)

def Dev.reachesBox (d : Dev) (m : Mbx) : Bool := match m with | .glb => true | .ctx n v => d.reachesCtx v n

/-- PF0 offset of offset `off` of a VF's BAR0: the window of its context in slot off / 0x400. -/
def Dev.vfOffset (d : Dev) (f off : Nat) : Option Nat :=
  match (d.fnCtxs f).find? (fun c => decide (d.get R.CTX_FUNC.SLOT c 0 = off / 0x400)) with
  | some c => if off < 0x10000 ∧ off % 0x400 ≠ 0x38 then some (0x200000 + 0x400 * c + off % 0x400) else none
  | none => none

/-! ### The mailbox (R489 to R492) -/

/-- Table 18-3: some true for a write selector, some false for a read selector, none outside the table. -/
def selDir (sel : Nat) : Option Bool :=
  if sel = 0x100 ∨ (0x200 ≤ sel ∧ sel < 0x20C) ∨ (0x210 ≤ sel ∧ sel < 0x220) ∨ (0x310 ≤ sel ∧ sel < 0x320) ∨
      (0x400 ≤ sel ∧ sel < 0x420) ∨ (0x800 ≤ sel ∧ sel < 0x880) then some false
  else if (0x280 ≤ sel ∧ sel < 0x28C) ∨ (0x290 ≤ sel ∧ sel < 0x2A8) ∨ (0x300 ≤ sel ∧ sel < 0x310) ∨
      (0xC00 ≤ sel ∧ sel < 0xC80) then some true
  else if 0x80000000 ≤ sel ∧ (match regAt (sel - 0x80000000) with | some (r, _, _) => r.has .mb | none => false) = true then some false
  else none

/-- The selectors that a VF's window of context `c` may use (R501, R504). -/
def Dev.vfMay (d : Dev) (c sel : Nat) : Bool :=
  decide (sel = 0x100 ∨ (0x200 ≤ sel ∧ sel < 0x204)) || (decide (0x800 ≤ sel ∧ sel < 0x880) && d.ctrOwned (sel - 0x800) c)

/-- T64 of the last rising edge of trigger `t`, 0 before any. -/
def Trig.lastRise (x : Trig) : Nat := if x.emitted = 0 then 0 else if x.pol then x.lastEdge + x.width else x.lastEdge

/-- The 128 bits that a read selector latches. -/
def Dev.selValue (nv : NonVol) (d : Dev) (sel : Nat) : Nat :=
  let w64 (x y : Nat) : Nat := x % 2 ^ 64 + 2 ^ 64 * (y % 2 ^ 64)
  if sel = 0x100 then w64 (d.fuse 0 + 2 ^ 32 * d.fuse 1) (cellOf d.regs R.GLB_ID.reg.base + 2 ^ 32 * (nv.boots % 2 ^ 32))
  else if sel < 0x204 then w64 (d.tbVal (sel - 0x200)) (d.liveCell (R.TB_STATUS.reg.off (sel - 0x200) 0))
  else if sel < 0x208 then w64 (d.tb (sel - 0x204)).stamp d.tim.syncEdges
  else if sel < 0x20C then w64 (ofSigned 64 (d.tb (sel - 0x208)).offPri) (ofSigned 64 (d.tb (sel - 0x208)).offShd)
  else if sel < 0x220 then
    let x := d.trig (sel - 0x210)
    w64 x.lastRise (x.emitted + 2 ^ 32 * x.skipped)
  else if sel < 0x320 then
    match (d.csi (sel - 0x310)).result with
    | some (nack, bs) => w64 (1 + 2 * b2n nack) (fieldAt bs 0 8)
    | none => 0
  else if sel < 0x420 then d.flagWord (sel - 0x400)
  else if sel < 0x880 then w64 (d.ctr (sel - 0x800)).val (cellOf d.regs (R.PMC_CTR_CFG.reg.off (sel - 0x800) 0))
  else cellOf d.regs (sel - 0x80000000)

/-- Words DATA0 to DATA3 of a mailbox. -/
def Dev.putWords (d : Dev) (b v : Nat) : Dev :=
  (List.range 4).foldl (fun d k => d.putReg (b + 4 + 4 * k) (v / 2 ^ (32 * k) % 2 ^ 32)) d

/-- A write to MBX_SEL: a read selector latches at once. -/
def Dev.mbxSel (nv : NonVol) (d : Dev) (box : Option Nat) (pf0 : Bool) (sel : Nat) : Dev :=
  let b := mbxBase box
  let d := d.putReg b sel
  match selDir sel with
  | none => d.putReg (b + 20) 0x10
  | some w =>
    if !pf0 && !d.vfMay (box.getD 0) sel then d.putReg (b + 20) 0x20
    else if w then d.putReg (b + 20) 0
    else (d.putWords b (d.selValue nv sel)).putReg (b + 20) 1

/-- ERR 1 or 2 stands (R491). -/
def Dev.mbxClosed (d : Dev) (box : Option Nat) : Bool :=
  let e := bitsOf (cellOf d.regs (mbxBase box + 20)) 7 4
  decide (e = 1 ∨ e = 2)

/-- A write to MBX_DATAk. -/
def Dev.mbxData (d : Dev) (box : Option Nat) (k v : Nat) : Dev :=
  if d.mbxClosed box then d else d.putReg (mbxBase box + 4 + 4 * k) v

/-- R189: an I3C transfer is taken, or refused for its length or a port without I3C. -/
def Dev.takeI3c (d : Dev) (box : Option Nat) (p d0 d2 d3 : Nat) : Dev :=
  let st := mbxBase box + 20
  let n := bitsOf d0 11 8
  if n = 0 ∨ 8 < n ∨ d.get R.CSI_CFG.I3C_MODE p 0 = 3 then d.putReg st 0x50
  else
    let first := (d.csi p).xfers.isEmpty
    let d := (d.putReg st 1).setCsi p (fun c => { c with xfers := c.xfers ++ [[d0, d2, d3]], result := none })
    if first then d.startI3c p else d

/-- A write of 1 to MBX_VALID.VALID. -/
def Dev.mbxValid (d : Dev) (box : Option Nat) : Dev :=
  let b := mbxBase box
  let sel := cellOf d.regs b
  let st := cellOf d.regs (b + 20)
  let w (k : Nat) : Nat := cellOf d.regs (b + 4 + 4 * k)
  if d.mbxClosed box then d
  else match selDir sel with
    | none => d
    | some false => d.putReg (b + 20) (putBits st 7 4 4)
    | some true =>
      if 0x300 ≤ sel ∧ sel < 0x310 then d.takeI3c box (sel - 0x300) (w 0) (w 2) (w 3)
      else
        let x : MbxWrite := ⟨box, sel, w 0 + 2 ^ 32 * w 1, w 2 + 2 ^ 32 * w 3⟩
        (({ d with mbxPend := d.mbxPend ++ [x] } : Dev).putReg (b + 20) 1).syncPend

/-- A whole write through a mailbox. -/
def Dev.mbxWrite (nv : NonVol) (d : Dev) (box : Option Nat) (pf0 : Bool) (sel lo hi : Nat) : Dev :=
  let d := d.mbxSel nv box pf0 sel
  let d := ((d.mbxData box 0 (lo % 2 ^ 32)).mbxData box 1 (lo / 2 ^ 32 % 2 ^ 32)).mbxData box 2 (hi % 2 ^ 32)
  (d.mbxData box 3 (hi / 2 ^ 32 % 2 ^ 32)).mbxValid box

/-- A mailbox access of a function that reaches the mailbox. -/
def mbxRow (m : Mbx) (ok : Bool) (f : NonVol → Dev → Dev) (s : State) : Host.Outcome State Fault Refusal :=
  onDev (ok && boxOk m) (fun nv d => if d.hostUp && d.reachesBox m then f nv d.wakeIdle else d) s

def mbxReadRow (m : Mbx) (ok : Bool) (sel : Nat) (s : State) : Host.Outcome State Fault Refusal :=
  mbxRow m ok (fun nv d => d.mbxSel nv (boxOf m) (viaPf0 (boxVia m)) sel) s

def mbxWriteRow (m : Mbx) (ok : Bool) (sel lo hi : Nat) (s : State) : Host.Outcome State Fault Refusal :=
  mbxRow m ok (fun nv d => d.mbxWrite nv (boxOf m) (viaPf0 (boxVia m)) sel lo hi) s

/-- DEVICE_ID_READ, R492. -/
def execDeviceIdRead (m : Mbx) (s : State) : Host.Outcome State Fault Refusal := mbxReadRow m true 0x100 s

/-- TB_READ, R154. -/
def execTbRead (m : Mbx) (n : Nat) (s : State) : Host.Outcome State Fault Refusal := mbxReadRow m (decide (n < 4)) (0x200 + n) s

/-- SYNC_IN_STAMP_READ, R154. -/
def execSyncInStampRead (m : Mbx) (n : Nat) (s : State) : Host.Outcome State Fault Refusal :=
  mbxReadRow m (decide (n < 4)) (0x204 + n) s

/-- TB_OFFSET_READ, R154. -/
def execTbOffsetRead (m : Mbx) (n : Nat) (s : State) : Host.Outcome State Fault Refusal :=
  mbxReadRow m (decide (n < 4)) (0x208 + n) s

/-- TRIG_EDGE_READ, R154. -/
def execTrigEdgeRead (m : Mbx) (t : Nat) (s : State) : Host.Outcome State Fault Refusal :=
  mbxReadRow m (decide (t < 16)) (0x210 + t) s

/-- TB_SET, R152, R154. -/
def execTbSet (m : Mbx) (n : Nat) (v : W64) (s : State) : Host.Outcome State Fault Refusal :=
  mbxWriteRow m (decide (n < 4)) (0x280 + n) v.toNat 0 s

/-- TB_STEP, R152, R154. -/
def execTbStep (m : Mbx) (n : Nat) (v : W64) (s : State) : Host.Outcome State Fault Refusal :=
  mbxWriteRow m (decide (n < 4)) (0x284 + n) v.toNat 0 s

/-- TB_PRESET, R154, R174. -/
def execTbPreset (m : Mbx) (n : Nat) (v : W64) (s : State) : Host.Outcome State Fault Refusal :=
  mbxWriteRow m (decide (n < 4)) (0x288 + n) v.toNat 0 s

/-- TRIG_WINDOW_WRITE, R154, R171. -/
def execTrigWindowWrite (m : Mbx) (t : Nat) (start stop : W64) (s : State) : Host.Outcome State Fault Refusal :=
  mbxWriteRow m (decide (t < 16)) (0x290 + t) start.toNat stop.toNat s

/-- GM_FILTER_WRITE, R154. -/
def execGmFilterWrite (m : Mbx) (slot : Nat) (id : BitVec 64) (port : BitVec 16) (s : State) :
    Host.Outcome State Fault Refusal :=
  mbxWriteRow m (decide (slot < 8)) (0x2A0 + slot) id.toNat port.toNat s

/-- I3C_TRANSFER, R189. -/
def execI3cTransfer (m : Mbx) (p : Nat) (d0 d2 d3 : W32) (s : State) : Host.Outcome State Fault Refusal :=
  mbxWriteRow m (decide (p < 16)) (0x300 + p) d0.toNat (d2.toNat + 2 ^ 32 * d3.toNat) s

/-- The oldest transfer of port `p` ends, and the next starts. -/
def Dev.endI3c (d : Dev) (p : Nat) (nack : Bool) (bytes : List Byte) : Dev :=
  match (d.csi p).xfers with
  | x :: r =>
    if (d.csi p).discovering then d
    else
      let w := x.getD 0 0
      let bs := if bitOf w 7 && !nack then slice bytes 0 (bitsOf w 11 8) else []
      (d.setCsi p (fun c => { c with xfers := r, result := some (nack, bs) })).startI3c p
  | [] => d

/-- I3C_TRANSFER_DONE, R189. Not due without a transfer, or while discovery runs. -/
def execI3cTransferDone (p : Nat) (nack : Bool) (bytes : List Byte) (s : State) : Host.Outcome State Fault Refusal :=
  onDev (decide (p < 16)) (fun _ d => d.endI3c p nack bytes) s

/-- I3C_RESULT_READ, R189. -/
def execI3cResultRead (m : Mbx) (p : Nat) (s : State) : Host.Outcome State Fault Refusal :=
  mbxReadRow m (decide (p < 16)) (0x310 + p) s

/-- FLAG_SNAPSHOT_READ, R408. -/
def execFlagSnapshotRead (m : Mbx) (n : Nat) (s : State) : Host.Outcome State Fault Refusal :=
  mbxReadRow m (decide (n < 32)) (0x400 + n) s

/-- COUNTER_READ, R504. -/
def execCounterRead (m : Mbx) (n : Nat) (s : State) : Host.Outcome State Fault Refusal :=
  mbxReadRow m (decide (n < 128)) (0x800 + n) s

/-- COUNTER_WRITE, R504. -/
def execCounterWrite (m : Mbx) (n : Nat) (v : W64) (s : State) : Host.Outcome State Fault Refusal :=
  mbxWriteRow m (decide (n < 128)) (0xC00 + n) v.toNat 0 s

/-- MB_REGISTER_READ, R492, R493: any offset; those that are no MB register's base set ERR 1. -/
def execMbRegisterRead (m : Mbx) (off : Nat) (s : State) : Host.Outcome State Fault Refusal :=
  mbxReadRow m (decide (off < 2 ^ 31)) (0x80000000 + off) s

/-! ### Register writes (R480, R483, R486, R488) -/

/-- R486. -/
def maskedWrite (old v : Nat) : Nat :=
  sumBy (fun i => if (if bitOf v (16 + i) then bitOf v i else bitOf old i) then 2 ^ i else 0) (List.range 16)

/-- R488: clear the W1C bits written with 1, in force and in what waits to be applied. -/
def Dev.clearW1c (d : Dev) (r : RegRow) (off v : Nat) : Dev :=
  let fs := r.flds.filter (fun f => decide (f.acc = .w1c))
  let hit := fs.foldl (fun m f => putBits m f.hi f.lo (bitsOf v f.hi f.lo)) 0
  if hit = 0 then d else d.putReg off (cellOf d.regs off - Nat.land (cellOf d.regs off) hit)

/-- The fields of GLB act at the write. -/
def Dev.writeGlb (nv : NonVol) (d : Dev) (off v : Nat) : Dev :=
  if off = 0x10 then d.mbxSel nv none true v
  else if 0x14 ≤ off ∧ off ≤ 0x20 then d.mbxData none ((off - 0x14) / 4) v
  else if off = 0x24 then (if bitOf v 0 then d.mbxValid none else d)
  else if off = R.GLB_UPDATE.reg.base then d.takeWrites (v % 2 ^ 18)
  else if off = R.GLB_PURGE.reg.base then
    let d := if bitOf v 31 then d.purgeDevice else d
    d.purgeParts (v % 2 ^ 16)
  else if off = R.GLB_SWFLAG.reg.base then d.set R.GLB_SWFLAG.FLAGS 0 0 (maskedWrite (d.get R.GLB_SWFLAG.FLAGS 0 0) v)
  else if off = R.GLB_SCRATCH.reg.base then d.set R.GLB_SCRATCH.DATA 0 0 v
  else d

/-- The registers of a context window that act at the write; the others are buffered. -/
def Dev.writeWindow (nv : NonVol) (d : Dev) (r : RegRow) (c x v : Nat) (pf0 : Bool) : Dev :=
  let off := 0x200000 + 0x400 * c + x
  if x = 0xC then (if bitOf v 0 then d.abortWrite c else d)
  else if x = 0x3C then (if bitOf v 0 then d.updateCtx c pf0 else d)
  else if x = 0x100 then d.mbxSel nv (some c) pf0 v
  else if 0x104 ≤ x ∧ x ≤ 0x110 then d.mbxData (some c) ((x - 0x104) / 4) v
  else if x = 0x114 then (if bitOf v 0 then d.mbxValid (some c) else d)
  else if d.denies off then d.denied
  else if r.flds.any (fun f => decide (f.acc = .rw) && (pf0 || !pf0Only off f)) then
    d.buffer r off v (fun f => pf0 || !pf0Only off f)
  else d

/-- Registers outside GLB and the windows: those with a field that acts at the write, then the buffered ones. -/
def Dev.writeBlock (nv : NonVol) (d : Dev) (r : RegRow) (i off v : Nat) : Dev :=
  if r.base = R.PWR_CFG.reg.base then
    let d := d.buffer r off v (fun f => decide (f.lo ≠ R.PWR_CFG.REQ.lo))
    if v % 4 = 1 then d.requestIdle else if v % 4 = 2 then d.requestStandby else d
  else if r.base = R.PWR_CAP.reg.base then (d.set R.PWR_CAP.HOST 0 0 (v % 4)).updateCap
  else if r.base = R.PMC_CTRL.reg.base then d.set R.PMC_CTRL.FREEZE 0 0 (v % 2)
  else if r.base = R.SGC_SYNC.reg.base then (if bitOf v 31 then d.syncLanes else d)
  else if r.base = R.PSE_INDEX_CTL.reg.base then
    let d := d.buffer r off v (fun f => decide (f.lo ≠ R.PSE_INDEX_CTL.REBUILD.lo))
    if bitOf v 31 then d.beginRebuild i else d
  else if r.base = R.MAP_JOURNAL.reg.base then (if bitOf v 31 then d.clearJournal else d)
  else if r.base = R.PLK_SLEEP.reg.base then
    let d := d.buffer r off v (fun f => decide (f.lo ≠ R.PLK_SLEEP.WAKE.lo))
    if bitOf v 30 then d.wakeRequest else d
  else if r.base = R.FUS_PROG_ADDR.reg.base then d.set R.FUS_PROG_ADDR.WORD 0 0 v
  else if r.base = R.FUS_PROG_DATA.reg.base then d.set R.FUS_PROG_DATA.DATA 0 0 v
  else if r.base = R.FUS_PROG_CTRL.reg.base then (if bitOf v 31 then d.program nv else d)
  else if r.base = R.ANN_RD_ADDR.reg.base then d.set R.ANN_RD_ADDR.ADDR 0 0 (bitsOf v 25 2)
  else if d.denies off then d.denied
  else if r.has .rw then d.buffer r off v (fun _ => true)
  else d

/-- In a boot halt only GLB, ANN, PWR, FUS and the context windows answer (R523). -/
def Dev.answers (d : Dev) (b : Nat) : Bool := !d.pwr.halt || decide (b ∈ [0, 14, 16, 17, 18])

/-- A write to the register at a PF0 offset; an offset that no chapter defines is ignored. -/
def Dev.writeReg (nv : NonVol) (d : Dev) (off v : Nat) (pf0 : Bool) : Dev :=
  match regAt off with
  | none => d
  | some (r, i, _) =>
    if d.answers (blockOf off) then
      let d := d.clearW1c r off v
      match blockOf off with
      | 0 => d.writeGlb nv off v
      | 18 => d.writeWindow nv r (windowCtx off) ((off - 0x200000) % 0x400) v pf0
      | _ => d.writeBlock nv r i off v
    else d

/-- A write to BAR0 of a function. -/
def Dev.writeBar (nv : NonVol) (d : Dev) (via : Via) (off size v : Nat) : Dev :=
  if size ≠ 4 ∨ off % 4 ≠ 0 then d.set R.GLB_STATUS.ACC_ERR 0 0 1
  else match via with
    | .pf0 => d.writeReg nv off v true
    | .vf f => (match d.vfOffset f off with | some o => d.writeReg nv o v false | none => d)

/-- REGISTER_WRITE, R480, R482, R483, R486, R488. -/
def execRegisterWrite (via : Via) (off size : Nat) (v : W32) (s : State) : Host.Outcome State Fault Refusal :=
  onDev (viaOk via) (fun nv d => if d.hostUp && d.hears via then d.wakeIdle.writeBar nv via off size v.toNat else d) s

/-- CTX_UPDATE, R485. -/
def execCtxUpdate (ctx : Nat) (via : Via) (s : State) : Host.Outcome State Fault Refusal :=
  onDev (decide (ctx < 2048) && viaOk via) (fun _ d =>
    if d.hostUp && d.reachesCtx via ctx then d.wakeIdle.updateCtx ctx (viaPf0 via) else d) s

/-- GLB_UPDATE, R484. -/
def execGlbUpdate (blocks : BitVec 18) (s : State) : Host.Outcome State Fault Refusal :=
  onDev true (fun _ d => if d.hostUp then d.wakeIdle.takeWrites blocks.toNat else d) s

/-- BLOCK_STROBE_APPLY, R484: the oldest strobe of the block. Not due without one. -/
def execBlockStrobeApply (block : Nat) (s : State) : Host.Outcome State Fault Refusal :=
  onDev (decide (block < 18)) (fun _ d => if d.pwr.porN then d.endStrobe block else d) s

/-- R478: the word at ADDR, and ADDR moves on by 4 within the 64 MiB of the annals. -/
def Dev.annWord (nv : NonVol) (d : Dev) : Dev :=
  let a := d.get R.ANN_RD_ADDR.ADDR 0 0
  let x := readAnnals nv d (4 * a) 4
  (x.2.set R.ANN_RD_DATA.DATA 0 0 (leNat x.1)).addWrap R.ANN_RD_ADDR.ADDR 0 0 1

/-- ANN_RD_DATA_READ, R478. A VF has no offset that reaches it. -/
def execAnnRdDataRead (via : Via) (s : State) : Host.Outcome State Fault Refusal :=
  onDev (viaOk via) (fun nv d => if d.hostUp && viaPf0 via then d.wakeIdle.annWord nv else d) s

/-! ### Configuration parity (R494 to R496) -/

/-- The run has a step running in the block of the register, or in the context of the window. -/
def Dev.stepIn (d : Dev) (off : Nat) (r : Run) : Bool :=
  let task (p : Task → Bool) : Bool := r.tasks.any (fun t => !t.done && p t)
  r.started.isSome &&
    (match blockOf off with
     | 5 => task (fun t => decide (t.sort = 0 ∧ t.kind ≤ 5))
     | 6 => task (fun t => decide (t.sort = 0 ∧ 5 < t.kind)) || (d.costOf r.wb r.job).recs.any (fun c => decide (c.res / 64 = 8))
     | 7 => !r.copies.isEmpty || d.movers.any (fun m => m.2.any (fun c => decide (c.run = r.id)))
     | 8 => r.streams.any (fun s => decide (s.array = (off - 0x80000) / 0x4000) && s.inStep && !s.ended)
     | 9 => task (fun t => decide (t.sort = 1))
     | 10 => task (fun t => decide (t.sort = 2))
     | 11 => d.plk.ops.any (fun o => decide (o.run = r.id))
     | 18 => decide (r.ctx = some (windowCtx off))
     | _ => false)

/-- A stream of the safety partition comes from the source. -/
def Dev.safeBound (d : Dev) (p : Bind → Bool) : Bool := d.ing.binds.any (fun b => d.isSafe b.part && p b)

/-- R496: the fault is in a block that serves the safety partition. -/
def Dev.servesSafety (d : Dev) (off : Nat) : Bool :=
  let src (x : StreamSrc → Bool) : Bool := d.safeBound (fun b => x (srcOf b.stream))
  let b := blockOf off
  let x := off % 0x10000
  d.safePart.isSome &&
    (decide (b ∈ [0, 1, 2, 7, 12, 13, 16, 17]) ||
     (match b with
      | 3 =>
        if x < 0x400 then src (fun s => match s with | .csi p _ => decide (p = (x - 0x100) / 32) | _ => false)
        else if x < 0x600 then src (fun s => match s with | .eth n => decide (n = (x - 0x400) / 8) | _ => false)
        else if x < 0x800 then
          let e := (x - 0x600) / 64
          src (fun s => match s with | .eth n => decide (d.get R.ETH_SM_CFG.PORT n 0 = e) | _ => false) ||
            (decide (e = 1) && d.saf.chans.any (fun c => decide (c.link ≠ 0)))
        else if x < 0xA00 then src (fun s => match s with | .spi i => decide (i = (x - 0x800) / 32) | _ => false)
        else if x < 0xC00 then src (fun s => match s with | .enc i => decide (i = (x - 0xA00) / 16) | _ => false)
        else src (fun s => match s with | .sdi c => decide (c = (x - 0xC00) / 16) | _ => false)
      | 4 => d.safeBound (fun b => match laneOf b.stream with | some l => laneReg l off | none => false)
      | 9 => d.isSafe ((off - R.SLX_TAU.reg.base) / 4)
      | 10 => d.idxs.any (fun i => decide (i.slot = (off - R.PSE_INDEX_CTL.reg.base) / 32) && d.isSafe i.part)
      | 18 => (d.ctxPart (windowCtx off)).any (fun p => d.isSafe p)
      | _ => false))

/-- CFG_PARITY_FAULT in the register at `off`, which has been restored. -/
def Dev.cfgFault (d : Dev) (off : Nat) : Dev :=
  let d := (d.runs.filter (fun r => d.stepIn off r)).foldl (fun d r => d.finishRun r 0x21 0 0 []) d
  let d := ((d.set R.GLB_CFG_LOG.TIME 0 0 (d.tbVal 0)).addSat R.GLB_CFG_LOG.COUNT 0 0 1).set R.GLB_CFG_LOG.OFFSET 0 0 off
  let d := (d.set R.GLB_STATUS.CFG_FAULT 0 0 1).annal 2 0 (if blockOf off = 18 then 0 else blockOf off) 0 (leBytes 4 off)
  let d := d.event 0 0x7C 0 0 (leBytes 3 off) 0
  if d.servesSafety off then d.dangerous 8 0 0 false none else d

/-- CFG_PARITY_SCAN, R494, R495: the checker finds the register at `off` upset. -/
def execCfgParityScan (off : Nat) (s : State) : Host.Outcome State Fault Refusal :=
  onDev (cfgReg off) (fun _ d => if d.pwr.porN then d.cfgFault off else d) s

end Sys2Proof.Machine
end

