-- ==== Sys2Proof/Machine/TimRows.lean ====
section
/-! DEFINITION. The commands of time bases, network time, triggers and SYNC_IN (05_time.md). -/

namespace Sys2Proof.Machine

/-- TRIG_PULSE, R171. -/
def execTrigPulse (t : Nat) (s : State) : Host.Outcome State Fault Refusal :=
  onDev (decide (t < 16)) (fun _ d => d.pulse t) s

/-- SYNC_IN_EDGE, R174. -/
def execSyncInEdge (rising : Bool) (s : State) : Host.Outcome State Fault Refusal :=
  onDev true (fun _ d =>
    if d.bit R.SYNC_CFG.EN 0 0 && (rising != d.bit R.SYNC_CFG.EDGE 0 0) then
      let d := d.syncIn
      if d.bit R.SYNC_CFG.SGC_RESET 0 0 then d.syncLanes else d
    else d) s

/-- RX_SYNC, R161: a one-step Sync completes; a two-step one waits for its Follow_Up. -/
def execRxSync (s : Nat) (m : PtpMsg) (st : State) : Host.Outcome State Fault Refusal :=
  onDev (decide (s < 8)) (fun _ d =>
    if d.isRx s && d.accepts s m then
      let recv := (List.range 4).map d.tbVal
      if m.twoStep then d.setSlot s (fun x => { x with pendSync := some (m.seqId.toNat, recv, toSigned 64 m.correction.toNat) })
      else d.completeSync s recv ((ptpT64 m : Int) + ptpCorr m)
    else d) st

/-- RX_FOLLOW_UP, R161. -/
def execRxFollowUp (s : Nat) (m : PtpMsg) (st : State) : Host.Outcome State Fault Refusal :=
  onDev (decide (s < 8)) (fun _ d =>
    if d.isRx s && d.accepts s m then
      match (d.slot s).pendSync with
      | some (q, recv, c) =>
        if q = m.seqId.toNat then d.completeSync s recv ((ptpT64 m : Int) + (c + toSigned 64 m.correction.toNat) / 65536) else d
      | none => d
    else d) st

/-- RX_ANNOUNCE, R160 and R167: a grandmaster that the filter does not name faults the slot. -/
def execRxAnnounce (s : Nat) (m : PtpMsg) (st : State) : Host.Outcome State Fault Refusal :=
  onDev (decide (s < 8)) (fun _ d =>
    if d.isRx s && d.accepts s m then
      if (d.slot s).filtId ≠ 0 ∧ m.gmId.toNat ≠ (d.slot s).filtId then d.faultSlot s
      else d.setSlot s (fun x => { x with lastAnn := some d.now, ann := some m })
    else d) st

/-- RX_DELAY_REQ, R163: a transmitter answers. -/
def execRxDelayReq (s : Nat) (m : PtpMsg) (st : State) : Host.Outcome State Fault Refusal :=
  onDev (decide (s < 8)) (fun _ d =>
    if d.isTx s then
      let r := d.ptpMsg s m.seqId.toNat (d.slotNow s) false
      d.sendPtp s 9 { r with
        reqId := m.clockId, reqPort := m.portNum, correction := m.correction,
        logInterval := BitVec.ofNat 8 (ofSigned 8 (toSigned 4 (d.get R.PTP_SLOT_ANN.LOG_DELAY s 0))) }
    else d) st

/-- RX_DELAY_RESP, R161: the path delay of a Delay Request-Response slot. -/
def execRxDelayResp (s : Nat) (m : PtpMsg) (st : State) : Host.Outcome State Fault Refusal :=
  onDev (decide (s < 8)) (fun _ d =>
    match (d.slot s).exch with
    | some (q, t3, _, _) =>
      if d.isRx s && d.accepts s m && decide (q = m.seqId.toNat ∧ m.reqId.toNat = d.clockId s) then
        let t4 : Int := (ptpT64 m : Int) - ptpCorr m
        d.setSlot s (fun x => { x with exch := none, delay := (x.syncDiff + (t4 - t3)) / 2 })
      else d
    | none => d) st

/-- RX_PDELAY_REQ, R163 and R164. -/
def execRxPdelayReq (s : Nat) (m : PtpMsg) (st : State) : Host.Outcome State Fault Refusal :=
  onDev (decide (s < 8)) (fun _ d =>
    if d.isTx s then
      let one := d.bit R.PTP_SLOT.ONE_STEP s 0
      let t2 := d.slotNow s
      let turn := (Config.measured d.freeIx).toNat
      let d := { d with freeIx := d.freeIx + 1 }
      if one then
        let r := d.ptpMsg s m.seqId.toNat 0 false
        d.sendPtp s 3 { r with
          reqId := m.clockId, reqPort := m.portNum, correction := m.correction + BitVec.ofNat 64 (turn * 65536) }
      else
        let r := d.ptpMsg s m.seqId.toNat t2 true
        let f := d.ptpMsg s m.seqId.toNat (t2 + turn) false
        (d.sendPtp s 3 { r with reqId := m.clockId, reqPort := m.portNum }).sendPtp s 10
          { f with reqId := m.clockId, reqPort := m.portNum, correction := m.correction }
    else d) st

/-- RX_PDELAY_RESP, R161: in one step the delay follows; in two steps the follow-up gives the responder's transmit time. -/
def execRxPdelayResp (s : Nat) (m : PtpMsg) (st : State) : Host.Outcome State Fault Refusal :=
  onDev (decide (s < 8)) (fun _ d =>
    match (d.slot s).exch with
    | some (q, t1, _, _) =>
      if d.isRx s && decide (q = m.seqId.toNat ∧ m.reqId.toNat = d.clockId s) then
        let t4 := d.slotNow s
        if m.twoStep then d.setSlot s (fun x => { x with exch := some (q, t1, t4, (ptpT64 m : Int) + ptpCorr m) })
        else d.setSlot s (fun x => { x with exch := none, delay := (((t4 : Int) - t1) - ptpCorr m) / 2 })
      else d
    | none => d) st

/-- RX_PDELAY_RESP_FOLLOW_UP, R161. -/
def execRxPdelayRespFollowUp (s : Nat) (m : PtpMsg) (st : State) : Host.Outcome State Fault Refusal :=
  onDev (decide (s < 8)) (fun _ d =>
    match (d.slot s).exch with
    | some (q, t1, t4, t2) =>
      if d.isRx s && decide (q = m.seqId.toNat ∧ t4 ≠ 0 ∧ m.reqId.toNat = d.clockId s) then
        d.setSlot s (fun x => { x with
          exch := none, delay := (((t4 : Int) - t1) - ((ptpT64 m : Int) + ptpCorr m - t2)) / 2 })
      else d
    | none => d) st

/-- RX_PTP_DROPPED, R160. -/
def execRxPtpDropped (port : Nat) (st : State) : Host.Outcome State Fault Refusal :=
  onDev (decide (port < 2)) (fun _ d => { d with ing := { d.ing with ptpDrops := modifyAt d.ing.ptpDrops port (· + 1) } }) st

/-- PTP_SYNC_TX_TIMER, R163 and R164. -/
def execPtpSyncTxTimer (s : Nat) (st : State) : Host.Outcome State Fault Refusal :=
  onDev (decide (s < 8)) (fun _ d =>
    if d.isTx s && d.passed (d.slot s).lastTxSync (d.syncInt s) then
      let q := (d.slot s).seqSync
      let one := d.bit R.PTP_SLOT.ONE_STEP s 0
      let t := d.slotNow s
      let d := d.setSlot s (fun x => { x with lastTxSync := some d.now, seqSync := (q + 1) % 65536 })
      if one then d.sendPtp s 0 (d.ptpMsg s q t false)
      else (d.sendPtp s 0 (d.ptpMsg s q 0 true)).sendPtp s 8 (d.ptpMsg s q t false)
    else d) st

/-- The Announce of a transmitter (R163). -/
def Dev.announce (d : Dev) (s : Nat) : PtpMsg :=
  let m := d.ptpMsg s (d.slot s).seqAnn (d.slotNow s) false
  let m := { m with
    prio1 := BitVec.ofNat 8 (d.get R.PTP_SLOT_ANN.PRIORITY1 s 0)
    prio2 := BitVec.ofNat 8 (d.get R.PTP_SLOT_ANN.PRIORITY2 s 0)
    logInterval := BitVec.ofNat 8 (ofSigned 8 (toSigned 4 (d.get R.PTP_SLOT_ANN.LOG_ANN s 0))) }
  let n := d.get R.PTP_SLOT.TX_BASE s 0
  let up := if d.get R.TB_STATUS.STATE n 0 = 2 then (d.slot (d.activeSlot n)).ann else none
  match up with
  | some a => { m with
      gmId := a.gmId, clockQuality := a.clockQuality, timeSource := a.timeSource, utcOffset := a.utcOffset,
      utcValid := a.utcValid, steps := a.steps + 1 }
  | none => { m with
      gmId := BitVec.ofNat 64 (d.clockId s), clockQuality := 0xF8FEFFFF, timeSource := 0xA0,
      utcOffset := BitVec.ofNat 16 (d.get R.TIM_UTC.UTC_OFFSET 0 0), utcValid := d.bit R.TIM_UTC.UTC_VALID 0 0, steps := 0 }

/-- PTP_ANNOUNCE_TX_TIMER, R163. -/
def execPtpAnnounceTxTimer (s : Nat) (st : State) : Host.Outcome State Fault Refusal :=
  onDev (decide (s < 8)) (fun _ d =>
    if d.isTx s && d.passed (d.slot s).lastTxAnn (d.annInt s) then
      (d.sendPtp s 11 (d.announce s)).setSlot s (fun x => { x with lastTxAnn := some d.now, seqAnn := (x.seqAnn + 1) % 65536 })
    else d) st

/-- PTP_DELAY_REQ_TX_TIMER, R163: Delay_Req with PROFILE 0, Pdelay_Req otherwise. -/
def execPtpDelayReqTxTimer (s : Nat) (st : State) : Host.Outcome State Fault Refusal :=
  onDev (decide (s < 8)) (fun _ d =>
    if d.isRx s && d.passed (d.slot s).lastTxDelay (d.delayInt s) then
      let q := (d.slot s).seqDelay
      let t := d.slotNow s
      let d := d.setSlot s (fun x => { x with
        lastTxDelay := some d.now, seqDelay := (q + 1) % 65536, exch := some (q, t, 0, 0) })
      d.sendPtp s (if d.get R.PTP_SLOT.PROFILE s 0 = 0 then 1 else 2) (d.ptpMsg s q 0 false)
    else d) st

/-- SYNC_TIMEOUT, R167: no Sync for 3 intervals. -/
def execSyncTimeout (s : Nat) (st : State) : Host.Outcome State Fault Refusal :=
  onDev (decide (s < 8)) (fun _ d =>
    if d.isRx s && (d.slot s).lastSync.isSome && d.passed (d.slot s).lastSync (3 * d.syncInt s) && !(d.slot s).faulted then
      d.faultSlot s
    else d) st

/-- ANNOUNCE_TIMEOUT, R167. -/
def execAnnounceTimeout (s : Nat) (st : State) : Host.Outcome State Fault Refusal :=
  onDev (decide (s < 8)) (fun _ d =>
    let n := max 2 (min 10 (d.get R.PTP_SLOT_ANN.ANN_TIMEOUT s 0))
    if d.isRx s && (d.slot s).lastAnn.isSome && d.passed (d.slot s).lastAnn (n * d.annInt s) && !(d.slot s).faulted then
      d.faultSlot s
    else d) st

end Sys2Proof.Machine
end

