-- ==== Sys2Proof/Machine/VisRows.lean ====
section
/-! DEFINITION. The vision engines' commands: one output band each (08_vision_engines.md). -/

namespace Sys2Proof.Machine

/-- Output rows of band `j`. -/
def bandRows (s : List Byte) (j : Nat) : Nat × Nat := (j * sfBandRows s, min (sfHeight s) ((j + 1) * sfBandRows s))

/-- Rows y0 to y1 − 1. -/
def rowsOf (p : Nat × Nat) : List Nat := (List.range (p.2 - p.1)).map (fun k => p.1 + k)

/-- An image output made row by row: each row's bytes and whether it derives from missing input. -/
def imageBand (s : List Byte) (j : Nat) (row : Nat → List Byte × Bool) : BandOut :=
  let ys := rowsOf (bandRows s j)
  let rs := ys.map row
  { parts := rowParts (sfStride s) (j * sfBandRows s) (rs.map (·.1)), bad := ys.find? (fun y => (row y).2), count := 0, limit := false }

/-- The image of the input with a role. -/
def imgRole (ins : List InData) (role : Nat) : Img :=
  (((ins.find? (fun v => decide (refRole v.ref.ref = role))).map InData.img)).getD ⟨0, 0, 1, 1, 0, []⟩

/-- R235, R236. -/
def rwuEngine : Engine := fun d _ _ t ins cal j =>
  let p := t.par
  let r : Rwu := ⟨fieldAt p 0 1, fieldAt p 1 1, fieldAt p 2 1, fieldAt p 3 1, fieldAt p 4 2,
    (List.range 9).map (fun i => fieldAt p (8 + 4 * i) 4), cal⟩
  let img := ((ins.head?).map InData.img).getD ⟨0, 0, 1, 1, 0, []⟩
  (d, .ok (t.outs.map (fun o =>
    let s := d.descAt (refDa o)
    imageBand s j (fun y => r.row img (sfWidth s) (sfFormat s) y))))

/-- R237. -/
def pyrEngine : Engine := fun d _ _ t ins _ j =>
  let mean := decide (fieldAt t.par 1 1 = 1)
  let img := ((ins.head?).map InData.img).getD ⟨0, 0, 1, 1, 0, []⟩
  (d, .ok (t.outs.map (fun o =>
    let s := d.descAt (refDa o)
    let l := img.level mean (outRole o)
    imageBand s j (fun y => (slice l.bytes (y * l.w * l.bpp) (l.w * l.bpp), decide (l.miss ≤ y))))))

/-- R238 to R241. -/
def fduEngine : Engine := fun d _ _ t ins cal j =>
  let p := t.par
  let f : Fdu := ⟨fieldAt p 0 1, fieldAt p 1 1, fieldAt p 2 1, fieldAt p 3 1, max 1 (fieldAt p 4 2), fieldAt p 6 1,
    fieldAt p 8 2, cal⟩
  let img := (((ins.head?).map InData.img).getD ⟨0, 0, 1, 1, 0, []⟩).to8 f.shift
  (d, .ok (t.outs.map (fun o =>
    let s := d.descAt (refDa o)
    let q := bandRows s j
    let all := f.band img q.1 q.2
    let fs := all.take (f.maxFeat - t.count)
    let recs := fs.flatMap (fun c => f.record img c.1 c.2.1 c.2.2)
    { parts := [(0x1000 + 64 * t.count, recs), (64 + 2 * j, leBytes 2 fs.length)]
      bad := (rowsOf q).find? (fun y => decide (img.miss ≤ y + 18 ∧ img.miss < img.h))
      count := t.count + fs.length
      limit := decide (t.limited = 1 ∨ fs.length < all.length) })))

/-- R242, R243. -/
def sduEngine : Engine := fun d _ _ t ins _ j =>
  let p := t.par
  let s : Sdu := ⟨fieldAt p 0 2, 64 * (fieldAt p 2 1 + 1), fieldAt p 3 1, fieldAt p 4 1, fieldAt p 5 1, fieldAt p 6 1,
    fieldAt p 7 1, fieldAt p 8 1, fieldAt p 12 4⟩
  let l := (imgRole ins 0).to8 s.shift
  let r := (imgRole ins 1).to8 s.shift
  let miss := min l.miss r.miss
  (d, .ok (t.outs.map (fun o =>
    let f := d.descAt (refDa o)
    imageBand f j (fun y =>
      ((List.range l.w).flatMap (fun x =>
        match outRole o, s.pixel l r x y with
        | 0, some v => leBytes 2 v.1
        | 0, none => leBytes 2 0xFFFF
        | 1, some v => leBytes 1 v.2
        | 1, none => [0]
        | _, some v => leBytes 2 (s.depth v.1)
        | _, none => [0, 0]), decide (miss ≤ y + 3 ∧ miss < l.h))))))

/-- R244. -/
def ofuEngine : Engine := fun d _ _ t ins _ j =>
  let p := t.par
  let imgs := (List.range (2 * fieldAt p 0 1)).map (fun k => (imgRole ins k).to8 (fieldAt p 6 1))
  (d, .ok (t.outs.map (fun o =>
    let s := d.descAt (refDa o)
    imageBand s j (fun y =>
      let ps := (List.range (sfWidth s)).map (fun x => ofuPoint p imgs x y)
      (ps.flatMap (fun q =>
        match outRole o, q.1 with
        | 0, some v => leBytes 2 v.1 ++ leBytes 2 v.2.1
        | 0, none => leBytes 2 0x8000 ++ leBytes 2 0x8000
        | _, some v => leBytes 1 v.2.2
        | _, none => [0]), ps.any (·.2))))))

/-- RWU_BAND, R231: one step of unit RWU`u`; `ue` is an uncorrectable error in its internal store (R234). -/
def execRwuBand (u : Nat) (ue : Bool) (s : State) : Host.Outcome State Fault Refusal :=
  onDev (decide (u < 8)) (fun _ d => d.unitStep rwuEngine 1 u ue) s

/-- PYR_BAND. -/
def execPyrBand (u : Nat) (ue : Bool) (s : State) : Host.Outcome State Fault Refusal :=
  onDev (decide (u < 4)) (fun _ d => d.unitStep pyrEngine 2 u ue) s

/-- FDU_BAND. -/
def execFduBand (u : Nat) (ue : Bool) (s : State) : Host.Outcome State Fault Refusal :=
  onDev (decide (u < 8)) (fun _ d => d.unitStep fduEngine 3 u ue) s

/-- SDU_BAND. -/
def execSduBand (u : Nat) (ue : Bool) (s : State) : Host.Outcome State Fault Refusal :=
  onDev (decide (u < 4)) (fun _ d => d.unitStep sduEngine 4 u ue) s

/-- OFU_BAND. -/
def execOfuBand (u : Nat) (ue : Bool) (s : State) : Host.Outcome State Fault Refusal :=
  onDev (decide (u < 4)) (fun _ d => d.unitStep ofuEngine 5 u ue) s

end Sys2Proof.Machine
end

