-- ==== Sys2Proof/Machine/Dispatch.lean ====
section
/-! DEFINITION. The meaning of each command, one arm per row of the table. -/

namespace Sys2Proof.Machine

def exec (i : Instr) (s : State) : Host.Outcome State Fault Refusal :=
  match i with
  | .submissionDoorbell ctx off size v => Sys2Proof.Machine.execSubmissionDoorbell ctx off size v s
  | .completionDoorbell ctx off size v => Sys2Proof.Machine.execCompletionDoorbell ctx off size v s
  | .descriptorFetch ctx r => Sys2Proof.Machine.execDescriptorFetch ctx r s
  | .msixModerationTimer ctx => Sys2Proof.Machine.execMsixModerationTimer ctx s
  | .loadWb req first second => Sys2Proof.Machine.execLoadWb req first second s
  | .unloadWb req => Sys2Proof.Machine.execUnloadWb req s
  | .admitEntry req => Sys2Proof.Machine.execAdmit req s
  | .revoke req => Sys2Proof.Machine.execRevoke req s
  | .run req => Sys2Proof.Machine.execRun req s
  | .copy req h => Sys2Proof.Machine.execCopy req h s
  | .solve req h => Sys2Proof.Machine.execSolve req h s
  | .search req h => Sys2Proof.Machine.execSearch req h s
  | .insert req h => Sys2Proof.Machine.execInsert req h s
  | .delete req h => Sys2Proof.Machine.execDelete req h s
  | .publishEpoch req => Sys2Proof.Machine.execPublishEpoch req s
  | .mapCommit req => Sys2Proof.Machine.execMapCommit req s
  | .windowQuery req => Sys2Proof.Machine.execWindowQuery req s
  | .counterDump req => Sys2Proof.Machine.execCounterDump req s
  | .streamAttach req => Sys2Proof.Machine.execStreamAttach req s
  | .streamDetach req => Sys2Proof.Machine.execStreamDetach req s
  | .ctxAbort ctx => Sys2Proof.Machine.execCtxAbort ctx s
  | .abortDone ctx => Sys2Proof.Machine.execAbortDone ctx s
  | .partitionPurge parts => Sys2Proof.Machine.execPartitionPurge parts s
  | .devicePurge => Sys2Proof.Machine.execDevicePurge s
  | .purgeDone part => Sys2Proof.Machine.execPurgeDone part s
  | .functionLevelReset fn => Sys2Proof.Machine.execFunctionLevelReset fn s
  | .hostReset kind => Sys2Proof.Machine.execHostReset kind s
  | .orphanQuiesceDone fn => Sys2Proof.Machine.execOrphanQuiesceDone fn s
  | .ctxUpdate ctx via => Sys2Proof.Machine.execCtxUpdate ctx via s
  | .glbUpdate blocks => Sys2Proof.Machine.execGlbUpdate blocks s
  | .blockStrobeApply block => Sys2Proof.Machine.execBlockStrobeApply block s
  | .registerWrite via off size v => Sys2Proof.Machine.execRegisterWrite via off size v s
  | .annRdDataRead via => Sys2Proof.Machine.execAnnRdDataRead via s
  | .deviceIdRead m => Sys2Proof.Machine.execDeviceIdRead m s
  | .tbRead m n => Sys2Proof.Machine.execTbRead m n s
  | .syncInStampRead m n => Sys2Proof.Machine.execSyncInStampRead m n s
  | .tbOffsetRead m n => Sys2Proof.Machine.execTbOffsetRead m n s
  | .trigEdgeRead m t => Sys2Proof.Machine.execTrigEdgeRead m t s
  | .tbSet m n v => Sys2Proof.Machine.execTbSet m n v s
  | .tbStep m n v => Sys2Proof.Machine.execTbStep m n v s
  | .tbPreset m n v => Sys2Proof.Machine.execTbPreset m n v s
  | .trigWindowWrite m t start stop => Sys2Proof.Machine.execTrigWindowWrite m t start stop s
  | .gmFilterWrite m slot id port => Sys2Proof.Machine.execGmFilterWrite m slot id port s
  | .i3cTransfer m p d0 d2 d3 => Sys2Proof.Machine.execI3cTransfer m p d0 d2 d3 s
  | .i3cTransferDone p nack bytes => Sys2Proof.Machine.execI3cTransferDone p nack bytes s
  | .i3cResultRead m p => Sys2Proof.Machine.execI3cResultRead m p s
  | .flagSnapshotRead m n => Sys2Proof.Machine.execFlagSnapshotRead m n s
  | .counterRead m n => Sys2Proof.Machine.execCounterRead m n s
  | .counterWrite m n v => Sys2Proof.Machine.execCounterWrite m n v s
  | .mbRegisterRead m off => Sys2Proof.Machine.execMbRegisterRead m off s
  | .entryRelease slot => Sys2Proof.Machine.execEntryRelease slot s
  | .runEligible run => Sys2Proof.Machine.execRunEligible run s
  | .aperiodicRelease req => Sys2Proof.Machine.execAperiodicRelease req s
  | .runComplete run => Sys2Proof.Machine.execRunComplete run s
  | .deadlineWatchdogExpiry run => Sys2Proof.Machine.execDeadlineWatchdogExpiry run s
  | .orbitBoundary part => Sys2Proof.Machine.execOrbitBoundary part s
  | .readmissionDone => Sys2Proof.Machine.execReadmissionDone s
  | .pwrCapHostWrite level => Sys2Proof.Machine.execPwrCapHostWrite level s
  | .rateMonitorBelowFloor u => Sys2Proof.Machine.execRateMonitorBelowFloor u s
  | .unitBelowFloor1ms u => Sys2Proof.Machine.execUnitBelowFloor1ms u s
  | .canarySample u measured predicted => Sys2Proof.Machine.execCanarySample u measured predicted s
  | .wearWindowEnd => Sys2Proof.Machine.execWearWindowEnd s
  | .canaryStall u => Sys2Proof.Machine.execCanaryStall u s
  | .eclipseStep part => Sys2Proof.Machine.execEclipseStep part s
  | .scrubStep part tier granules => Sys2Proof.Machine.execScrubStep part tier granules s
  | .selfTestStep part failed reproduced => Sys2Proof.Machine.execSelfTestStep part failed reproduced s
  | .moverStep tmv => Sys2Proof.Machine.execMoverStep tmv s
  | .t2BudgetExpiry run addr => Sys2Proof.Machine.execT2BudgetExpiry run addr s
  | .t3BudgetExpiry tag => Sys2Proof.Machine.execT3BudgetExpiry tag s
  | .t3ReadCompletion tag r => Sys2Proof.Machine.execT3ReadCompletion tag r s
  | .nop a q => Sys2Proof.Machine.execNop a q s
  | .endRun a q => Sys2Proof.Machine.execEndRun a q s
  | .yield a q => Sys2Proof.Machine.execYield a q s
  | .br a q => Sys2Proof.Machine.execBr a q s
  | .brFlag a q => Sys2Proof.Machine.execBrFlag a q s
  | .brAcmp a q => Sys2Proof.Machine.execBrAcmp a q s
  | .loop a q => Sys2Proof.Machine.execLoop a q s
  | .checkpoint a q => Sys2Proof.Machine.execCheckpoint a q s
  | .rollback a q => Sys2Proof.Machine.execRollback a q s
  | .stamp a q => Sys2Proof.Machine.execStamp a q s
  | .event a q => Sys2Proof.Machine.execEvent a q s
  | .fence a q => Sys2Proof.Machine.execFence a q s
  | .aset a q => Sys2Proof.Machine.execAset a q s
  | .aadd a q => Sys2Proof.Machine.execAadd a q s
  | .asub a q => Sys2Proof.Machine.execAsub a q s
  | .aaddi a q => Sys2Proof.Machine.execAaddi a q s
  | .amuli a q => Sys2Proof.Machine.execAmuli a q s
  | .aand a q => Sys2Proof.Machine.execAand a q s
  | .aor a q => Sys2Proof.Machine.execAor a q s
  | .ashift a q => Sys2Proof.Machine.execAshift a q s
  | .alc a q => Sys2Proof.Machine.execAlc a q s
  | .ald a q h => Sys2Proof.Machine.execAld a q h s
  | .ast a q => Sys2Proof.Machine.execAst a q s
  | .flagRead a q => Sys2Proof.Machine.execFlagRead a q s
  | .mma a q => Sys2Proof.Machine.execMma a q s
  | .accLd a q => Sys2Proof.Machine.execAccLd a q s
  | .accSt a q => Sys2Proof.Machine.execAccSt a q s
  | .vfp a q => Sys2Proof.Machine.execVfp a q s
  | .vint a q => Sys2Proof.Machine.execVint a q s
  | .vcmp a q => Sys2Proof.Machine.execVcmp a q s
  | .vsel a q => Sys2Proof.Machine.execVsel a q s
  | .vcvt a q => Sys2Proof.Machine.execVcvt a q s
  | .vreq a q => Sys2Proof.Machine.execVreq a q s
  | .vred a q => Sys2Proof.Machine.execVred a q s
  | .vmov a q => Sys2Proof.Machine.execVmov a q s
  | .move a q h => Sys2Proof.Machine.execMove a q h s
  | .put a q => Sys2Proof.Machine.execPut a q s
  | .get a q => Sys2Proof.Machine.execGet a q s
  | .atomicAdd a q => Sys2Proof.Machine.execAtomicAdd a q s
  | .atomicMax a q => Sys2Proof.Machine.execAtomicMax a q s
  | .flagSet a q => Sys2Proof.Machine.execFlagSet a q s
  | .waitFlag a q => Sys2Proof.Machine.execWaitFlag a q s
  | .waitFlags a q => Sys2Proof.Machine.execWaitFlags a q s
  | .barrier a q => Sys2Proof.Machine.execBarrier a q s
  | .flagWaitSatisfied a q => Sys2Proof.Machine.execFlagWaitSatisfied a q s
  | .barrierRelease tree => Sys2Proof.Machine.execBarrierRelease tree s
  | .seqOperationComplete a q idx fault => Sys2Proof.Machine.execSeqOperationComplete a q idx fault s
  | .rwuBand u ue => Sys2Proof.Machine.execRwuBand u ue s
  | .pyrBand u ue => Sys2Proof.Machine.execPyrBand u ue s
  | .fduBand u ue => Sys2Proof.Machine.execFduBand u ue s
  | .sduBand u ue => Sys2Proof.Machine.execSduBand u ue s
  | .ofuBand u ue => Sys2Proof.Machine.execOfuBand u ue s
  | .renderLm island ue => Sys2Proof.Machine.execRenderLm island ue s
  | .renderVox island ue => Sys2Proof.Machine.execRenderVox island ue s
  | .liftVox island ue => Sys2Proof.Machine.execLiftVox island ue s
  | .liftFeat island ue => Sys2Proof.Machine.execLiftFeat island ue s
  | .slxWave group h faults => Sys2Proof.Machine.execSlxWave group h faults s
  | .pseWalkerStep walker h ue => Sys2Proof.Machine.execPseWalkerStep walker h ue s
  | .shardWaitExpiry run => Sys2Proof.Machine.execShardWaitExpiry run s
  | .indexChangeApply slot h => Sys2Proof.Machine.execIndexChangeApply slot h s
  | .indexEpochRetire slot => Sys2Proof.Machine.execIndexEpochRetire slot s
  | .indexRebuildStep slot => Sys2Proof.Machine.execIndexRebuildStep slot s
  | .pseIndexRebuild slot => Sys2Proof.Machine.execPseIndexRebuild slot s
  | .mapCommitApply => Sys2Proof.Machine.execMapCommitApply s
  | .mapEpochRetire => Sys2Proof.Machine.execMapEpochRetire s
  | .mapRebuildStep => Sys2Proof.Machine.execMapRebuildStep s
  | .mapJournalClr => Sys2Proof.Machine.execMapJournalClr s
  | .propagationStep track => Sys2Proof.Machine.execPropagationStep track s
  | .visualCorrection run track src hdr inputs storeUe rollbackNs => Sys2Proof.Machine.execVisualCorrection run track src hdr inputs storeUe rollbackNs s
  | .speculativeFrameStart track run seg => Sys2Proof.Machine.execSpeculativeFrameStart track run seg s
  | .poseOutput run track start jobs storeUe => Sys2Proof.Machine.execPoseOutput run track start jobs storeUe s
  | .sourceExtrapTimeout track src => Sys2Proof.Machine.execSourceExtrapTimeout track src s
  | .coastTimeout track => Sys2Proof.Machine.execCoastTimeout track s
  | .windowQueryServe req => Sys2Proof.Machine.execWindowQueryServe req s
  | .trigPulse t => Sys2Proof.Machine.execTrigPulse t s
  | .syncInEdge rising => Sys2Proof.Machine.execSyncInEdge rising s
  | .sgcSync => Sys2Proof.Machine.execSgcSync s
  | .sgcGridOutput lane bits => Sys2Proof.Machine.execSgcGridOutput lane bits s
  | .rxSync slot m => Sys2Proof.Machine.execRxSync slot m s
  | .rxFollowUp slot m => Sys2Proof.Machine.execRxFollowUp slot m s
  | .rxAnnounce slot m => Sys2Proof.Machine.execRxAnnounce slot m s
  | .rxDelayReq slot m => Sys2Proof.Machine.execRxDelayReq slot m s
  | .rxDelayResp slot m => Sys2Proof.Machine.execRxDelayResp slot m s
  | .rxPdelayReq slot m => Sys2Proof.Machine.execRxPdelayReq slot m s
  | .rxPdelayResp slot m => Sys2Proof.Machine.execRxPdelayResp slot m s
  | .rxPdelayRespFollowUp slot m => Sys2Proof.Machine.execRxPdelayRespFollowUp slot m s
  | .rxPtpDropped port => Sys2Proof.Machine.execRxPtpDropped port s
  | .ptpSyncTxTimer slot => Sys2Proof.Machine.execPtpSyncTxTimer slot s
  | .ptpAnnounceTxTimer slot => Sys2Proof.Machine.execPtpAnnounceTxTimer slot s
  | .ptpDelayReqTxTimer slot => Sys2Proof.Machine.execPtpDelayReqTxTimer slot s
  | .syncTimeout slot => Sys2Proof.Machine.execSyncTimeout slot s
  | .announceTimeout slot => Sys2Proof.Machine.execAnnounceTimeout slot s
  | .csiLp11Detect p => Sys2Proof.Machine.execCsiLp11Detect p s
  | .csiDiscoveryDone p ident => Sys2Proof.Machine.execCsiDiscoveryDone p ident s
  | .csiFrameStart p vc => Sys2Proof.Machine.execCsiFrameStart p vc s
  | .csiPacket p k => Sys2Proof.Machine.execCsiPacket p k s
  | .csiFrameEnd p vc => Sys2Proof.Machine.execCsiFrameEnd p vc s
  | .csiStrobeEdge p rising => Sys2Proof.Machine.execCsiStrobeEdge p rising s
  | .csiLinkLossTimeout p => Sys2Proof.Machine.execCsiLinkLossTimeout p s
  | .streamLossTimeout stream => Sys2Proof.Machine.execStreamLossTimeout stream s
  | .ethStreamPacket k => Sys2Proof.Machine.execEthStreamPacket k s
  | .ethLinkDown e => Sys2Proof.Machine.execEthLinkDown e s
  | .spiDrdyEdge u rising => Sys2Proof.Machine.execSpiDrdyEdge u rising s
  | .spiPollTimer u => Sys2Proof.Machine.execSpiPollTimer u s
  | .spiTransactionDone u bytes => Sys2Proof.Machine.execSpiTransactionDone u bytes s
  | .encoderEdge u a b => Sys2Proof.Machine.execEncoderEdge u a b s
  | .encoderIndex u => Sys2Proof.Machine.execEncoderIndex u s
  | .encoderLatchTimer u => Sys2Proof.Machine.execEncoderLatchTimer u s
  | .encoderFault u => Sys2Proof.Machine.execEncoderFault u s
  | .sdiClockLoss c => Sys2Proof.Machine.execSdiClockLoss c s
  | .sdiDataStuck c => Sys2Proof.Machine.execSdiDataStuck c s
  | .sdiRecovery c => Sys2Proof.Machine.execSdiRecovery c s
  | .slotCloseTimeout stream => Sys2Proof.Machine.execSlotCloseTimeout stream s
  | .twinPoseCompare channel => Sys2Proof.Machine.execTwinPoseCompare channel s
  | .safeStateReleaseFrame channel => Sys2Proof.Machine.execSafeStateReleaseFrame channel s
  | .safePulseEdge => Sys2Proof.Machine.execSafePulseEdge s
  | .safeReadbackCheck a b => Sys2Proof.Machine.execSafeReadbackCheck a b s
  | .safeClrEdge rising => Sys2Proof.Machine.execSafeClrEdge rising s
  | .clearanceTestDone passed => Sys2Proof.Machine.execClearanceTestDone passed s
  | .xcmpPartnerTimeout channel => Sys2Proof.Machine.execXcmpPartnerTimeout channel s
  | .safetyFlit src m => Sys2Proof.Machine.execSafetyFlit src m s
  | .supplyOutOfRange c => Sys2Proof.Machine.execSupplyOutOfRange c s
  | .safLockstepMismatch => Sys2Proof.Machine.execSafLockstepMismatch s
  | .cfgParityScan off => Sys2Proof.Machine.execCfgParityScan off s
  | .annalsRecordWrite => Sys2Proof.Machine.execAnnalsRecordWrite s
  | .pwrFailFall => Sys2Proof.Machine.execPwrFailFall s
  | .powerFailFinalRecord => Sys2Proof.Machine.execPowerFailFinalRecord s
  | .powerRestored => Sys2Proof.Machine.execPowerRestored s
  | .getInfo => Sys2Proof.Machine.execGetInfo s
  | .read off count => Sys2Proof.Machine.execRead off count s
  | .readSpareMap => Sys2Proof.Machine.execReadSpareMap s
  | .cmcUnresponsive => Sys2Proof.Machine.execCmcUnresponsive s
  | .porNAssert => Sys2Proof.Machine.execPorNAssert s
  | .porNRelease fuseEn => Sys2Proof.Machine.execPorNRelease fuseEn s
  | .supplyPowerGood flash => Sys2Proof.Machine.execSupplyPowerGood flash s
  | .supplyGoodTimeout => Sys2Proof.Machine.execSupplyGoodTimeout s
  | .pwrReqIdle => Sys2Proof.Machine.execPwrReqIdle s
  | .pwrReqStandby => Sys2Proof.Machine.execPwrReqStandby s
  | .standbyWake flash => Sys2Proof.Machine.execStandbyWake flash s
  | .domainPowerUpDone d failed => Sys2Proof.Machine.execDomainPowerUpDone d failed s
  | .thermalSample tj => Sys2Proof.Machine.execThermalSample tj s
  | .thermalHwRaise => Sys2Proof.Machine.execThermalHwRaise s
  | .thermalHwLower => Sys2Proof.Machine.execThermalHwLower s
  | .fuseProgram => Sys2Proof.Machine.execFuseProgram s
  | .fuseProgramDone readback => Sys2Proof.Machine.execFuseProgramDone readback s
  | .trstNReset => Sys2Proof.Machine.execTrstNReset s
  | .jtagChallenge signed => Sys2Proof.Machine.execJtagChallenge signed s
  | .pmcFreeze freeze => Sys2Proof.Machine.execPmcFreeze freeze s
  | .counterDumpTimer ctx => Sys2Proof.Machine.execCounterDumpTimer ctx s
  | .peerMemoryRequest src off tag op => Sys2Proof.Machine.execPeerMemoryRequest src off tag op s
  | .peerAcknowledgement tag a => Sys2Proof.Machine.execPeerAcknowledgement tag a s
  | .flagRelay src flag => Sys2Proof.Machine.execFlagRelay src flag s
  | .searchQuery q => Sys2Proof.Machine.execSearchQuery q s
  | .searchReply tag shard r => Sys2Proof.Machine.execSearchReply tag shard r s
  | .identityFrame port u => Sys2Proof.Machine.execIdentityFrame port u s
  | .portTrained port laneMap => Sys2Proof.Machine.execPortTrained port laneMap s
  | .replayRequest port seq => Sys2Proof.Machine.execReplayRequest port seq s
  | .portNoFlitTimeout port => Sys2Proof.Machine.execPortNoFlitTimeout port s
  | .laneLockLoss port lane => Sys2Proof.Machine.execLaneLockLoss port lane s
  | .groupStateTimer => Sys2Proof.Machine.execGroupStateTimer s
  | .heal => Sys2Proof.Machine.execHeal s
  | .quietVoteTimer => Sys2Proof.Machine.execQuietVoteTimer s
  | .quietToken t => Sys2Proof.Machine.execQuietToken t s
  | .vetoMessage => Sys2Proof.Machine.execVetoMessage s
  | .wakePattern port => Sys2Proof.Machine.execWakePattern port s
  | .plkSleepWake => Sys2Proof.Machine.execPlkSleepWake s
  | .leapRelease slot => Sys2Proof.Machine.execLeapRelease slot s
  | .pcieCompletionTimeout tag ctx => Sys2Proof.Machine.execPcieCompletionTimeout tag ctx s
  | .pcieLinkUp => Sys2Proof.Machine.execPcieLinkUp s
  | .ethFrameDropped e => Sys2Proof.Machine.execEthFrameDropped e s
  | .cmcCapRequest level => Sys2Proof.Machine.execCmcCapRequest level s

end Sys2Proof.Machine
end

