-- ==== Sys2Proof/WellFormed.lean ====
section
/-! DEFINITION. Well-formed commands: the operands name functions, contexts, ports, units, slots and streams that the
device has (R14, Table 01-1, Table 06-1, R349). A command that names another unit faults (Fault.noSuchUnit). -/

namespace Sys2Proof

/-- PF0, or VF 1 to 31 (R82). -/
def Via.wf (v : Via) : Bool :=
  match v with
  | .pf0 => true
  | .vf f => decide (1 ≤ f ∧ f < 32)

def Mbx.wf (m : Mbx) : Bool :=
  match m with
  | .glb => true
  | .ctx n v => decide (n < 2048) && v.wf

/-- The self-timed islands of R15: array columns and VXU lanes, solver groups and their spares, vision engines, map
islands, walkers, fabric and movers. -/
def Island.wf (i : Island) : Bool :=
  match i.blk with
  | 8 => decide (i.unit < 144)
  | 9 => decide (i.unit < 17)
  | 5 => decide (i.unit < 28)
  | 6 => decide (i.unit < 4)
  | 10 => decide (i.unit < 8)
  | 7 => decide (i.unit < 24)
  | _ => false

/-- What self-test names: an island, a solver core (32 + its number), a lane of the peer link (3 × port + lane). -/
def Island.siteWf (i : Island) : Bool :=
  i.wf || decide (i.blk = 9 ∧ 32 ≤ i.unit ∧ i.unit < 288) || decide (i.blk = 11 ∧ i.unit < 12)

/-- Stream numbers of Table 06-1. -/
def streamWf (s : Nat) : Bool :=
  decide (s < 0x140 ∨ (0x200 ≤ s ∧ s < 0x208) ∨ (0x210 ≤ s ∧ s < 0x218) ∨ (0x220 ≤ s ∧ s < 0x230) ∨ (0x300 ≤ s ∧ s < 0x320))

def CheckFault.wf (f : CheckFault) : Bool :=
  decide (1 ≤ f.kind ∧ f.kind ≤ 4) && (match f.site with | .column j => decide (j < 34) | .vxu => true)

/-- Bytes that a remote operation touches (R418). -/
def PeerOp.bytes (op : PeerOp) : Nat :=
  match op with
  | .put bs => bs.length
  | .get n => n
  | .atomicAdd w _ => if w then 8 else 4
  | .atomicMax w _ _ => if w then 8 else 4

/-- The units a command names exist on the device. -/
def Instr.wf (i : Instr) : Bool :=
  match i with
  | .submissionDoorbell ctx off _ _ | .completionDoorbell ctx off _ _ => decide (ctx < 2048 ∧ off < 4096)
  | .descriptorFetch ctx _ | .pcieCompletionTimeout _ ctx => decide (ctx < 2048)
  | .msixModerationTimer ctx | .ctxAbort ctx | .abortDone ctx | .counterDumpTimer ctx => decide (ctx < 2048)
  | .loadWb _ _ _ | .unloadWb _ | .admitEntry _ | .revoke _ | .run _ | .copy _ _ | .solve _ _ | .search _ _ | .insert _ _ | .delete _ _
  | .publishEpoch _ | .mapCommit _ | .windowQuery _ | .counterDump _ | .streamAttach _ | .streamDetach _ => true
  | .partitionPurge _ | .devicePurge | .hostReset _ => true
  | .purgeDone part => part.all (fun k => decide (k < 16))
  | .functionLevelReset fn | .orphanQuiesceDone fn => decide (fn < 32)
  | .ctxUpdate ctx via => decide (ctx < 2048) && via.wf
  | .glbUpdate _ => true
  | .blockStrobeApply b => decide (b < 18)
  | .registerWrite via _ _ _ | .annRdDataRead via => via.wf
  | .deviceIdRead m => m.wf
  | .tbRead m n | .syncInStampRead m n | .tbOffsetRead m n => decide (n < 4) && m.wf
  | .tbSet m n _ | .tbStep m n _ | .tbPreset m n _ => decide (n < 4) && m.wf
  | .trigEdgeRead m t | .trigWindowWrite m t _ _ => decide (t < 16) && m.wf
  | .gmFilterWrite m slot _ _ => decide (slot < 8) && m.wf
  | .i3cTransfer m p _ _ _ | .i3cResultRead m p => decide (p < 16) && m.wf
  | .i3cTransferDone p _ _ => decide (p < 16)
  | .flagSnapshotRead m n => decide (n < 32) && m.wf
  | .counterRead m n | .counterWrite m n _ => decide (n < 128) && m.wf
  | .mbRegisterRead m off => decide (off < 2 ^ 31) && m.wf
  | .entryRelease slot | .leapRelease slot => decide (slot < 16384)
  | .runEligible _ | .aperiodicRelease _ | .runComplete _ | .deadlineWatchdogExpiry _ | .readmissionDone => true
  | .orbitBoundary part | .eclipseStep part => decide (part < 16)
  | .pwrCapHostWrite _ | .cmcCapRequest _ => true
  | .rateMonitorBelowFloor i | .unitBelowFloor1ms i | .canarySample i _ _ | .canaryStall i => i.wf
  | .wearWindowEnd => true
  | .scrubStep part tier _ => decide (part < 16 ∧ tier < 4)
  | .selfTestStep part _ reproduced => decide (part < 16) && reproduced.all Island.siteWf
  | .moverStep tmv => decide (tmv < 16)
  | .t2BudgetExpiry _ _ | .t3BudgetExpiry _ | .t3ReadCompletion _ _ => true
  | .nop a q | .endRun a q | .yield a q | .br a q | .brFlag a q | .brAcmp a q | .loop a q | .checkpoint a q | .rollback a q
  | .stamp a q | .event a q | .fence a q | .aset a q | .aadd a q | .asub a q | .aaddi a q | .amuli a q | .aand a q | .aor a q
  | .ashift a q | .alc a q | .ald a q _ | .ast a q | .flagRead a q | .mma a q | .accLd a q | .accSt a q | .vfp a q | .vint a q
  | .vcmp a q | .vsel a q | .vcvt a q | .vreq a q | .vred a q | .vmov a q | .move a q _ | .put a q | .get a q | .atomicAdd a q
  | .atomicMax a q | .flagSet a q | .waitFlag a q | .waitFlags a q | .barrier a q | .flagWaitSatisfied a q =>
    decide (a < 4 ∧ q < 16)
  | .barrierRelease tree => decide (tree < 64)
  | .seqOperationComplete a q _ fault => decide (a < 4 ∧ q < 16) && fault.all CheckFault.wf
  | .rwuBand u _ | .fduBand u _ => decide (u < 8)
  | .pyrBand u _ | .sduBand u _ | .ofuBand u _ => decide (u < 4)
  | .renderLm island _ | .renderVox island _ | .liftVox island _ | .liftFeat island _ => decide (island < 4)
  | .slxWave group _ faults => decide (group < 16) && faults.all (fun f => decide (f.1 / 16 = group ∧ 1 ≤ f.2 ∧ f.2 ≤ 2))
  | .pseWalkerStep walker _ _ => decide (walker < 8)
  | .shardWaitExpiry _ => true
  | .indexChangeApply slot _ | .indexEpochRetire slot | .indexRebuildStep slot | .pseIndexRebuild slot => decide (slot < 16)
  | .mapCommitApply | .mapEpochRetire | .mapRebuildStep | .mapJournalClr => true
  | .propagationStep track | .coastTimeout track => decide (track < 32)
  | .visualCorrection _ track src _ _ _ _ => decide (track < 32 ∧ src < 32)
  | .speculativeFrameStart track _ seg => decide (track < 32 ∧ seg < 3)
  | .poseOutput _ track _ _ _ => decide (track < 32)
  | .sourceExtrapTimeout track src => decide (track < 32 ∧ src < 32)
  | .windowQueryServe _ => true
  | .trigPulse t => decide (t < 16)
  | .syncInEdge _ | .sgcSync => true
  | .sgcGridOutput lane _ => decide (lane < 24)
  | .rxSync slot _ | .rxFollowUp slot _ | .rxAnnounce slot _ | .rxDelayReq slot _ | .rxDelayResp slot _ | .rxPdelayReq slot _
  | .rxPdelayResp slot _ | .rxPdelayRespFollowUp slot _ => decide (slot < 8)
  | .rxPtpDropped port => decide (port < 2)
  | .ptpSyncTxTimer slot | .ptpAnnounceTxTimer slot | .ptpDelayReqTxTimer slot | .syncTimeout slot | .announceTimeout slot =>
    decide (slot < 8)
  | .csiLp11Detect p | .csiDiscoveryDone p _ | .csiStrobeEdge p _ | .csiLinkLossTimeout p => decide (p < 16)
  | .csiFrameStart p vc | .csiFrameEnd p vc => decide (p < 16 ∧ vc < 16)
  | .csiPacket p k => decide (p < 16 ∧ k.vc < 16)
  | .streamLossTimeout stream | .slotCloseTimeout stream => streamWf stream
  | .ethStreamPacket k => decide (k.port < 2)
  | .ethLinkDown e | .ethFrameDropped e => decide (e < 2)
  | .spiDrdyEdge i _ | .spiTransactionDone i _ => decide (i < 8)
  | .spiPollTimer i | .encoderIndex i | .encoderLatchTimer i | .encoderFault i => decide (i < 8)
  | .encoderEdge i _ _ => decide (i < 8)
  | .sdiClockLoss c | .sdiDataStuck c | .sdiRecovery c => decide (c < 16)
  | .twinPoseCompare c | .safeStateReleaseFrame c | .xcmpPartnerTimeout c => decide (c < 16)
  | .safePulseEdge | .safeReadbackCheck _ _ | .safeClrEdge _ | .clearanceTestDone _ => true
  | .safetyFlit src _ => decide (src < 16)
  | .supplyOutOfRange _ | .safLockstepMismatch => true
  | .cfgParityScan off => Machine.cfgReg off
  | .annalsRecordWrite | .pwrFailFall | .powerFailFinalRecord | .powerRestored | .getInfo | .read _ _ | .readSpareMap
  | .cmcUnresponsive => true
  | .porNAssert | .porNRelease _ | .supplyPowerGood _ | .supplyGoodTimeout | .pwrReqIdle | .pwrReqStandby | .standbyWake _ => true
  | .domainPowerUpDone d failed => decide (d < 48) && failed.all Island.siteWf
  | .thermalSample _ | .thermalHwRaise | .thermalHwLower | .fuseProgram | .fuseProgramDone _ | .trstNReset | .jtagChallenge _ => true
  | .pmcFreeze _ => true
  | .peerMemoryRequest src off _ op => decide (src < 16 ∧ off < 2 ^ 40 ∧ 0 < op.bytes ∧ op.bytes ≤ 65536)
  | .peerAcknowledgement _ _ => true
  | .flagRelay src flag => decide (src < 16 ∧ flag < 4096)
  | .searchQuery q => decide (q.requester < 16)
  | .searchReply _ shard _ => decide (shard < 16)
  | .identityFrame port _ | .portTrained port _ | .replayRequest port _ | .portNoFlitTimeout port | .wakePattern port =>
    decide (port < 4)
  | .laneLockLoss port lane => decide (port < 4) && decide (lane < 3)
  | .groupStateTimer | .heal | .quietVoteTimer | .vetoMessage | .plkSleepWake => true
  | .quietToken t => decide (t.leader < 16)
  | .pcieLinkUp => true

end Sys2Proof
end

