-- ==== Sys2Proof/Certificates/Slice0/Obligations.lean ====
section
/-! DEFINITION. The statements. `Answers c s d` says that command `c` completes at `s` with the device in state `d`, the
queue and what survives POR_N unchanged; `AnswersBoth` the same with the non-volatile state `nv`. The next state is written
with the named operations of the model, so a clause also says that nothing else changes. -/

namespace Sys2Proof

/-- The commands that may change the fuses, the spare map, the annals or the boot count. -/
def Instr.changesNonVol (c : Instr) : Bool :=
  match c with
  | .annalsRecordWrite | .powerFailFinalRecord | .porNAssert | .porNRelease _ | .domainPowerUpDone _ _ | .fuseProgramDone _
  | .eclipseStep _ | .unitBelowFloor1ms _ | .canaryStall _ | .selfTestStep _ _ _ => true
  | _ => false

end Sys2Proof

namespace Sys2Proof.Machine

def Answers (c : Instr) (s : State) (d : Dev) : Prop := exec c s = .next { s with dev := d }

def AnswersBoth (c : Instr) (s : State) (nv : NonVol) (d : Dev) : Prop := exec c s = .next { s with nv := nv, dev := d }

/-- Registers outside GLB and the context windows with a field that acts when it is written (R483). -/
def atOnce : List Nat :=
  [R.PWR_CFG.reg.base, R.PWR_CAP.reg.base, R.PMC_CTRL.reg.base, R.SGC_SYNC.reg.base, R.PSE_INDEX_CTL.reg.base,
   R.MAP_JOURNAL.reg.base, R.PLK_SLEEP.reg.base, R.FUS_PROG_ADDR.reg.base, R.FUS_PROG_DATA.reg.base, R.FUS_PROG_CTRL.reg.base,
   R.ANN_RD_ADDR.reg.base]

/-- PF0 reaches mailbox `m` (R482, R489). -/
def Reaches (s : State) (m : Mbx) : Prop :=
  boxOk m = true ∧ viaPf0 (boxVia m) = true ∧ s.dev.hostUp = true ∧ s.dev.reachesBox m = true

/-- The mailbox `m` with `sel` in MBX_SEL, `v` latched in its data words, and VALID 1 with ERR 0 (R490, R491). -/
def latched (m : Mbx) (sel : Nat) (v : Dev → Nat) (d : Dev) : Dev :=
  let e := d.wakeIdle.putReg (mbxBase (boxOf m)) sel
  (e.putWords (mbxBase (boxOf m)) (v e)).putReg (mbxBase (boxOf m) + 20) 1

/-- The row answers with one more mailbox write waiting for the strobe of its block (R490). -/
def Posts (c : Instr) (s : State) (m : Mbx) (sel lo hi : Nat) : Prop :=
  ∃ d, Answers c s d ∧ d.mbxPend = s.dev.mbxPend ++ [⟨boxOf m, sel, lo, hi⟩] ∧ d.tim = s.dev.tim ∧ d.ing = s.dev.ing ∧
    d.ctrs = s.dev.ctrs ∧ d.mem = s.dev.mem ∧ d.outbox = s.dev.outbox

/-- The instruction that stream `q` of array `a` issues now, if it has opcode `op`, and the device with its step begun
(R373, R374, R376, R380). -/
def Dev.issued (d : Dev) (a q op : Nat) : Option (Ins × Dev) :=
  match d.current a q with
  | none => none
  | some (r, st) =>
    if st.blocked || d.isFenced 8 (140 + a) || (isVxu op && d.isFenced 8 (136 + a)) then none
    else
      match (d.beginStep r st).fetchIns r st with
      | (e, some i) => if iOp i.w = op ∧ i.regHazard = false then some (i, e) else none
      | _ => none

def Issues (s : State) (a q op : Nat) (i : Ins) (e : Dev) : Prop := a < 4 ∧ q < 16 ∧ s.dev.issued a q op = some (i, e)

/-- Nothing holds the access of the instruction back: no outstanding operation and no speculation (R380, R393). -/
def Free (e : Dev) (i : Ins) (reads writes : List (Nat × Nat)) : Prop :=
  e.hazard i reads writes = false ∧ e.specFree i reads writes = true

/-- An operation of the arrays may issue: room among the 64, no protected result, nothing holds it back (R380, R379). -/
def MayPush (e : Dev) (i : Ins) : Prop :=
  i.s.ops.length < 64 ∧
    (e.opWrites i.run.part i.s.array i.op).any (fun r => e.isProtected r.1 r.2) = false ∧
    Free e i (e.opReads i.run.part i.s.array i.op) (e.opWrites i.run.part i.s.array i.op)

/-- The vectors of a VXU operation lie in the stream's own slices (R384). -/
def Dev.vxuFits (e : Dev) (i : Ins) : Bool :=
  let p := i.run.part
  let a := i.s.array
  let low := sliceBase a ((e.slicesOf a p).headD 0)
  (if iOp i.w = 0x37 ∧ iFn i.w = 0 then e.ownT0 p a i.sv 4
   else (decide (vxuSources i.w = 0) || e.vecOk p a i.sv (iNv i.w)) && (decide (vxuSources i.w < 2) || e.vecOk p a i.tv (iNv i.w)) &&
     (decide (vxuSources i.w < 3) || e.vecOk p a i.uv (iNv i.w))) &&
    (if iOp i.w = 0x36 then decide (low ≤ i.dv ∧ i.dv + 4 * iNv i.w ≤ low + sliceSize) else e.vecOk p a i.dv (iNv i.w))

/-- Task `k` of run `r` is what unit `u` of a kind dispatches next, and the unit is not fenced (R49, R231, R463). -/
def UnitTurn (s : State) (kind u : Nat) (r : Run) (k : Nat) (t : Task) : Prop :=
  minBy edf ((s.dev.noteWaits kind u).runs.filter (fun r => r.eligible && ((s.dev.noteWaits kind u).readyTask r kind u).isSome)) = some r ∧
    (s.dev.noteWaits kind u).readyTask r kind u = some k ∧ r.tasks[k]? = some t ∧
    (s.dev.noteWaits kind u).isFenced (if kind ≤ 5 then 5 else 6) (visIndex kind u) = false

/-- The step of task `k` reads what it needs, the engine makes the band and it is written: what becomes of the device (R231,
R226, R227). -/
def BandMade (d : Dev) (eng : Engine) (r : Run) (k : Nat) (t : Task) (e : Dev) : Prop :=
  ∃ w cal ins rs d1 d2 d3 d4 tops, w = r.who (if t.kind ≤ 5 then 5 else 6) (visIndex t.kind t.unit) none ∧
    tops = (List.range t.nin).map (fun n => max (t.work.getD n 0) (((d.markStarted r.id).reach t t.band
      ((d.markStarted r.id).inRef (t.inp n))).2)) ∧
    (d.markStarted r.id).taskCalib w t t.band = (d1, .ok cal) ∧ d1.readInputs w t t.band 0 t.ins = (d2, .ok ins) ∧
    eng d2 w r t ins cal t.band = (d3, .ok rs) ∧ d3.putBands w t ins t.band 0 t.outs rs = (d4, none) ∧
    e = (let irefs := t.ins.map (d.markStarted r.id).inRef
         let x := (List.range t.nin).foldl (fun x n => match irefs[n]? with
           | some i => x.releaseInput w t t.band (d.stepsOf t) (t.work.getD n 0) (tops.getD n 0) i
           | none => x) d4
         let x := if d.stepsOf t ≤ t.band + 1 then x.endTask t else x
         let x := x.setTask r.id k (fun _ => t.advance t.band (d.stepsOf t) ins cal tops rs)
         if t.kind ≤ 5 then
           (x.addWrap R.VIS_UNIT_STAT.BANDS (visIndex t.kind t.unit) 0 1).count 4 0 1 (w.occ (x.bandAddr t t.band))
         else x)

/-- The device with request `r` admitted under the promise `t` and `work` kept for its run (R55, R56). -/
def Dev.promised (d : Dev) (r : Req) (t : Nat) (work : List Nat) : Dev :=
  let e := d.setReq r.id (fun x => { x with
    st := .admitted
    rel := d.releaseOf r
    prom := t
    admNo := d.cal.admNo
    work := work })
  { e with cal := { e.cal with admNo := d.cal.admNo + 1 } }

/-- The tables that survive POR_N are in canonical form. -/
def NonVol.canonical (nv : NonVol) : Bool :=
  SMap.canonical 0 nv.fuses && SMap.canonical [] nv.annals && SMap.canonical 0 nv.annSeq

/-- The commands of the vision engines and of the map tasks with their KIND, engine and number of units (Table 08-1, R230,
R290 to R293). -/
def unitRows (u : Nat) (ue : Bool) : List (Nat × Engine × Nat × Instr) :=
  [(1, rwuEngine, 8, .rwuBand u ue), (2, pyrEngine, 4, .pyrBand u ue), (3, fduEngine, 8, .fduBand u ue),
   (4, sduEngine, 4, .sduBand u ue), (5, ofuEngine, 4, .ofuBand u ue), (6, renderLmEngine, 4, .renderLm u ue),
   (7, renderVoxEngine, 4, .renderVox u ue), (8, liftVoxEngine, 4, .liftVox u ue), (9, liftFeatEngine, 4, .liftFeat u ue)]

end Sys2Proof.Machine

section

open Sys2Proof Sys2Proof.Machine

/-! ### The queue, the survivors of POR_N, reset -/

/-- Log entry 1: a step takes the command at the front of the queue and runs it on the queue's rest; on an empty queue
it is a nanosecond of the reference clock, and while POR_N is low nothing else runs. -/
def Obligations.StepTakesFrontCommand : Prop :=
  (∀ (c : Instr) (s : State), step { s with pending := c :: s.pending } = exec c s) ∧
  (∀ s : State, s.pending = [] → step s = .next { s with dev := s.dev.tick }) ∧
  (∀ d : Dev, d.tick.now = d.now + 1 ∧ (d.pwr.porN = false → d.tick = { d with now := d.now + 1 }))

/-- Every command whose operands are those of its row answers a next state, in every state, and no other command does.
-/
def Obligations.WellFormedCommandsAnswer : Prop :=
  ∀ (c : Instr) (s : State), (∃ t, exec c s = .next t) ↔ c.wf = true

/-- No command touches the queue, and ten of them alone change what survives POR_N. -/
def Obligations.CommandsKeepQueueAndSurvivors : Prop :=
  ∀ (c : Instr) (s t : State), exec c s = .next t → t.pending = s.pending ∧ (c.changesNonVol = false → t.nv = s.nv)

/-- Every step keeps the tables that survive POR_N in canonical form. -/
def Obligations.StepsKeepSurvivorsCanonical : Prop :=
  ∀ s t : State, s.nv.canonical = true → step s = .next t → t.nv.canonical = true

/-- The machine after reset has that form, and its memory too. -/
def Obligations.ResetIsCanonical : Prop :=
 State.reset.nv.canonical = true ∧ State.reset.dev.mem.wf = true

/-- R527, R468, R474: whatever a step does, a blown fuse bit stays blown, the spare map keeps every record in its
order, no spare fuse row comes back, and no region's count of annals records goes back. -/
def Obligations.SurvivorsOnlyGrow : Prop :=
  ∀ s t : State, step s = .next t →
    (∀ w b, ((SMap.read 0 s.nv.fuses w).getLsbD b) = true → ((SMap.read 0 t.nv.fuses w).getLsbD b) = true) ∧
    (∃ l, t.nv.spareMap = s.nv.spareMap ++ l) ∧ s.nv.fuseRows ≤ t.nv.fuseRows ∧ (∀ c, s.nv.annCount c ≤ t.nv.annCount c)

/-- R519: after reset every register reads its reset value, memory reads zero, and the block is in reset; the fall of
POR_N with no fuse word being programmed leaves that, but for what survives it, the reference clock, the model's own
counters and what has left the device, which disables the supplies that were on or awaited. -/
def Obligations.ResetLeavesResetValues : Prop :=
  (∀ off, cellOf State.reset.dev.regs off = rstValue off) ∧ (∀ x, State.reset.dev.mem.byte x = 0) ∧
  State.reset.pending = [] ∧ State.reset.dev.pwr.porN = false ∧ State.reset.dev.outbox = [] ∧
  (∀ s : State, s.dev.pwr.prog = none → ∃ d : Dev, AnswersBoth .porNAssert s s.nv d ∧
    d = { Dev.reset with now := s.dev.now, freeIx := s.dev.freeIx, nextId := s.dev.nextId, outbox := d.outbox } ∧
    d.outbox = s.dev.outbox ++ Output.safePins false :: (((List.range 6).filter (fun n =>
      s.dev.pwr.supplies.getD n false || decide (s.dev.pwr.await.map (·.1) = some n))).reverse.map (fun n => Output.psq n false)))

/-! ### Time, contexts, the queue front end -/

/-- R155: a T32 value is recovered against a reference: the difference is taken modulo 2^32 and read as signed, a
result before the start of the base is 0, and the result lies within [max(0, ref − 2^31), ref + 2^31 − 1]; START and
STOP are recovered in this way (R156). -/
def Obligations.UnwrapRecovers : Prop :=
  (∀ ref v d : Nat, v < 2 ^ 32 → d < 2 ^ 32 → (ref + d) % 2 ^ 32 = v →
    (d < 2 ^ 31 → unwrap ref v = ref + d) ∧ (2 ^ 31 ≤ d → unwrap ref v = ref + d - 2 ^ 32) ∧
    ref - 2 ^ 31 ≤ unwrap ref v ∧ unwrap ref v ≤ ref + 2 ^ 31 - 1) ∧
  (∀ (s : State) (c : Nat) (b : List Byte), bitOf (dFlags b) 1 = true →
    s.dev.windowOf c b = some (unwrap (s.dev.ctxNow c) (dStart b), unwrap (unwrap (s.dev.ctxNow c) (dStart b)) (dStop b)))

/-- R30: partition k of P holds contexts k × 2048 / P to (k + 1) × 2048 / P − 1, but for CTX0, which is in none. -/
def Obligations.ContextsOfPartitions : Prop :=
  ∀ (d : Dev) (c k : Nat),
    d.ctxPart c = some k ↔ c ≠ 0 ∧ k * (2048 / d.parts) ≤ c ∧ c < (k + 1) * (2048 / d.parts)

/-- R99: a PCIe error of a descriptor fetch stops the context's fetching and sets FETCH_ERR, event 0x0B is posted to
the context, and the requests already fetched and their runs go on. -/
def Obligations.FetchErrorStopsFetching : Prop :=
  ∀ (s : State) (c : Nat) (r : PcieReply), c < 2048 → s.dev.fetchTurn c = true →
    r = .unsupported ∨ r = .aborted ∨ r = .poisoned ∨ r = .timeout →
    ∃ d e : Dev, Answers (.descriptorFetch c r) s d ∧ d = e.event c 0x0B 0 0 (leBytes 2 (s.dev.ctx c).sqHead) 0 ∧
      e.bit R.CTX_ERR.FETCH_ERR c 0 = true ∧ d.bit R.CTX_ERR.FETCH_ERR c 0 = true ∧
      d.bit R.CTX_STATUS.FETCH_STOP c 0 = true ∧ d.fetchTurn c = false ∧ d.reqs = s.dev.reqs ∧ d.runs = s.dev.runs

/-- R86, R87, R91: a valid doorbell of an enabled context puts its value into the queue front end; a write of another
size or offset, to a context that is not enabled, or beyond the ring sets its error bit. R90: the moderation timer
raises the interrupt of a context that has unsignalled records. -/
def Obligations.QueueDoorbellsAct : Prop :=
  (∀ (s : State) (c : Nat) (v : W32) (x : Ctx) (d : Dev), c < 2048 → s.dev.hostUp = true → x = s.dev.ctx c → d = s.dev.wakeIdle →
    (x.enabled = true → x.aborting = none → v.toNat < 2 ^ x.sqLog →
      Answers (.submissionDoorbell c 0 4 v) s (d.setCtx c (fun x => { x with sqTail := v.toNat }))) ∧
    (x.enabled = true → x.aborting = none → v.toNat < 2 ^ x.cqLog → ∃ e, e = d.setCtx c (fun x => { x with cqHead := v.toNat }) ∧
      Answers (.completionDoorbell c 4 4 v) s (e.drainHold c ((e.ctx c).hold.length + 1))) ∧
    (∀ off size, off < 4096 → size ≠ 4 ∨ off ≠ 0 ∧ off ≠ 4 →
      Answers (.submissionDoorbell c off size v) s (d.set R.CTX_ERR.DB_SIZE c 0 1) ∧
      Answers (.completionDoorbell c off size v) s (d.set R.CTX_ERR.DB_SIZE c 0 1)) ∧
    (x.enabled = false ∨ x.aborting ≠ none →
      Answers (.submissionDoorbell c 0 4 v) s (d.set R.CTX_ERR.DB_DISABLED c 0 1) ∧
      Answers (.completionDoorbell c 4 4 v) s (d.set R.CTX_ERR.DB_DISABLED c 0 1)) ∧
    (x.enabled = true → x.aborting = none →
      (2 ^ x.sqLog ≤ v.toNat → Answers (.submissionDoorbell c 0 4 v) s (d.set R.CTX_ERR.DB_RANGE c 0 1)) ∧
      (2 ^ x.cqLog ≤ v.toNat → Answers (.completionDoorbell c 4 4 v) s (d.set R.CTX_ERR.DB_RANGE c 0 1)))) ∧
  (∀ (s : State) (c : Nat), c < 2048 → s.dev.bit R.CTX_MSIX.IRQ_EN c 0 = true → s.dev.get R.CTX_MSIX.TIMER c 0 ≠ 0 →
    0 < (s.dev.ctx c).sinceIrq → (s.dev.ctx c).firstAt + 1000 * s.dev.get R.CTX_MSIX.TIMER c 0 ≤ s.dev.now →
    Answers (.msixModerationTimer c) s (s.dev.interrupt c))

/-- R88, R94, R95, R99: a descriptor that the host delivers is fetched: SQ_HEAD goes on by one, the next SEQ is
expected, and a request that passes the tests of R95 is handed on, one that fails ends with the status and subcode of
its first failure; a PCIe error stops the context's fetching and posts event 0x0B. -/
def Obligations.FetchTakesDescriptor : Prop :=
  (∀ (s : State) (c : Nat) (bs b : List Byte) (r : Req) (e : Dev), c < 2048 → s.dev.fetchTurn c = true → b = slice bs 0 64 →
    r = { id := s.dev.nextId, ctx := c, part := (s.dev.ctxPart c).getD 16, desc := b, st := .fetched, admNo := 0, rel := 0, prom := 0,
          win := s.dev.windowOf c b
          deadline := if bitOf (dFlags b) 0 then some (unwrap (s.dev.ctxNow c) (dDeadline b)) else none
          work := [] } →
    e = ({ s.dev with nextId := s.dev.nextId + 1, reqs := s.dev.reqs ++ [r] } : Dev).setCtx c (fun x => { x with
      sqHead := (x.sqHead + 1) % 2 ^ x.sqLog
      expSeq := some (nextSeq ((x.expSeq).getD (dSeq b))) }) →
    (s.dev.validate c b = none → e.safeStop r.part (dOpc b) = false → Answers (.descriptorFetch c (.data bs)) s e) ∧
    (s.dev.validate c b = none → e.safeStop r.part (dOpc b) = true →
      Answers (.descriptorFetch c (.data bs)) s (e.finishReq r 0x60 (e.get R.SAF_STATUS.CAUSE 0 0) none 0 [])) ∧
    (∀ v, s.dev.validate c b = some v → Answers (.descriptorFetch c (.data bs)) s (e.finishReq r v.1 v.2 none 0 []))) ∧
  (∀ (s : State) (c : Nat), c < 2048 → s.dev.fetchTurn c = true →
    ∀ e, e = (s.dev.set R.CTX_ERR.FETCH_ERR c 0 1).set R.CTX_STATUS.FETCH_STOP c 0 1 →
    ∀ d, d = e.event c 0x0B 0 0 (leBytes 2 (s.dev.ctx c).sqHead) 0 →
      (∀ r, r = PcieReply.unsupported ∨ r = .aborted ∨ r = .poisoned ∨ r = .timeout → Answers (.descriptorFetch c r) s d) ∧
      Answers (.pcieCompletionTimeout none c) s d)

/-- R105, R107: a write of CTX_ABORT outside the safety partition begins the abort; the end of an abort disables the
context and shows ABORT_DONE. R107 to R109: GLB_PURGE begins a purge of each partition that it names but the safety
partition, GLB_PURGE.DEVICE of every one, with its subcode; the end of a purge clears its BUSY bit. -/
def Obligations.AbortsAndPurgesAct : Prop :=
  ((∀ (s : State) (c : Nat), c < 2048 → s.dev.hostUp = true → (∀ p, s.dev.wakeIdle.ctxPart c = some p → s.dev.wakeIdle.isSafe p = false) →
    Answers (.ctxAbort c) s (s.dev.wakeIdle.beginAbort c 1)) ∧
  (∀ (s : State) (c p : Nat), c < 2048 → s.dev.hostUp = true → s.dev.wakeIdle.ctxPart c = some p → s.dev.wakeIdle.isSafe p = true →
    Answers (.ctxAbort c) s (s.dev.wakeIdle.set R.CTX_ERR.ABORT_DENIED c 0 1)) ∧
  (∀ (s : State) (c sub : Nat) (d : Dev), c < 2048 → (s.dev.ctx c).aborting = some sub → sub ≠ 5 →
    d = (s.dev.abortRecords c sub).setCtx c (fun x => { x with enabled := false, aborting := none }) →
    Answers (.abortDone c) s (((d.setBoth R.CTX_CTRL.EN c 0 0).set R.CTX_STATUS.ABORT_DONE c 0 1).set R.CTX_ABORT.ABORT c 0 0))) ∧
  ((∀ (s : State) (k : Nat), k < 16 → s.dev.hostUp = true → s.dev.wakeIdle.isSafe k = false → k < s.dev.wakeIdle.parts →
    Answers (.partitionPurge (BitVec.ofNat 16 (2 ^ k))) s ((s.dev.wakeIdle.setBusy k 1).beginPurge k 2)) ∧
  (∀ (s : State) (k : Nat), k < 16 → s.dev.hostUp = true → s.dev.wakeIdle.isSafe k = true →
    Answers (.partitionPurge (BitVec.ofNat 16 (2 ^ k))) s (s.dev.wakeIdle.set R.GLB_PURGE_STAT.DENIED 0 0 1)) ∧
  (∀ s : State, s.dev.hostUp = true → ∃ e : Dev, e = s.dev.wakeIdle.set R.GLB_PURGE_STAT.DEV_BUSY 0 0 1 ∧
    Answers .devicePurge s ((below s.dev.wakeIdle.parts (fun k => !s.dev.wakeIdle.isSafe k)).foldl (fun d k => d.beginPurge k 3) e)) ∧
  (∀ (s : State) (k : Nat), k < 16 → bitOf (s.dev.get R.GLB_PURGE_STAT.BUSY 0 0) k = true →
    Answers (.purgeDone (some k)) s ((s.dev.endPurge k).setBusy k 0)) ∧
  (∀ s : State, s.dev.bit R.GLB_PURGE_STAT.DEV_BUSY 0 0 = true →
    Answers (.purgeDone none) s ((s.dev.purgeable.foldl (fun d k => d.endPurge k) s.dev).set R.GLB_PURGE_STAT.DEV_BUSY 0 0 0)))

/-- R110 to R112: a function level reset resets one function, the host's resets every function and the link; the
quiescing of orphaned contexts ends their aborts; the link comes back up once the boot allows it. -/
def Obligations.HostResetsAct : Prop :=
  (∀ (s : State) (fn : Nat), fn < 32 → s.dev.hostUp = true → Answers (.functionLevelReset fn) s (s.dev.resetFn fn)) ∧
  (∀ (s : State) (k : HostResetKind), s.dev.pwr.porN = true → ∃ d : Dev, d = (List.range 32).foldl (fun d fn => d.resetFn fn) s.dev ∧
    Answers (.hostReset k) s { d with pwr := { d.pwr with linkUp := false, perstN := d.pwr.perstN && decide (k ≠ .perst) } }) ∧
  (∀ (s : State) (fn : Nat), fn < 32 → (∃ c ∈ s.dev.fnCtxs fn, s.dev.orphaned c = true) →
    Answers (.orphanQuiesceDone fn) s ((((s.dev.fnCtxs fn).filter (fun c => s.dev.orphaned c)).foldl (fun d c => d.endAbort c) s.dev).tellOrphans
      (s.dev.pwr.orphans.length + 1))) ∧
  (∀ s : State, s.dev.pcieReady = true → Answers .pcieLinkUp s
    (({ s.dev with pwr := { s.dev.pwr with linkUp := true, perstN := true } } : Dev).tellOrphans (s.dev.pwr.orphans.length + 1)))

/-! ### Workbooks, admission, requests -/

/-- R405, R406: LOAD_WB whose image passes every check, needs no domain that is off, and reads the same twice installs
the workbook and returns its handle (R407). R102, R103: UNLOAD_WB of a workbook that is idle or with FORCE, and REVOKE
of an entry of its own context, wait for what must end first, which the revocation of the entries named (cause 0x5)
begins. -/
def Obligations.WorkbooksComeAndGo : Prop :=
  (∀ (s : State) (req : Nat) (h1 h2 : HostView) (r : Req) (d1 d2 : Dev) (im im2 : List Byte) (w : Wb),
    s.dev.fetched req 1 = some r → s.dev.loadFirst r = true → s.dev.imageReach r = true → s.dev.pwr.halt = false →
    s.dev.pwr.fusing = false → s.dev.readImage r h1 = (d1, .ok im) →
    d1.checkImage im (dLen r.desc) r.part (some r.ctx) (d1.bit R.CTX_CAL.SAFETY r.ctx 0) = .ok w →
    (d1.needs w).filter (fun n => !d1.domainOn n) = [] → d1.readImage r h2 = (d2, .ok im2) → sha384 im = sha384 im2 →
    Answers (.loadWb req h1 h2) s ((d2.install w im).finishReq r 0 0 none 0 (leBytes 4 w.handle))) ∧
  ((∀ (s : State) (req : Nat) (r : Req), s.dev.fetched req 2 = some r →
    s.dev.wbBusy (dHandle r.desc % 256) = false ∨ bitOf (dArg1 r.desc) 0 = true → ∀ d : Dev,
      d = ((s.dev.setReq r.id (fun x => { x with st := .waiting })).cal.entries.filter (fun e => decide (e.wb = dHandle r.desc % 256))).foldl (fun d e => d.revokeOne e 0x5000)
        (s.dev.setReq r.id (fun x => { x with st := .waiting })) →
    Answers (.unloadWb req) s (d.settleWaits (d.reqs.length + 1))) ∧
  (∀ (s : State) (req : Nat) (r : Req) (e : Entry), s.dev.fetched req 0x11 = some r →
    s.dev.entry (dArg1 r.desc % 65536) = some e → e.ctx = some r.ctx →
    ∀ d, d = s.dev.setReq r.id (fun x => { x with st := .waiting }) →
    Answers (.revoke req) s ((d.revokeEntry e 0x5000).settleWaits (d.reqs.length + 1))))

/-- R58: an admitted entry's first run is released at its OFFSET phase in the first orbit of the partition that begins
after the ADMIT completes; run k is released nominally at rel(0) + k × T, and its promised time is rel(k) + D; both
copies of a channel's entry are admitted so. -/
def Obligations.EntriesReleaseOnTheirPhase : Prop :=
  ∀ (s : State) (req : Nat) (r : Req) (w : Wb) (es : List Entry) (e0 : Entry) (c : PartCal), s.dev.fetched req 0x10 = some r →
    s.dev.wb (dHandle r.desc % 256) = some w → dArg1 r.desc % 65536 < w.almanac.length →
    (s.dev.channelOf w.slot (dArg1 r.desc % 65536)).map (·.2) ≠ some 1 → c = s.dev.pcal w.part → 0 < c.orbit →
    (w.orbit = 0 ∨ w.orbit = c.orbit ∧ w.phases = c.phases) →
    es = s.dev.candidates w (dArg1 r.desc % 65536) (some r.ctx) (dSeq r.desc) → s.dev.admitFails w.part es = none →
    es.head? = some e0 → ∃ d : Dev, d = s.dev.placeEntries w es (s.dev.ctx r.ctx).tb ∧
      Answers (.admitEntry req) s (d.finishReq r 0 0 (some (d.toCtx r.ctx w.part (e0.prom 0))) 0
        (leBytes 2 e0.slot ++ leBytes 4 (d.entryStale e0))) ∧
      (∀ e ∈ es, e.alm ∈ w.almanac ∧ e.part = w.part ∧ e.ctx = some r.ctx ∧ e.next = 0 ∧
        (∃ n, s.dev.schedNow w.part < n * c.orbit ∧ n * c.orbit ≤ s.dev.schedNow w.part + c.orbit ∧
          e.rel0 = n * c.orbit + e.alm.offset * c.phaseLen) ∧
        (∀ k, e.relNom k = e.rel0 + k * e.alm.period ∧ e.prom k = e.relNom k + e.alm.deadline))

/-- R55, R56: a tested aperiodic request that passes its checks and the admission test holds its promise from then on;
one that fails the admission test is refused with its subcode. -/
def Obligations.AperiodicAdmitted : Prop :=
  (∀ (s : State) (req : Nat) (h : HostView) (r : Req) (c : Instr) (work : List Nat),
    (c = .run req ∧ work = [] ∧ s.dev.fetched req 0x12 = some r ∧
      s.dev.inReach r.part (some r.ctx) (dArg0 r.desc) (dLen r.desc) false = true ∧
      (dArg2 r.desc = 0 ∨ s.dev.inReach r.part (some r.ctx) (dArg2 r.desc) 1 true = true)) ∨
    (c = .copy req h ∧ work = (linearCopy (dArg0 r.desc) (dArg1 r.desc) (dLen r.desc)).map (·.toNat) ∧
      s.dev.fetched req 0x20 = some r ∧ dArg2 r.desc = 0 ∧
      s.dev.moverBad r.part (some r.ctx) (linearCopy (dArg0 r.desc) (dArg1 r.desc) (dLen r.desc)) = none) ∨
    (c = .solve req h ∧ work = [] ∧ s.dev.fetched req 0x30 = some r ∧ dArg1 r.desc ≠ 0 ∧ dArg1 r.desc ≤ 65535 ∧
      dArg0 r.desc % 64 = 0 ∧
      dArg1 r.desc ≤ sumBy (fun l => fieldAt l 16 2) (((s.dev.jobOf (dHandle r.desc % 256) r.jobNo).map (·.solves)).getD []) ∧
      s.dev.inReach r.part (some r.ctx) (dArg0 r.desc) (64 * dArg1 r.desc) false = true ∧
      s.dev.inReach r.part (some r.ctx) (dArg2 r.desc) (8 * dArg1 r.desc) true = true) ∨
    (c = .windowQuery req ∧ work = [] ∧ s.dev.fetched req 0x60 = some r ∧
      s.dev.windowBad r.part (dArg1 r.desc) ((r.win.map (·.1)).getD 0) = false ∧
      s.dev.inReach r.part (some r.ctx) (dArg2 r.desc) 128 true = true) →
    s.dev.aperTurn r = true →
    (∀ t, s.dev.admitAper { r with rel := s.dev.releaseOf r } = .ok t → Answers c s (s.dev.promised r t work)) ∧
    (∀ sub, s.dev.admitAper { r with rel := s.dev.releaseOf r } = .error sub → Answers c s
      ((s.dev.count 3 3 1 (hostOcc r.ctx (dClass r.desc))).finishReq { r with rel := s.dev.releaseOf r } 0x10 sub none 0 []))) ∧
  (∀ (s : State) (req : Nat) (h : HostView) (r : Req) (e : Dev) (bs : List Byte) (t : Nat),
    s.dev.fetched req 0x40 = some r → s.dev.aperTurn r = true → s.dev.searchHeader r h = (e, .ok bs) →
    e.admitAper { r with rel := e.releaseOf r } = .ok t → Answers (.search req h) s (e.promised r t (bs.map (·.toNat))))

/-- R57, R284, R334, R335, R337: a validated change of an index or of the map joins the maintenance queue of its
partition; PUBLISH_EPOCH waits for the boundary. -/
def Obligations.ChangesAreQueued : Prop :=
  (∀ (s : State) (req : Nat) (h : HostView) (r : Req) (x : Idx) (e : Dev) (bs : List Byte), s.dev.idxOf r = .ok x →
    s.dev.inReach r.part (some r.ctx) (dArg0 r.desc) (dLen r.desc) false = true →
    s.dev.read (r.who 10) h (dArg0 r.desc) (dLen r.desc) = (e, .ok bs) →
    (s.dev.fetched req 0x41 = some r → vectorsOk x.blk bs = true → e.stepFits r = true → Answers (.insert req h) s (e.queueMaint r)) ∧
    (s.dev.fetched req 0x42 = some r → idsOk bs = true → e.stepFits r = true → Answers (.delete req h) s (e.queueMaint r))) ∧
  (∀ (s : State) (req : Nat) (r : Req) (m : MapSt) (e : Dev) (bs : List Byte) (ops : List (List Byte)),
    s.dev.fetched req 0x50 = some r → s.dev.map = some m → m.part = r.part →
    s.dev.inShare r.part (dArg0 r.desc) (dLen r.desc) = true →
    s.dev.readDev (r.who 6) (dArg0 r.desc) (dLen r.desc) = (e, .ok bs) → opsOf m.blk bs = some ops →
    e.stepFits r = true → Answers (.mapCommit req) s (e.queueMaint r)) ∧
  (∀ (s : State) (req : Nat) (r : Req) (x : Idx), s.dev.fetched req 0x43 = some r → s.dev.idxOf r = .ok x →
    Answers (.publishEpoch req) s ((s.dev.setReq r.id (fun r => { r with st := .publishing })).syncIdx x.slot))

/-- R505, R506, R177, R202: COUNTER_DUMP starts its program or writes its one record; STREAM_ATTACH binds its stream;
STREAM_DETACH unbinds it. -/
def Obligations.DumpAndStreamsProceed : Prop :=
  (∀ (s : State) (req : Nat) (r : Req), s.dev.fetched req 0x70 = some r → s.dev.bit R.CTX_CNT.USER_EN r.ctx 0 = true →
    dLen r.desc ≠ 0 → 2 * dumpSize (s.dev.dumpSet r.ctx).length ≤ dLen r.desc → 10 ≤ dArg1 r.desc → dArg1 r.desc ≤ 10000000 →
    isT3 (dArg0 r.desc) = true → s.dev.inReach r.part (some r.ctx) (dArg0 r.desc) (dLen r.desc) true = true →
    ∀ d, d = (s.dev.stopDump r.ctx).setReq r.id (fun x => { x with st := .waiting }) → Answers (.counterDump req) s
      (d.setCtx r.ctx (fun x => { x with dump := some ⟨dArg0 r.desc, dLen r.desc, 1000 * dArg1 r.desc, 0,
        d.ctxNow r.ctx + 1000 * dArg1 r.desc, false, some r.id⟩ }))) ∧
  (∀ (s : State) (req : Nat) (r : Req) (e : Dev) (bs : List Byte), s.dev.fetched req 0x80 = some r →
    srcOf (dArg1 r.desc % 65536) ≠ .bad →
    ∀ spi n, spi = isSpi (srcOf (dArg1 r.desc % 65536)) → n = (if spi = true then 128 else 64) →
    s.dev.permits r.part (some r.ctx) (dArg0 r.desc) n false = true → dArg0 r.desc % 64 = 0 →
    (tierOf (dArg0 r.desc) = 1 ∨ tierOf (dArg0 r.desc) = 2) → s.dev.inShare r.part (dArg0 r.desc) n = true →
    s.dev.readDev ⟨r.part, some r.ctx, none, privOf (dClass r.desc), 3, 0, none⟩ (dArg0 r.desc) n = (e, .ok bs) →
    ldReservedOk (bs.take 64) = true → (spi = true → spiReservedOk (bs.drop 64) = true) →
    e.bind (dArg1 r.desc % 65536) = none → e.ldOk (dArg1 r.desc % 65536) r.part (bs.take 64) = true →
    (spi = true → spiOk (bs.drop 64) = true) → e.limitsOk (dArg1 r.desc % 65536) (bs.take 64) = true →
    Answers (.streamAttach req) s ((e.addBind (dArg1 r.desc % 65536) (some r.ctx) r.part (e.ctx r.ctx).tb (bs.take 64)
      (bs.drop 64)).finishReq r 0 0 none 0 [])) ∧
  (∀ (s : State) (req : Nat) (r : Req) (b : Bind), s.dev.fetched req 0x81 = some r →
    s.dev.bind (dArg1 r.desc % 65536) = some b → b.ctx = some r.ctx → r.ctx ≠ 0 →
    Answers (.streamDetach req) s ((s.dev.dropBind (dArg1 r.desc % 65536)).finishReq r 0 0 none 0 [])) ∧
  (∀ (s : State) (req c : Nat) (r : Req) (b : Bind), s.dev.fetched req 0x81 = some r →
    s.dev.bind (dArg1 r.desc % 65536) = some b → b.ctx = some c → r.ctx = 0 → c ≠ 0 →
    Answers (.streamDetach req) s (((s.dev.dropBind (dArg1 r.desc % 65536)).event c 0x02 0 0
      (leBytes 2 (dArg1 r.desc % 65536) ++ [6]) 0).finishReq r 0 0 none 0 []))

/-- R58, R61, R62, R49, R50, R59: a due release creates its run, nominal or by the leap; a run becomes eligible when
its inputs are set; an aperiodic request is released; a run that is over ends with its status. R63 to R65, R44, R73,
R517: past prom + LATE_TOL a performance entry is suspended and a safety entry is a dangerous fault; a boundary is
passed once; a re-admission ends; EFF becomes the largest request. -/
def Obligations.CalendarProceeds : Prop :=
  ((∀ (s : State) (slot : Nat) (e : Entry), slot < 16384 → s.dev.entry slot = some e → s.dev.releasable e = true →
    e.nominal = true → e.relNom e.next ≤ s.dev.schedNow e.part →
    Answers (.entryRelease slot) s (s.dev.releaseRun e (e.relNom e.next) false)) ∧
  (∀ (s : State) (slot : Nat) (e : Entry), slot < 16384 → s.dev.entry slot = some e → s.dev.releasable e = true →
    e.nominal = false → s.dev.leapGranted e = true → e.relAfter e.alm.tmin ≤ s.dev.schedNow e.part →
    Answers (.leapRelease slot) s (s.dev.releaseRun e (e.relAfter e.alm.tmin) true)) ∧
  (∀ (s : State) (slot : Nat) (e : Entry), slot < 16384 → s.dev.entry slot = some e → s.dev.releasable e = true →
    e.nominal = false → s.dev.leapGranted e = false → e.relAfter e.alm.period ≤ s.dev.schedNow e.part →
    Answers (.leapRelease slot) s (s.dev.releaseRun e (e.relAfter e.alm.period) false)) ∧
  (∀ (s : State) (id slot : Nat) (r : Run) (e : Entry), s.dev.run id = some r → r.src = .entry slot →
    s.dev.entry slot = some e → r.eligible = false → s.dev.inputsSet e.alm.inputs = true →
    Answers (.runEligible id) s (s.dev.makeEligible r e.alm.inputs e.alm.clear (!e.alm.inputs.isEmpty))) ∧
  (∀ (s : State) (id : Nat) (r : Req), s.dev.req id = some r → r.st = .admitted → r.rel ≤ s.dev.schedNow r.part →
    s.dev.cal.stopped = false → Answers (.aperiodicRelease id) s (s.dev.aperRelease r)) ∧
  (∀ (s : State) (id : Nat) (r : Run), s.dev.run id = some r → s.dev.runOver r = true → r.started.isSome = true → r.status = 0 →
    Answers (.runComplete id) s ((s.dev.markStarted id).finishRun (((s.dev.markStarted id).run id).getD r)
      (let x := ((s.dev.markStarted id).run id).getD r
       (if x.status = 0 then (s.dev.markStarted id).okStatus x else (x.status, x.sub)).1)
      (let x := ((s.dev.markStarted id).run id).getD r
       (if x.status = 0 then (s.dev.markStarted id).okStatus x else (x.status, x.sub)).2)
      ((s.dev.markStarted id).resultDa (((s.dev.markStarted id).run id).getD r)) (((s.dev.markStarted id).run id).getD r).info))) ∧
  ((∀ (s : State) (id slot : Nat) (r : Run) (e : Entry), s.dev.run id = some r → r.src = .entry slot →
    s.dev.entry slot = some e → r.prom + e.alm.lateTol < s.dev.schedNow r.part → e.suspended = false → e.ending = none →
    (e.alm.cls = 1 → Answers (.deadlineWatchdogExpiry id) s
      ((s.dev.annal 4 1 1 (annUnit e.part 0) (leBytes 2 e.slot ++ leBytes 4 (r.k % 2 ^ 32))).dangerous 2
        ((e.channel.map (·.1)).getD 0) 0 false (some r.id))) ∧
    (e.alm.cls ≠ 1 → Answers (.deadlineWatchdogExpiry id) s
      ((s.dev.annal 4 1 1 (annUnit e.part 0) (leBytes 2 e.slot ++ leBytes 4 (r.k % 2 ^ 32))).setEntry slot
        (fun x => { x with suspended := true })))) ∧
  (∀ (s : State) (p : Nat), p < 16 → p < s.dev.parts → (s.dev.pcal p).boundary < s.dev.lastBoundary p →
    ∃ d : Dev, d = s.dev.setPcal p (fun c => { c with orbits := c.orbits + 1, boundary := s.dev.lastBoundary p }) ∧
      Answers (.orbitBoundary p) s ((((d.publishIndices p).publishMap p).settleWaits (d.reqs.length + 1)).capBoundary p)) ∧
  (∀ s : State, s.dev.bit R.CAL_STATUS.READMIT 0 0 = true → Answers .readmissionDone s s.dev.readmission) ∧
  (∀ (s : State) (l : BitVec 2), s.dev.hostUp = true →
    Answers (.pwrCapHostWrite l) s (s.dev.wakeIdle.set R.PWR_CAP.HOST 0 0 l.toNat).updateCap) ∧
  (∀ (s : State) (l : BitVec 2), s.dev.pwr.cmc = true → Answers (.cmcCapRequest l) s (s.dev.set R.PWR_CAP.CMC 0 0 l.toNat).updateCap))

/-! ### Registers and the mailbox -/

/-- R480, R486, R485, R484, R478, R495: a register write reaches its register, a block or context update is taken, an
applied block's oldest strobe ends, ANN_RD_DATA reads on, a register found upset is handled. -/
def Obligations.RegistersAnswer : Prop :=
  (∀ (s : State) (v : W32), s.dev.hostUp = true →
    Answers (.registerWrite .pf0 0x70 4 v) s
      (s.dev.wakeIdle.set R.GLB_SWFLAG.FLAGS 0 0 (maskedWrite (s.dev.wakeIdle.get R.GLB_SWFLAG.FLAGS 0 0) v.toNat))) ∧
  (∀ (s : State) (off i j : Nat) (v : W32) (r : RegRow), s.dev.hostUp = true → off % 4 = 0 → regAt off = some (r, i, j) →
    0x10000 ≤ off → off < 0x120000 → (s.dev.pwr.halt = false ∨ blockOf off ∈ [14, 16, 17]) → s.dev.wakeIdle.denies off = false →
    r.has .w1c = false → r.has .rw = true → r.base ∉ atOnce →
    Answers (.registerWrite .pf0 off 4 v) s (s.dev.wakeIdle.buffer r off v.toNat (fun _ => true))) ∧
  (∀ (s : State) (via : Via) (off size : Nat) (v : W32), s.dev.hostUp = true → viaOk via = true → s.dev.hears via = true →
    size ≠ 4 ∨ off % 4 ≠ 0 → Answers (.registerWrite via off size v) s (s.dev.wakeIdle.set R.GLB_STATUS.ACC_ERR 0 0 1)) ∧
  (∀ (s : State) (c : Nat) (via : Via), c < 2048 → viaOk via = true → s.dev.hostUp = true → s.dev.reachesCtx via c = true →
    Answers (.ctxUpdate c via) s (s.dev.wakeIdle.updateCtx c (viaPf0 via))) ∧
  (∀ (s : State) (b : Nat), b < 18 → s.dev.hostUp = true → ∃ d, Answers (.glbUpdate (BitVec.ofNat 18 (2 ^ b))) s d ∧
    d.strobes = s.dev.strobes ++ [(b, s.dev.buf.filter (fun c => decide (blockOf c.1 = b)),
      s.dev.mbxPend.filter (fun x => decide (selBlock x.sel = b)))]) ∧
  (∀ (s : State) (b : Nat) (cs : Cells) (ms : List MbxWrite) (r : List (Nat × Cells × List MbxWrite)), b < 18 →
    s.dev.pwr.porN = true → s.dev.strobes = (b, cs, ms) :: r →
    Answers (.blockStrobeApply b) s (({ s.dev with strobes := r }).applyBlock b cs ms).syncPend) ∧
  (∀ s : State, s.dev.hostUp = true → Answers (.annRdDataRead .pf0) s (s.dev.wakeIdle.annWord s.nv)) ∧
  (∀ (s : State) (off : Nat), cfgReg off = true → s.dev.pwr.porN = true →
    Answers (.cfgParityScan off) s (s.dev.cfgFault off))

/-- R486: a write to a WM register changes bit i of bits 15 to 0 only where bit 16 + i of the value is 1; every other
bit and every other register keeps its value; writers of disjoint bits may come in either order. -/
def Obligations.MaskedWritesChangeMaskedBits : Prop :=
  ∀ (s : State) (v : W32), s.dev.hostUp = true → ∃ d : Dev, Answers (.registerWrite .pf0 0x70 4 v) s d ∧
    d = { s.dev.wakeIdle with regs := d.regs } ∧
    (∀ i, i < 16 → bitOf (cellOf d.regs 0x70) i =
      (if bitOf v.toNat (16 + i) then bitOf v.toNat i else bitOf (cellOf s.dev.wakeIdle.regs 0x70) i)) ∧
    (∀ i, 16 ≤ i → bitOf (cellOf d.regs 0x70) i = bitOf (cellOf s.dev.wakeIdle.regs 0x70) i) ∧
    (∀ off, off ≠ 0x70 → cellOf d.regs off = cellOf s.dev.wakeIdle.regs off) ∧
    (∀ (w : W32) (a b x y : Dev) (q : List Instr) (nv : NonVol), (∀ i, i < 16 → ¬ (bitOf v.toNat (16 + i) = true ∧ bitOf w.toNat (16 + i) = true)) →
      Answers (.registerWrite .pf0 0x70 4 v) ⟨q, nv, s.dev⟩ a → Answers (.registerWrite .pf0 0x70 4 w) ⟨q, nv, a⟩ b →
      Answers (.registerWrite .pf0 0x70 4 w) ⟨q, nv, s.dev⟩ x → Answers (.registerWrite .pf0 0x70 4 v) ⟨q, nv, x⟩ y →
      ∀ i, i < 16 → bitOf (cellOf b.regs 0x70) i = bitOf (cellOf y.regs 0x70) i)

/-- R488: a write of 1 to a bit of MEM_STATUS clears it when the write arrives and a write of 0 leaves it; the bit is
set again by what occurs later; no other register and nothing else changes. -/
def Obligations.WrittenOnesClear : Prop :=
  ∀ (s : State) (v : W32), s.dev.hostUp = true → s.dev.pwr.halt = false → ∃ d : Dev,
    Answers (.registerWrite .pf0 0x70000 4 v) s d ∧ d = { s.dev.wakeIdle with regs := d.regs } ∧
    (∀ b, b < 6 → bitOf (cellOf d.regs 0x70000) b = (bitOf (cellOf s.dev.wakeIdle.regs 0x70000) b && !bitOf v.toNat b)) ∧
    (∀ off, off ≠ 0x70000 → cellOf d.regs off = cellOf s.dev.wakeIdle.regs off) ∧
    (∀ g, (d.poisonGranule g).bit R.MEM_STATUS.UE_SEEN 0 0 = true)

/-- R483: a write to the RW fields of a register that does not act at the write is buffered: nothing in force changes
until a strobe applies the block (registers lie below 0x12_0000 or in a context window). -/
def Obligations.BufferedWritesWait : Prop :=
  ∀ (s : State) (off i j : Nat) (v : W32) (r : RegRow), s.dev.hostUp = true → off % 4 = 0 → regAt off = some (r, i, j) →
    0x10000 ≤ off → off < 0x120000 ∨ 0x200000 ≤ off → (0x200000 ≤ off → off % 0x400 ∉ [0xC, 0x3C, 0x100, 0x104, 0x108, 0x10C, 0x110, 0x114]) →
    (s.dev.pwr.halt = false ∨ blockOf off ∈ [14, 16, 17, 18]) → s.dev.wakeIdle.denies off = false → r.has .w1c = false →
    r.has .rw = true → (off < 0x200000 → r.base ∉ atOnce) → ∃ d : Dev, Answers (.registerWrite .pf0 off 4 v) s d ∧
      d = { s.dev.wakeIdle with regs := d.regs, buf := d.buf } ∧
      (∀ x, x ≠ R.GLB_PEND.reg.base → x ≠ R.GLB_UPD_STAT.reg.base → cellOf d.regs x = cellOf s.dev.wakeIdle.regs x) ∧
      (d.buf.lookup off).isSome = true ∧ (∀ x, x ≠ off → d.buf.lookup x = s.dev.wakeIdle.buf.lookup x)

/-- R492, R154, R189, R408, R504, R493: a read selector of the mailbox latches its value of Table 18-3 at once. -/
def Obligations.MailboxReadsLatch : Prop :=
  ∀ (s : State) (m : Mbx) (n : Nat), Reaches s m →
    Answers (.deviceIdRead m) s (latched m 0x100 (fun d => (d.fuse 0 + 2 ^ 32 * d.fuse 1) % 2 ^ 64 +
      2 ^ 64 * ((cellOf d.regs R.GLB_ID.reg.base + 2 ^ 32 * (s.nv.boots % 2 ^ 32)) % 2 ^ 64)) s.dev) ∧
    (n < 4 → Answers (.tbRead m n) s (latched m (0x200 + n) (fun d => d.tbVal n % 2 ^ 64 +
      2 ^ 64 * (d.liveCell (R.TB_STATUS.reg.off n 0) % 2 ^ 64)) s.dev)) ∧
    (n < 4 → Answers (.syncInStampRead m n) s (latched m (0x204 + n) (fun d => (d.tb n).stamp % 2 ^ 64 +
      2 ^ 64 * (d.tim.syncEdges % 2 ^ 64)) s.dev)) ∧
    (n < 4 → Answers (.tbOffsetRead m n) s (latched m (0x208 + n) (fun d => ofSigned 64 (d.tb n).offPri % 2 ^ 64 +
      2 ^ 64 * (ofSigned 64 (d.tb n).offShd % 2 ^ 64)) s.dev)) ∧
    (n < 16 → Answers (.trigEdgeRead m n) s (latched m (0x210 + n) (fun d => (d.trig n).lastRise % 2 ^ 64 +
      2 ^ 64 * (((d.trig n).emitted + 2 ^ 32 * (d.trig n).skipped) % 2 ^ 64)) s.dev)) ∧
    (n < 16 → ∀ k bs, (s.dev.csi n).result = some (k, bs) → Answers (.i3cResultRead m n) s (latched m (0x310 + n) (fun _ =>
      (1 + 2 * b2n k) % 2 ^ 64 + 2 ^ 64 * (fieldAt bs 0 8 % 2 ^ 64)) s.dev)) ∧
    (n < 32 → Answers (.flagSnapshotRead m n) s (latched m (0x400 + n) (fun d => d.flagWord n) s.dev)) ∧
    (n < 128 → Answers (.counterRead m n) s (latched m (0x800 + n) (fun d => (d.ctr n).val % 2 ^ 64 +
      2 ^ 64 * (cellOf d.regs (R.PMC_CTR_CFG.reg.off n 0) % 2 ^ 64)) s.dev)) ∧
    (∀ r i j, n < 2 ^ 31 → regAt n = some (r, i, j) → r.has .mb = true →
      Answers (.mbRegisterRead m n) s (latched m (0x80000000 + n) (fun d => cellOf d.regs n) s.dev))

/-- R490, R152, R154, R171, R174, R504, R189: a write selector joins what waits for the strobe of its block; an I3C
transfer joins its port's queue; the oldest transfer ends with its result. -/
def Obligations.MailboxWritesWait : Prop :=
  (∀ (s : State) (m : Mbx) (n : Nat) (v w : W64), Reaches s m →
    (n < 4 → Posts (.tbSet m n v) s m (0x280 + n) v.toNat 0 ∧ Posts (.tbStep m n v) s m (0x284 + n) v.toNat 0 ∧
      Posts (.tbPreset m n v) s m (0x288 + n) v.toNat 0) ∧
    (n < 16 → Posts (.trigWindowWrite m n v w) s m (0x290 + n) v.toNat w.toNat) ∧
    (n < 8 → ∀ p, Posts (.gmFilterWrite m n v p) s m (0x2A0 + n) v.toNat p.toNat) ∧
    (n < 128 → Posts (.counterWrite m n v) s m (0xC00 + n) v.toNat 0)) ∧
  (∀ (s : State) (m : Mbx) (p : Nat) (d0 d2 d3 : W32), Reaches s m → p < 16 → p < s.dev.ing.csi.length →
    1 ≤ bitsOf d0.toNat 11 8 → bitsOf d0.toNat 11 8 ≤ 8 →
    s.dev.get R.CSI_CFG.I3C_MODE p 0 ≠ 3 →
    ∃ d, Answers (.i3cTransfer m p d0 d2 d3) s d ∧ (d.csi p).xfers = (s.dev.csi p).xfers ++ [[d0.toNat, d2.toNat, d3.toNat]]) ∧
  (∀ (s : State) (p : Nat) (x : List Nat) (r : List (List Nat)) (nack : Bool) (bs : List Byte), p < 16 →
    (s.dev.csi p).xfers = x :: r → (s.dev.csi p).discovering = false →
    Answers (.i3cTransferDone p nack bs) s ((s.dev.setCsi p (fun c => { c with
      xfers := r
      result := some (nack, if bitOf (x.getD 0 0) 7 && !nack then slice bs 0 (bitsOf (x.getD 0 0) 11 8) else []) })).startI3c p))

/-- R408: selector 0x0400 + n reads flags 128n to 128n + 127 as they stand at the write of MBX_SEL: bit i of the data
words is flag 128n + i. From a VF the selector is refused: VALID stays 0, ERR is 2, and no data word changes. -/
def Obligations.FlagSnapshotReadsFlags : Prop :=
  ∀ (s : State) (m : Mbx) (n : Nat), n < 32 → boxOk m = true → s.dev.hostUp = true → s.dev.reachesBox m = true → ∃ d : Dev,
    Answers (.flagSnapshotRead m n) s d ∧ d = { s.dev.wakeIdle with regs := d.regs } ∧
    (viaPf0 (boxVia m) = true → (∀ i, i < 128 →
        bitOf (cellOf d.regs (mbxBase (boxOf m) + 4 + 4 * (i / 32))) (i % 32) = s.dev.flag (128 * n + i)) ∧
      cellOf d.regs (mbxBase (boxOf m) + 20) = 1) ∧
    (viaPf0 (boxVia m) = false → cellOf d.regs (mbxBase (boxOf m) + 20) = 0x20 ∧
      ∀ k, k < 4 → cellOf d.regs (mbxBase (boxOf m) + 4 + 4 * k) = cellOf s.dev.wakeIdle.regs (mbxBase (boxOf m) + 4 + 4 * k))

/-- A mailbox read changes the registers of its mailbox and nothing else but the power state of an idle device. -/
def Obligations.MailboxReadFrame : Prop :=
  ∀ (m : Mbx) (sel : Nat) (v : Dev → Nat) (d : Dev),
    latched m sel v d = { d.wakeIdle with regs := (latched m sel v d).regs } ∧
    (∀ off, (∀ k, k < 6 → off ≠ mbxBase (boxOf m) + 4 * k) → cellOf (latched m sel v d).regs off = cellOf d.wakeIdle.regs off) ∧
    d.wakeIdle.mem = d.mem ∧ d.wakeIdle.ctxs = d.ctxs ∧ d.wakeIdle.flags = d.flags ∧ d.wakeIdle.tim = d.tim ∧
    d.wakeIdle.outbox = d.outbox

/-! ### Memory -/

/-- Bytes written are read back, and every other byte of memory keeps its value. -/
def Obligations.StoredBytesReadBack : Prop :=
  ∀ (m : Mem) (x : Nat) (bs : List Byte), (∀ i, i < bs.length → m.isZero (x + i) = false) →
    (m.put x bs).bytes x bs.length = bs ∧ (∀ y, y < x ∨ x + bs.length ≤ y → (m.put x bs).byte y = m.byte y) ∧
    (m.wf = true → (m.put x bs).wf = true)

/-- R120: a block that a purge has marked reads as zero; the first write to any of its bytes writes zero to the rest
of the block in the same operation and removes the mark; bytes of other blocks keep their value. -/
def Obligations.MarkedBlockReadsZeroUntilWritten : Prop :=
  ∀ (d : Dev) (w : Who) (x : Nat) (bs : List Byte), d.mem.isZero x = true → x % 64 + bs.length ≤ 64 → ∃ e : Dev,
    d.writeGranule w x bs = (e, none) ∧
    (∀ y, y / 65536 = x / 65536 → d.mem.byte y = 0) ∧ e.mem.isZero x = false ∧ e.mem.bytes x bs.length = bs ∧
    (∀ y, y / 65536 = x / 65536 → y < x ∨ x + bs.length ≤ y → e.mem.byte y = 0) ∧
    (∀ y, y / 65536 ≠ x / 65536 → e.mem.byte y = d.mem.byte y)

/-- R126, R138, R141 to R143: a mover copies a piece of the copy whose turn it is; an access past its budget and a T3
read without a completion end their run; a completion lands its data or poisons the destination. -/
def Obligations.CopiesAndAccessesEnd : Prop :=
  (∀ (s : State) (t : Nat) (c : Copy) (r : Run) (e : Dev) (done : Nat), t < 16 →
    minBy (fun (x y : Copy × Run) => edf x.2 y.2) (s.dev.moverReady t) = some (c, r) → s.dev.isFenced 7 t = false →
    mvSame c.desc = false → isPeer (mvDst c.desc) = false → (mvZero c.desc = true ∨ isPeer (mvSrc c.desc) = false ∧ isT3 (mvSrc c.desc) = false) →
    ((s.dev.markStarted r.id).setCopy t c.id (fun x => { x with started := true })).movePieces (c.who r t) c.desc c.done
      (min 65536 (mvTotal c.desc - c.done)) 65536 = (e, done, none) →
    Answers (.moverStep t) s (e.advanceCopy t c (done - c.done))) ∧
  (∀ (s : State) (t : Nat) (c : Copy) (r : Run), t < 16 →
    minBy (fun (x y : Copy × Run) => edf x.2 y.2) (s.dev.moverReady t) = some (c, r) → s.dev.isFenced 7 t = false →
    mvSame c.desc = true →
    Answers (.moverStep t) s (((s.dev.markStarted r.id).setCopy t c.id (fun x => { x with started := true })).endCopy t c)) ∧
  (∀ (s : State) (run addr : Nat) (r : Run) (e : Dev) (err : AccErr), s.dev.run run = some r → r.started.isSome = true →
    tierOf addr = 2 → s.dev.tierErr false 2 addr = (e, some err) → Answers (.t2BudgetExpiry run addr) s (e.failAcc r err)) ∧
  (∀ (s : State) (tag : Nat) (t : T3Read), s.dev.t3Of tag = some t →
    (t.until_ ≤ s.dev.now → Answers (.t3BudgetExpiry tag) s (s.dev.t3Fail t (.tier false 3 t.da))) ∧
    (∀ bs, Answers (.t3ReadCompletion tag (.data bs)) s (s.dev.t3Land t bs)) ∧
    Answers (.t3ReadCompletion tag .poisoned) s (s.dev.t3Fail t (.poison 3 (t.da / 64 * 64))) ∧
    (∀ r, r = PcieReply.unsupported ∨ r = .aborted ∨ r = .timeout →
      Answers (.t3ReadCompletion tag r) s (s.dev.t3Fail t (.tier true 3 t.da))) ∧
    (∀ c, c < 2048 → Answers (.pcieCompletionTimeout (some tag) c) s (s.dev.t3Fail t (.tier true 3 t.da))))

/-! ### Ingest and time -/

/-- R171, R174, R218: a due pulse is emitted, or skipped within 1 µs of its strobe (R173); an edge of SYNC_IN stamps
and loads the bases and resynchronises the lanes. -/
def Obligations.TriggersAndSync : Prop :=
  (∀ (s : State) (t : Nat) (x : Trig), t < 16 → x = s.dev.trig t → x.armed = true → x.start + x.next * x.period ≤ s.dev.tbVal x.base →
    ∀ last, last = (decide (x.period = 0) || (decide (x.stop ≠ 0) && decide (x.stop ≤ x.start + x.next * x.period + x.period))) →
    (x.strobeAt + 1000 ≤ x.start + x.next * x.period →
      Answers (.trigPulse t) s ((((s.dev.emit (.trig t (!x.pol))).emit (.trig t x.pol)).setTrig t (fun y => { y with
        emitted := (y.emitted + 1) % 2 ^ 32
        lastEdge := x.start + x.next * x.period })).setTrig t (fun y => { y with next := y.next + 1, armed := !last }))) ∧
    (x.start + x.next * x.period < x.strobeAt + 1000 →
      Answers (.trigPulse t) s (((s.dev.set R.TRIG_STAT.SKIPPED t 0 1).setTrig t (fun y => { y with
        skipped := (y.skipped + 1) % 2 ^ 32 })).setTrig t (fun y => { y with next := y.next + 1, armed := !last })))) ∧
  (∀ (s : State) (rising : Bool), s.dev.bit R.SYNC_CFG.EN 0 0 = true → rising ≠ s.dev.bit R.SYNC_CFG.EDGE 0 0 →
    (s.dev.syncIn.bit R.SYNC_CFG.SGC_RESET 0 0 = false → Answers (.syncInEdge rising) s s.dev.syncIn) ∧
    (s.dev.syncIn.bit R.SYNC_CFG.SGC_RESET 0 0 = true → Answers (.syncInEdge rising) s s.dev.syncIn.syncLanes)) ∧
  (∀ s : State, s.dev.hostUp = true → Answers .sgcSync s s.dev.wakeIdle.syncLanes)

/-- R160 to R164, R167: what a PTP slot does with a message that it accepts. -/
def Obligations.PtpReceives : Prop :=
  (∀ (s : State) (n : Nat) (m : PtpMsg), n < 8 → s.dev.isRx n = true → s.dev.accepts n m = true →
    (m.twoStep = false → Answers (.rxSync n m) s
      (s.dev.completeSync n ((List.range 4).map s.dev.tbVal) ((ptpT64 m : Int) + ptpCorr m))) ∧
    (m.twoStep = true → Answers (.rxSync n m) s (s.dev.setSlot n (fun x => { x with
      pendSync := some (m.seqId.toNat, (List.range 4).map s.dev.tbVal, toSigned 64 m.correction.toNat) }))) ∧
    (∀ recv c, (s.dev.slot n).pendSync = some (m.seqId.toNat, recv, c) → Answers (.rxFollowUp n m) s
      (s.dev.completeSync n recv ((ptpT64 m : Int) + (c + toSigned 64 m.correction.toNat) / 65536))) ∧
    ((s.dev.slot n).filtId = 0 ∨ m.gmId.toNat = (s.dev.slot n).filtId → Answers (.rxAnnounce n m) s
      (s.dev.setSlot n (fun x => { x with lastAnn := some s.dev.now, ann := some m }))) ∧
    (∀ t3 a b, (s.dev.slot n).exch = some (m.seqId.toNat, t3, a, b) → m.reqId.toNat = s.dev.clockId n →
      Answers (.rxDelayResp n m) s (s.dev.setSlot n (fun x => { x with
        exch := none
        delay := (x.syncDiff + ((ptpT64 m : Int) - ptpCorr m - t3)) / 2 })))) ∧
  (∀ (s : State) (n : Nat) (m : PtpMsg), n < 8 → s.dev.isRx n = true →
    (∀ t1 a b, (s.dev.slot n).exch = some (m.seqId.toNat, t1, a, b) → m.reqId.toNat = s.dev.clockId n → m.twoStep = false →
      Answers (.rxPdelayResp n m) s (s.dev.setSlot n (fun x => { x with
        exch := none
        delay := (((s.dev.slotNow n : Int) - t1) - ptpCorr m) / 2 }))) ∧
    (∀ t1 a b, (s.dev.slot n).exch = some (m.seqId.toNat, t1, a, b) → m.reqId.toNat = s.dev.clockId n → m.twoStep = true →
      Answers (.rxPdelayResp n m) s (s.dev.setSlot n (fun x => { x with
        exch := some (m.seqId.toNat, t1, s.dev.slotNow n, (ptpT64 m : Int) + ptpCorr m) }))) ∧
    (∀ t1 t4 t2, (s.dev.slot n).exch = some (m.seqId.toNat, t1, t4, t2) → t4 ≠ 0 → m.reqId.toNat = s.dev.clockId n →
      Answers (.rxPdelayRespFollowUp n m) s (s.dev.setSlot n (fun x => { x with
        exch := none
        delay := (((t4 : Int) - t1) - ((ptpT64 m : Int) + ptpCorr m - t2)) / 2 })))) ∧
  (∀ (s : State) (n : Nat) (m : PtpMsg), n < 8 → s.dev.isTx n = true →
    Answers (.rxDelayReq n m) s (s.dev.sendPtp n 9 { s.dev.ptpMsg n m.seqId.toNat (s.dev.slotNow n) false with
      reqId := m.clockId
      reqPort := m.portNum
      correction := m.correction
      logInterval := BitVec.ofNat 8 (ofSigned 8 (toSigned 4 (s.dev.get R.PTP_SLOT_ANN.LOG_DELAY n 0))) }) ∧
    (s.dev.bit R.PTP_SLOT.ONE_STEP n 0 = true → ∃ d : Dev, d = { s.dev with freeIx := s.dev.freeIx + 1 } ∧
      Answers (.rxPdelayReq n m) s (d.sendPtp n 3 { d.ptpMsg n m.seqId.toNat 0 false with
        reqId := m.clockId
        reqPort := m.portNum
        correction := m.correction + BitVec.ofNat 64 ((Config.measured s.dev.freeIx).toNat * 65536) }))) ∧
  (∀ (s : State) (e : Nat), e < 2 → Answers (.rxPtpDropped e) s { s.dev with ing := { s.dev.ing with
    ptpDrops := modifyAt s.dev.ing.ptpDrops e (· + 1) } })

/-- R163, R164, R167: the timers of a PTP slot send, and faults it after 3 intervals without a Sync or its number of
intervals without an Announce. -/
def Obligations.PtpTimersAct : Prop :=
  (∀ (s : State) (n : Nat), n < 8 → s.dev.isTx n = true → s.dev.passed (s.dev.slot n).lastTxSync (s.dev.syncInt n) = true →
    ∃ d : Dev, d = s.dev.setSlot n (fun x => { x with lastTxSync := some s.dev.now, seqSync := ((s.dev.slot n).seqSync + 1) % 65536 }) ∧
      (s.dev.bit R.PTP_SLOT.ONE_STEP n 0 = true →
        Answers (.ptpSyncTxTimer n) s (d.sendPtp n 0 (d.ptpMsg n (s.dev.slot n).seqSync (s.dev.slotNow n) false))) ∧
      (s.dev.bit R.PTP_SLOT.ONE_STEP n 0 = false →
        ∃ e, e = d.sendPtp n 0 (d.ptpMsg n (s.dev.slot n).seqSync 0 true) ∧
          Answers (.ptpSyncTxTimer n) s (e.sendPtp n 8 (d.ptpMsg n (s.dev.slot n).seqSync (s.dev.slotNow n) false)))) ∧
  (∀ (s : State) (n : Nat), n < 8 → s.dev.isTx n = true → s.dev.passed (s.dev.slot n).lastTxAnn (s.dev.annInt n) = true →
    Answers (.ptpAnnounceTxTimer n) s ((s.dev.sendPtp n 11 (s.dev.announce n)).setSlot n (fun x => { x with
      lastTxAnn := some s.dev.now
      seqAnn := (x.seqAnn + 1) % 65536 }))) ∧
  (∀ (s : State) (n : Nat), n < 8 → s.dev.isRx n = true → s.dev.passed (s.dev.slot n).lastTxDelay (s.dev.delayInt n) = true →
    ∃ d : Dev, d = s.dev.setSlot n (fun x => { x with
        lastTxDelay := some s.dev.now
        seqDelay := ((s.dev.slot n).seqDelay + 1) % 65536
        exch := some ((s.dev.slot n).seqDelay, s.dev.slotNow n, 0, 0) }) ∧
      Answers (.ptpDelayReqTxTimer n) s (d.sendPtp n (if d.get R.PTP_SLOT.PROFILE n 0 = 0 then 1 else 2)
        (d.ptpMsg n (s.dev.slot n).seqDelay 0 false))) ∧
  (∀ (s : State) (n t : Nat), n < 8 → s.dev.isRx n = true → (s.dev.slot n).faulted = false →
    ((s.dev.slot n).lastSync = some t → t + 3 * s.dev.syncInt n ≤ s.dev.now → Answers (.syncTimeout n) s (s.dev.faultSlot n)) ∧
    ((s.dev.slot n).lastAnn = some t → t + max 2 (min 10 (s.dev.get R.PTP_SLOT_ANN.ANN_TIMEOUT n 0)) * s.dev.annInt n ≤ s.dev.now →
      Answers (.announceTimeout n) s (s.dev.faultSlot n)))

/-- R181 to R187, R204: what happens on a camera port. -/
def Obligations.CameraPortsAct : Prop :=
  (∀ (s : State) (p : Nat), p < 16 → s.dev.bit R.CSI_CFG.EN p 0 = true →
    (s.dev.bit R.CSI_STAT.LINK p 0 = false → Answers (.csiLp11Detect p) s
      ((((s.dev.wakeIdle.set R.CSI_STAT.LINK p 0 1).set R.CSI_STAT.IDENT p 0 0).set R.CSI_STAT.I2C_ONLY p 0 0).setCsi p
        (fun c => { c with discovering := true, vcs := 0, ident := 0, bcr := 0, dcr := 0 }))) ∧
    (∀ rising, s.dev.bit R.CSI_CFG.STB_EN p 0 = true → rising ≠ s.dev.bit R.CSI_CFG.STB_EDGE p 0 →
      Answers (.csiStrobeEdge p rising) s (s.dev.setCsi p (fun c => { c with strobe := some ((List.range 4).map s.dev.tbVal) }))) ∧
    (∀ vc, vc < 16 → s.dev.bit R.CSI_STAT.LINK p 0 = true →
      Answers (.csiFrameEnd p vc) s (s.dev.endFrame (16 * p + vc)) ∧
      (∀ b, s.dev.bind (16 * p + vc) = some b → vc = 0 → s.dev.idWrong p b = false →
        Answers (.csiFrameStart p vc) s (s.dev.startFrame b.stream (s.dev.csiStamp p b) 0 0)) ∧
      (∀ k b, k.vc = vc → k.headerBad = false → k.crcBad = false → s.dev.bind (16 * p + vc) = some b → k.dt = dtOf b.ld →
        Answers (.csiPacket p k) s (s.dev.csiLine (16 * p + vc) k)) ∧
      (∀ k b, k.vc = vc → k.headerBad = false → k.crcBad = true → s.dev.bind (16 * p + vc) = some b → k.dt = dtOf b.ld →
        (s.dev.addSat R.CSI_STAT.CRC_ERR p 0 1).bind (16 * p + vc) = some b →
        Answers (.csiPacket p k) s ((s.dev.addSat R.CSI_STAT.CRC_ERR p 0 1).csiLine (16 * p + vc) k)))) ∧
  (∀ (s : State) (p : Nat) (i : BitVec 48) (b c : Byte), p < 16 → (s.dev.csi p).discovering = true →
    s.dev.get R.CSI_CFG.I3C_MODE p 0 = 0 → ∃ d : Dev,
      d = (((s.dev.setCsi p (fun x => { x with discovering := false, ident := i.toNat, bcr := b.toNat, dcr := c.toNat })).set
        R.CSI_STAT.IDENT p 0 1).set R.CSI_STAT.I2C_ONLY p 0 0) ∧
      ∃ e : Dev, e = d.attachEvent p 0 (16 * p) c.toNat b.toNat (d.csiPhy p) i.toNat ∧
      Answers (.csiDiscoveryDone p (some (i, b, c))) s
        (((e.csiBinds p).foldl (fun d x => if d.idWrong p x then d.loseStream x.stream 3 else d) e).startI3c p)) ∧
  (∀ (s : State) (p : Nat), p < 16 → ∃ d : Dev,
    d = (s.dev.set R.CSI_STAT.LINK p 0 0).setCsi p (fun c => { c with discovering := false }) ∧
    Answers (.csiLinkLossTimeout p) s ((d.csiBinds p).foldl (fun d b => d.loseStream b.stream 1) d))

/-- R204, R180, R190 to R193: a silent stream is lost, an old slot closes, packets reach their stream entry and others
are counted. -/
def Obligations.StreamsAct : Prop :=
  (∀ (s : State) (x : Nat) (b : Bind), s.dev.bind x = some b → b.lastAt + ldLoss b.ld * b.period ≤ s.dev.tbVal b.tb →
    s.dev.mirroredIn x = false → ((∃ p v, srcOf x = .csi p v) ∨ (∃ n, srcOf x = .eth n) ∨ ∃ i, srcOf x = .spi i) →
    Answers (.streamLossTimeout x) s (s.dev.loseStream x 2)) ∧
  (∀ (s : State) (x : Nat) (b : Bind) (o : OpenSlot), srcOf x ≠ .bad → s.dev.bind x = some b → b.slot = some o →
    isImage (ldFormat b.ld) = false → o.since + (s.dev.pcal b.part).orbit < s.dev.tbVal b.tb →
    Answers (.slotCloseTimeout x) s (s.dev.closeSlot x)) ∧
  (∀ (s : State) (k : RtpPacket), k.port < 2 → ∃ d : Dev,
    d = { s.dev with ing := { s.dev.ing with ethUp := modifyAt s.dev.ing.ethUp k.port (fun _ => true) } } ∧
    (∀ n, (List.range 64).find? (fun n =>
        d.bit R.ETH_SM_CFG.EN n 0 && decide (d.get R.ETH_SM_CFG.PORT n 0 = k.port ∧ n / 32 = k.port ∧
          d.get R.ETH_SM_CFG.UDP_PORT n 0 = k.udpPort) &&
        (d.bit R.ETH_SM_CFG.SSRC_ANY n 0 || decide (d.get R.ETH_SM_SSRC.SSRC n 0 = k.ssrc.toNat))) = some n →
      Answers (.ethStreamPacket k) s (d.ethPacket n k))) ∧
  (∀ (s : State) (e : Nat), e < 2 → ∃ d : Dev,
    d = (s.dev.ing.binds.filter (fun b => match srcOf b.stream with | .eth n => decide (n / 32 = e) | _ => false)).foldl
      (fun d b => d.loseStream b.stream 1)
      { s.dev with ing := { s.dev.ing with ethUp := modifyAt s.dev.ing.ethUp e (fun _ => false) } } ∧
    Answers (.ethLinkDown e) s ((below 8 (fun i => d.bit R.PTP_SLOT.EN i 0 && decide (d.get R.PTP_SLOT.PORT i 0 = e))).foldl
      (fun d i => d.faultSlot i) d)) ∧
  (∀ (s : State) (e : Nat), e < 2 → Answers (.ethFrameDropped e) s { s.dev with ing := { s.dev.ing with
    ethDrops := modifyAt s.dev.ing.ethDrops e (· + 1) } })

/-- R195 to R199, R204, R206, R212, R220: IMU transactions, encoders, sigma-delta inputs and the lanes' outputs. -/
def Obligations.SampledInputsAct : Prop :=
  (∀ (s : State) (i : Nat) (rising : Bool) (b : Bind), i < 8 → s.dev.bind (0x200 + i) = some b → s.dev.bit R.SPI_CFG.EN i 0 = true →
    s.dev.bit R.SPI_CFG.POLLED i 0 = false → rising ≠ s.dev.bit R.SPI_CFG.DRDY_EDGE i 0 → ∃ d : Dev,
      d = s.dev.setBind b.stream (fun x => { x with lastAt := s.dev.tbVal b.tb }) ∧
      ((d.spi i).running = none → Answers (.spiDrdyEdge i rising) s
        ((d.setSpi i (fun x => { x with running := some (s.dev.tbVal b.tb) })).emit (.spi i)))) ∧
  (∀ (s : State) (i : Nat) (b : Bind), i < 8 → s.dev.bind (0x200 + i) = some b → s.dev.bit R.SPI_CFG.EN i 0 = true →
    s.dev.bit R.SPI_CFG.POLLED i 0 = true → (s.dev.spi i).lastPoll + ldRate b.ld ≤ s.dev.tbVal b.tb → ∃ d : Dev,
      d = (s.dev.setBind b.stream (fun x => { x with lastAt := s.dev.tbVal b.tb })).setSpi i
        (fun x => { x with lastPoll := s.dev.tbVal b.tb }) ∧
      ((d.spi i).running = none → Answers (.spiPollTimer i) s
        ((d.setSpi i (fun x => { x with running := some (s.dev.tbVal b.tb) })).emit (.spi i)))) ∧
  (∀ (s : State) (i t : Nat) (bs : List Byte) (b : Bind), i < 8 → (s.dev.spi i).running = some t → s.dev.bind (0x200 + i) = some b →
    ldFormat b.ld = 0x12 → ∃ d : Dev, d = s.dev.setLane (16 + i) (fun x => { x with
        fifo := x.fifo ++ [LaneIn.mk (b2n (s.dev.bit R.SPI_CFG.POLLED i 0))
          (if s.dev.bit R.SPI_CFG.POLLED i 0 then ldRate b.ld else 2) (spiChannels b.spi (bs.take (fieldAt b.spi 1 1)))] }) ∧
      ((d.spi i).waiting = none → Answers (.spiTransactionDone i bs) s
        (d.setSpi i (fun x => { x with running := none, waiting := none })))) ∧
  (∀ (s : State) (i : Nat) (a b : Bool) (x : Bind), i < 8 → s.dev.bit R.ENC_CFG.EN i 0 = true →
    (a ≠ (s.dev.enc i).a ∨ b ≠ (s.dev.enc i).b) →
    (∀ t, (s.dev.enc i).lastEdgeNow = some t → t + 40 + 10 * s.dev.get R.ENC_CFG.FILTER i 0 ≤ s.dev.now) →
    s.dev.bind (0x210 + i) = some x → ∀ k, k = (quadPos a b + 4 - quadPos (s.dev.enc i).a (s.dev.enc i).b) % 4 →
    ∀ f : Int, f = (if k = 1 then 1 else if k = 3 then -1 else 0) →
    Answers (.encoderEdge i a b) s (s.dev.setEnc i (fun e => ({ e with
      count := toSigned 32 (ofSigned 32 (e.count + (if s.dev.bit R.ENC_CFG.DIR i 0 then -f else f)))
      a := a
      b := b
      suspect := e.suspect || (a != e.a && b != e.b)
      fault := false
      lastEdge := s.dev.tbVal x.tb
      lastEdgeNow := some s.dev.now }).reload))) ∧
  (∀ (s : State) (i : Nat), i < 8 → s.dev.bit R.ENC_CFG.EN i 0 = true →
    (s.dev.bit R.ENC_CFG.INDEX_EN i 0 = true →
      Answers (.encoderIndex i) s (s.dev.setEnc i (fun e => ({ e with armed := true }).reload))) ∧
    Answers (.encoderFault i) s ((s.dev.setEnc i (fun e => { e with suspect := true, fault := true })).loseStream (0x210 + i) 5) ∧
    (∀ b, s.dev.bind (0x210 + i) = some b → (s.dev.enc i).lastLatch + ldRate b.ld ≤ s.dev.tbVal b.tb → (s.dev.enc i).fault = false →
      Answers (.encoderLatchTimer i) s
        ((((s.dev.setEnc i (fun e => { e with lastLatch := s.dev.tbVal b.tb })).addRecord b.stream (s.dev.tbVal b.tb) 2 0
          (leBytes 8 (s.dev.tbVal b.tb) ++ leBytes 4 (ofSigned 32 (s.dev.enc i).count) ++
            leBytes 4 (b2n (s.dev.enc i).suspect + 2 * b2n false + 4 * b2n (s.dev.enc i).indexSeen) ++
            leBytes 8 (s.dev.enc i).lastEdge ++ List.replicate 8 0)).orrerySample b.stream b.tb (s.dev.tbVal b.tb) false
              [ofSigned 32 (s.dev.enc i).count]).restoreStream b.stream))) ∧
  (∀ (s : State) (c : Nat), c < 16 →
    (s.dev.bit R.SDI_CFG.EN c 0 = true →
      Answers (.sdiClockLoss c) s ((s.dev.set R.SDI_STAT.CLK_LOSS c 0 1).breakSdi c 1) ∧
      Answers (.sdiDataStuck c) s ((s.dev.set R.SDI_STAT.STUCK c 0 1).breakSdi c 4)) ∧
    ((s.dev.lane c).broken = true → ∃ d : Dev,
      d = (((s.dev.set R.SDI_STAT.CLK_LOSS c 0 0).set R.SDI_STAT.STUCK c 0 0).set R.SDI_STAT.RECOVERING c 0 0).setLane c
        (fun x => { x with broken := false, syncHeld := false }) ∧
      ((d.lane c).active = false → Answers (.sdiRecovery c) s d) ∧
      ((d.lane c).active = true → Answers (.sdiRecovery c) s (d.restartLane c true (s.dev.lane c).syncHeld)))) ∧
  (∀ (s : State) (l : Nat) (bits : List Bool) (b : Bind), l < 24 → s.dev.ing.binds.find? (fun b => decide (laneOf b.stream = some l)) = some b →
    (s.dev.lane l).active = true → s.dev.bit R.SGC_LANE_CFG.EN l 0 = true → (s.dev.lane l).next ≤ s.dev.tbVal b.tb →
    Answers (.sgcGridOutput l bits) s (s.dev.gridOutput l bits))

/-! ### Engines, solver, place search, map, Orrery -/

/-- R231, R234: the unit makes one band of the task whose turn it is; an uncorrectable error of its store ends the
run. -/
def Obligations.EnginesMakeBands : Prop :=
  ∀ (s : State) (u : Nat) (r : Run) (k : Nat) (t : Task),
    (∀ kind eng n c, (kind, eng, n, c) ∈ unitRows u false → u < n → UnitTurn s kind u r k t →
      ∀ e, BandMade (s.dev.noteWaits kind u) eng r k t e → Answers c s e) ∧
    (∀ kind eng n c, (kind, eng, n, c) ∈ unitRows u true → u < n → UnitTurn s kind u r k t →
      Answers c s (((s.dev.noteWaits kind u).markStarted r.id).internalUe
        (r.who (if t.kind ≤ 5 then 5 else 6) (visIndex t.kind t.unit) none) r t t.band))

/-- R315, R332, R345, R336 to R339: a wave of the solver lattice, a step of a walker, the end of a sharded search, and
the steps of an index's changes, retirement and rebuild. -/
def Obligations.SolverAndSearchProceed : Prop :=
  (∀ (s : State) (g k : Nat) (h : HostView) (r : Run) (t : Task), g < 16 →
    minBy edf (s.dev.runs.filter (fun r => r.eligible && (s.dev.slxReady r g).isSome)) = some r → s.dev.slxReady r g = some k →
    s.dev.isFenced 9 g = false → (∀ i, i < 16 → s.dev.isFenced 9 (32 + 16 * g + i) = false) → r.tasks[k]? = some t → t.band ≠ 0 →
    ((s.dev.markStarted r.id).run r.id).bind (fun x => x.tasks[k]?) = some t →
    Answers (.slxWave g h []) s (let d := s.dev.markStarted r.id
      (((placeWave (lostCores s.nv) g [] (t.pendingOn g)).foldl
        (fun d p => d.runProblem r k g p.1 (16 * g + p.2) ((s.dev.markStarted r.id).tauOf r.part) h []) d).addWrap
          R.SLX_GROUP_STAT.WAVES g 0 1).endSlx r.id k)) ∧
  (∀ (s : State) (w k : Nat) (h : HostView) (ue : List (Nat × Nat)) (r : Run) (t : Task) (x : Search), w < 8 →
    minBy edf (s.dev.runs.filter (fun r => r.eligible && (s.dev.pseReady r w).isSome)) = some r → s.dev.pseReady r w = some k →
    s.dev.isFenced 10 w = false → r.tasks[k]? = some t → (s.dev.markStarted r.id).search r.id k = some x →
    Answers (.pseWalkerStep w h ue) s ((((x.pendingOn w).take 32).foldl (fun d i => d.runQuery r k w i (ue.lookup i))
      (s.dev.markStarted r.id)).endSearch r.id k)) ∧
  (∀ (s : State) (run : Nat) (x : Search), s.dev.searches.filter (fun x => decide (x.run = run)) = [x] → x.run = run →
    s.dev.merges x = true → Answers (.shardWaitExpiry run) s (s.dev.endSearch run x.task)) ∧
  (∀ (s : State) (slot : Nat) (h : HostView) (x : Idx) (r : Req) (e : Dev) (bs : List Byte), slot < 16 →
    s.dev.idx slot = some x → s.dev.nextChange x = some r → s.dev.maintTurn (.hostReq r.id) = true → x.writable = true →
    (s.dev.dropMaint (.hostReq r.id)).read (r.who 10) h (dArg0 r.desc) (dLen r.desc) = (e, .ok bs) →
    (dOpc r.desc = 0x41 → vectorsOk x.blk bs = true →
      ∃ d, d = e.insertVectors r x bs ∧ Answers (.indexChangeApply slot h) s (d.settleWaits (d.reqs.length + 1))) ∧
    (dOpc r.desc = 0x42 → idsOk bs = true →
      ∃ d, d = e.deleteVectors r x bs ∧ Answers (.indexChangeApply slot h) s (d.settleWaits (d.reqs.length + 1)))) ∧
  (∀ (s : State) (slot : Nat) (x : Idx), slot < 16 → s.dev.idx slot = some x → x.retired ≠ x.epoch →
    (∀ r ∈ s.dev.runs, r.id ∉ x.before) →
    Answers (.indexEpochRetire slot) s (({ s.dev with
      mem := (s.dev.mem.store (ixRoot x.blk + 4) (leBytes 4 x.epoch)).sealIx x.blk } : Dev).setIdx slot (fun x => { x with
        retired := x.epoch
        gone := x.gone.map (fun (g : Nat × Bool) => (g.1, true)) }))) ∧
  (∀ (s : State) (slot : Nat) (x : Idx) (r : IdxReb) (m : Mem) (r' : IdxReb), slot < 16 →
    s.dev.maintTurn (.rebuild slot) = true → s.dev.idx slot = some x → x.rebuild = some r →
    x.rebuildStep s.dev.shard s.dev.mem r = some (m, r') →
    Answers (.indexRebuildStep slot) s
      ((({ s.dev with mem := m } : Dev).setIdx slot (fun x => { x with rebuild := some r' })).warnIdx slot)) ∧
  (∀ (s : State) (slot : Nat) (x : Idx), slot < 16 → s.dev.hostUp = true → s.dev.wakeIdle.idx slot = some x → x.rebuild = none →
    Answers (.pseIndexRebuild slot) s (s.dev.wakeIdle.beginRebuild slot))

/-- R287, R283, R294, R296: the map commit whose turn it is is checked and written, an epoch retires, a rebuild copies
the live entries, the journal is cleared. -/
def Obligations.MapProceeds : Prop :=
  (∀ (s : State) (r : Req) (m : MapSt) (e e2 : Dev) (bs : List Byte) (ops : List (List Byte)) (w : Work) (l : List Byte),
    s.dev.hasAuthority = true → s.dev.nextCommit = some r → s.dev.maintTurn (.hostReq r.id) = true → s.dev.commitReady = true →
    s.dev.map = some m → (s.dev.dropMaint (.hostReq r.id)).readDev (r.who 6) (dArg0 r.desc) (dLen r.desc) = (e, .ok bs) →
    opsOf m.blk bs = some ops → w = runOps ⟨m.blk, e.shard, m.epoch, m.retired, dArg1 r.desc % 2 ^ 32⟩ e.mem m.others ops →
    w.bad = false → w.conflict = false → w.short = 0 → e.readRanges (r.who 6) w.reads = (e2, .ok l) →
    Answers .mapCommitApply s (((({ e2 with
      mem := w.ids.foldl (fun (mm : Mem) (p : Nat × Nat) => mm.store (dArg0 r.desc + opOffset ops p.1 + 4) (leBytes 4 p.2)) w.mem
      } : Dev).setReq r.id (fun r => { r with st := .publishing })).setMap (fun m => { m with staged := some (r.id, ops) })).settleWaits
        (s.dev.reqs.length + 1))) ∧
  (∀ (s : State) (m : MapSt), s.dev.map = some m → m.retired ≠ m.epoch → m.pubNow + 1000 * mbHoldUs m.blk ≤ s.dev.now →
    (∀ r ∈ s.dev.runs, r.id ∉ m.before) →
    Answers .mapEpochRetire s (({ s.dev with mem := (s.dev.mem.store (mbRoot m.blk + 4) (leBytes 4 m.epoch)).sealRoot m.blk } : Dev).setMap
      (fun m => { m with retired := m.epoch }))) ∧
  (∀ (s : State) (m : MapSt) (r : Rebuild), s.dev.maintTurn .mapRebuild = true → s.dev.map = some m → m.rebuild = some r →
    r.copied = true → Answers .mapRebuildStep s (({ s.dev with mem := r.ops.foldl (fun m' o => (m'.voxOp m.blk ⟨r.pt, r.log2⟩
      [s.dev.mem.ptSel m.blk 0, s.dev.mem.ptSel m.blk 1] [] o).1) s.dev.mem } : Dev).setMap
        (fun m => { m with rebuild := some { r with ops := [] } }))) ∧
  (∀ s : State, s.dev.hostUp = true →
    Answers .mapJournalClr s (s.dev.wakeIdle.setMap (fun m => { m with jused := 0, jcount := 0 })))

/-- R252, R257, R266, R262, R259, R261, R269: the Orrery's steps. -/
def Obligations.OrreryProceeds : Prop :=
  (∀ (s : State) (t : Nat) (k : Track) (l : Nat), t < 32 → s.dev.track t = some k → k.admitted = true → k.lane = some l →
    nextOnGrid (s.dev.gridPeriod k) (s.dev.gridOffset k) k.grid ≤ s.dev.trackNow k → s.dev.isFenced 6 k.island = false →
    Answers (.propagationStep t) s (s.dev.propagate t)) ∧
  (∀ (s : State) (run t src hdr : Nat) (ins : List (Nat × Nat)) (ns : Nat) (r : Run) (k : Track) (x : FSrc) (e : Dev) (bs : List Byte),
    t < 32 → src < 32 → s.dev.run run = some r → s.dev.track t = some k → k.srcs[src]? = some x → k.admitted = true →
    r.eligible = true → r.applied = false → r.part = k.part → s.dev.isFenced 6 k.island = false →
    (s.dev.markStarted run).readRanges (r.who 6 k.island none) ((hdr, 64) :: ins) = (e, .ok bs) →
    ((stampOf x.kind bs : Int) - x.delayNs).toNat + k.histNs < k.grid →
    Answers (.visualCorrection run t src hdr ins false ns) s
      ((e.setRun run (fun r => { r with applied := true })).addSat R.FTE_TRACK_STAT.OLD t 0 1)) ∧
  (∀ (s : State) (run t src hdr : Nat) (ins : List (Nat × Nat)) (ns : Nat) (r : Run) (k : Track) (x : FSrc) (e : Dev) (bs : List Byte),
    t < 32 → src < 32 → s.dev.run run = some r → s.dev.track t = some k → k.srcs[src]? = some x → k.admitted = true →
    r.eligible = true → r.applied = false → r.part = k.part → s.dev.isFenced 6 k.island = false → x.camera = false →
    (s.dev.markStarted run).readRanges (r.who 6 k.island none) ((hdr, 64) :: ins) = (e, .ok bs) →
    ∀ tm, tm = ((stampOf x.kind bs : Int) - x.delayNs).toNat → k.grid ≤ tm + k.histNs →
    Answers (.visualCorrection run t src hdr ins false ns) s
      (let args := k.nom ++ k.cov ++ x.blk.map (·.toNat) ++ x.model.map (·.toNat) ++ tm :: bs.map (·.toNat)
       let pass := decide (1 ≤ (Config.orrery 8 args 0).toNat) && !(x.cause.isNone && decide ((Config.orrery 8 args 1).toNat = 1))
       let d := e.setRun run (fun r => { r with applied := true })
       let d := if pass && x.cause.isNone then d.setTrack t (fun k => { k with
           nom := (freeNums 2 args 136).take 16
           cov := (freeNums 2 args 136).drop 16
           corrs := k.corrs ++ [⟨r.prom, tm, tm :: bs.map (·.toNat)⟩] }) else d
       let d := d.countGroup t src pass
       if pass && x.cause.isNone then d.checkLost t else d)) ∧
  (∀ (s : State) (t run seg : Nat) (r : Run) (k : Track) (w : Wb), t < 32 → seg < 3 → s.dev.run run = some r →
    s.dev.track t = some k → s.dev.wb r.wb = some w → s.dev.parts = 1 → r.part = k.part → k.frames.length < k.depth →
    seg < maxBy (fun (x : Region) => if x.kind = 3 then x.segs else 0) w.place → k.cometOff = false → k.admitted = true →
    r.eligible = true → r.specFrame = false → r.applied = false → (∀ f ∈ k.frames, f.seg ≠ seg ∧ f.run ≠ run) →
    Answers (.speculativeFrameStart t run seg) s (((s.dev.markStarted run).setRun run (fun r => { r with specFrame := true })).setTrack t
      (fun k => { k with frames := k.frames ++ [⟨seg, run, freeNums 3 (k.nom ++ k.cov) 7⟩] }))) ∧
  (∀ (s : State) (run t start slot : Nat) (jobs : List Nat) (r : Run) (k : Track) (e : Entry) (d1 d2 : Dev) (to_ : Nat),
    t < 32 → s.dev.run run = some r → s.dev.track t = some k → r.src = .entry slot → s.dev.entry slot = some e →
    k.admitted = true → r.eligible = true → r.part = k.part → start ≤ s.dev.schedNow r.part → r.rel ≤ start →
    (∀ x ∈ r.streams, x.ended = true) → (∀ x ∈ r.tasks, x.done = true) → s.dev.corrPending r jobs = false →
    s.dev.isFenced 6 k.island = false → e.channel = none → d1 = s.dev.markStarted run → to_ = outInstant r.prom start →
    to_ ≤ s.dev.schedNow r.part → ∀ rec_, rec_ = d1.poseRecord k slot (d1.toTrack k r.rel) (d1.toTrack k r.prom) (d1.toTrack k to_) →
    d1.write (r.who 6 k.island none) (k.outRing + 128 * (r.k % max 1 k.outSlots)) rec_.1 = (d2, none) →
    Answers (.poseOutput run t start jobs false) s (((d2.writeFlag r.occ k.outFlag true).set R.FTE_TRACK_STAT.CONF t 0 rec_.2).finishPose
      r e to_ to_ (k.outRing + 128 * (r.k % max 1 k.outSlots)))) ∧
  (∀ (s : State) (t i : Nat) (k : Track) (x : FSrc), t < 32 → i < 32 → s.dev.track t = some k → k.srcs[i]? = some x →
    k.admitted = true → x.cause = none → x.newest.getD k.lastPass + x.extrapMax < s.dev.trackNow k →
    Answers (.sourceExtrapTimeout t i) s (s.dev.setMask t i (some 4))) ∧
  (∀ (s : State) (t : Nat) (k : Track), t < 32 → s.dev.track t = some k → k.admitted = true → k.state = 1 →
    k.lastPass + k.coastMax < s.dev.trackNow k → Answers (.coastTimeout t) s ((s.dev.setTrackState t 2).checkLost t)) ∧
  (∀ (s : State) (id a b : Nat) (q : Req) (r : Run) (k : Track) (e : Dev), s.dev.req id = some q →
    s.dev.runs.find? (fun r => decide (r.src = .req id)) = some r → s.dev.track (dArg1 q.desc % 256) = some k →
    q.win = some (a, b) → dOpc q.desc = 0x60 → b ≤ k.grid → (∀ x ∈ r.streams, x.ended = true) → (∀ x ∈ r.tasks, x.done = true) →
    r.copies = [] →
    (s.dev.markStarted r.id).write (r.who 6 k.island none) (dArg2 q.desc) (k.windowResult (dArg1 q.desc) a b) = (e, none) →
    Answers (.windowQueryServe id) s (e.finishRun r (e.okStatus r).1 (e.okStatus r).2 (dArg2 q.desc) []))

/-! ### The tensor arrays and their sequencers -/

/-- R357: an integer chunk adds the exact sum of its products to the accumulator and saturates to the INT32 range. -/
def Obligations.IntegerChunkSaturates : Prop :=
  ∀ (acc : BitVec 32) (ab : List (Int × Int)) (x : Int), x = acc.toInt + (ab.map (fun p => p.1 * p.2)).sum →
    (intChunk acc ab).1.toInt = max (-2 ^ 31) (min (2 ^ 31 - 1) x) ∧
    ((intChunk acc ab).2 = true ↔ x < -2 ^ 31 ∨ 2 ^ 31 - 1 < x)

/-- R378, R385, R374: NOP and YIELD go on; STAMP and the address-register instructions write D, modulo 2^64. -/
def Obligations.AddressInstructionsWriteD : Prop :=
  ∀ (s : State) (a q : Nat) (i : Ins) (e : Dev),
    (Issues s a q 0x00 i e → Answers (.nop a q) s (e.goOn i id)) ∧
    (Issues s a q 0x02 i e → Answers (.yield a q) s (e.goOn i (fun st => { st with inStep := false }))) ∧
    (Issues s a q 0x09 i e → bitOf i.w 33 = false →
      Answers (.stamp a q) s (e.goOn i (fun st => st.setReg (iD i.w) (e.tbVal (bitsOf i.w 35 34))))) ∧
    (Issues s a q 0x10 i e → Answers (.aset a q) s (e.goOn i (fun st => st.setReg (iD i.w) (i.w % 2 ^ 48)))) ∧
    (Issues s a q 0x11 i e → Answers (.aadd a q) s (e.goOn i (fun st => st.setReg (iD i.w) ((i.sv + i.tv) % 2 ^ 64)))) ∧
    (Issues s a q 0x12 i e →
      Answers (.asub a q) s (e.goOn i (fun st => st.setReg (iD i.w) (((i.sv : Int) - i.tv) % (2 ^ 64 : Nat)).toNat))) ∧
    (Issues s a q 0x13 i e →
      Answers (.aaddi a q) s (e.goOn i (fun st => st.setReg (iD i.w) (((i.sv : Int) + iImm i.w) % (2 ^ 64 : Nat)).toNat))) ∧
    (Issues s a q 0x14 i e →
      Answers (.amuli a q) s (e.goOn i (fun st => st.setReg (iD i.w) (((i.sv : Int) * iImm i.w) % (2 ^ 64 : Nat)).toNat))) ∧
    (Issues s a q 0x15 i e → Answers (.aand a q) s (e.goOn i (fun st => st.setReg (iD i.w) (Nat.land i.sv i.tv)))) ∧
    (Issues s a q 0x16 i e → Answers (.aor a q) s (e.goOn i (fun st => st.setReg (iD i.w) (Nat.lor i.sv i.tv)))) ∧
    (Issues s a q 0x17 i e →
      (bitsOf i.w 7 6 = 0 → Answers (.ashift a q) s (e.goOn i (fun st => st.setReg (iD i.w) (i.sv * 2 ^ bitsOf i.w 5 0 % 2 ^ 64)))) ∧
      (bitsOf i.w 7 6 = 1 → Answers (.ashift a q) s (e.goOn i (fun st => st.setReg (iD i.w) (i.sv / 2 ^ bitsOf i.w 5 0)))) ∧
      (bitsOf i.w 7 6 = 2 → Answers (.ashift a q) s (e.goOn i (fun st => st.setReg (iD i.w)
        ((toSigned 64 i.sv / (2 ^ bitsOf i.w 5 0 : Nat)) % (2 ^ 64 : Nat)).toNat)))) ∧
    (Issues s a q 0x18 i e →
      Answers (.alc a q) s (e.goOn i (fun st => st.setReg (iD i.w) (i.s.l.getD (bitsOf i.w 2 0) 0).toNat)))

/-- R375, R382, R385, R392 to R394: END, the branches, LOOP, CHECKPOINT, ROLLBACK, EVENT and FENCE. -/
def Obligations.ControlInstructionsGoOn : Prop :=
  ∀ (s : State) (a q : Nat) (i : Ins) (e : Dev),
    (Issues s a q 0x01 i e → i.s.ops = [] → i.s.spec = none →
      Answers (.endRun a q) s (e.proceed i (fun st => { st with ended := true, inStep := false }))) ∧
    (Issues s a q 0x03 i e → Answers (.br a q) s (e.proceed i (fun st => st.jump ((i.s.pc : Int) + iOff i.w).toNat))) ∧
    (Issues s a q 0x04 i e → e.flagReadable i.run.part i.flagIx = true →
      (e.flag i.flagIx = iV i.w →
        Answers (.brFlag a q) s (e.proceed i (fun st => st.jump ((i.s.pc : Int) + iOff i.w).toNat))) ∧
      (e.flag i.flagIx ≠ iV i.w → Answers (.brFlag a q) s (e.goOn i id))) ∧
    (Issues s a q 0x05 i e →
      (condOk (bitsOf i.w 23 20) i.sv i.tv = true →
        Answers (.brAcmp a q) s (e.proceed i (fun st => st.jump ((i.s.pc : Int) + iOff i.w).toNat))) ∧
      (condOk (bitsOf i.w 23 20) i.sv i.tv = false → Answers (.brAcmp a q) s (e.goOn i id))) ∧
    (Issues s a q 0x06 i e → Answers (.loop a q) s (e.proceed i (fun st => st.loop (bitsOf i.w 35 33) (bitsOf i.w 31 17)
      (if bitOf i.w 32 then i.sv % 2 ^ 32 else i.w % 2 ^ 17)))) ∧
    (Issues s a q 0x07 i e → i.s.ops = [] → ∀ g, e.tailSeg i.run.wb a (bitsOf i.w 1 0) = some g → i.s.array = a →
      e.specTrack i.run.id (bitsOf i.w 1 0) = none →
      Answers (.checkpoint a q) s ((e.undefine g.1 (min 512 g.2)).goOn i (fun st => st.setReg (iD i.w) 0))) ∧
    (Issues s a q 0x08 i e → (i.s.spec.map (·.seg)) ≠ some (bitsOf i.w 1 0) → Answers (.rollback a q) s (e.goOn i id)) ∧
    (Issues s a q 0x08 i e → (i.s.spec.map (·.seg)) = some (bitsOf i.w 1 0) → ∀ f, e.specTrack i.run.id (bitsOf i.w 1 0) = some f →
      Answers (.rollback a q) s (e.gateFail f.1 f.2 0)) ∧
    (Issues s a q 0x0A i e → i.s.spec = none → ∀ c, i.run.ctx = some c →
      Answers (.event a q) s ((e.eventAll [c] 0x5C 0 0 (leBytes 6 i.sv) 0).goOn i id)) ∧
    (Issues s a q 0x0B i e → i.s.ops = [] → Answers (.fence a q) s (e.goOn i id))

/-- R379, R381, R388 to R390: ALD, AST, the flag instructions and BARRIER; a wait ends when its flags stand, a barrier
when the last participant has arrived. -/
def Obligations.FlagsAndMemoryInstructionsGoOn : Prop :=
  (∀ (s : State) (a q : Nat) (i : Ins) (e : Dev),
    (Issues s a q 0x19 i e → ∀ h e' bs, i.ea % 8 = 0 → Free e i [(i.ea, 8)] [] → e.read i.who h i.ea 8 = (e', .ok bs) →
      Answers (.ald a q h) s (e'.goOn i (fun st => st.setReg (iD i.w) (leNat bs)))) ∧
    (Issues s a q 0x1A i e → ∀ e', i.ea % 8 = 0 → Free e i [] [(i.ea, 8)] → e.write i.who i.ea (leBytes 8 i.tv) = (e', none) →
      Answers (.ast a q) s (e'.goOn i id)) ∧
    (Issues s a q 0x1B i e → e.flagReadable i.run.part i.flagIx = true →
      Answers (.flagRead a q) s (e.goOn i (fun st => st.setReg (iD i.w) (b2n (e.flag i.flagIx))))) ∧
    (Issues s a q 0x4C i e → e.flagWritable i.run.part i.flagIx = true → i.s.ops = [] → i.s.spec = none →
      Answers (.flagSet a q) s ((e.writeFlag (i.who.occ 0) i.flagIx (iV i.w)).goOn i id)) ∧
    (Issues s a q 0x50 i e → e.flagReadable i.run.part i.flagIx = true → iClr i.w = false →
      (e.flag i.flagIx = iV i.w → Answers (.waitFlag a q) s (e.goOn i id)) ∧
      (e.flag i.flagIx ≠ iV i.w → Answers (.waitFlag a q) s (e.stall i (.flag i.flagIx 1 (iV i.w) false)))) ∧
    (Issues s a q 0x51 i e → (∀ k, k ≤ bitsOf i.w 5 0 → e.flagReadable i.run.part (i.flagIx + k) = true) → iClr i.w = false →
      (∀ k, k ≤ bitsOf i.w 5 0 → e.flag (i.flagIx + k) = iV i.w) → Answers (.waitFlags a q) s (e.goOn i id)) ∧
    (Issues s a q 0x52 i e → ∀ as, e.treeArrays i.run (bitsOf i.w 5 0) = some as → i.s.array ∈ as → bitsOf i.w 7 6 = 1 →
      i.s.array ∉ (e.treeOf i.run (bitsOf i.w 5 0)).arrived → i.s.ops = [] → i.s.spec = none →
      Answers (.barrier a q) s ((e.setTree (bitsOf i.w 5 0) { e.treeOf i.run (bitsOf i.w 5 0) with
        arrived := (e.treeOf i.run (bitsOf i.w 5 0)).arrived ++ [i.s.array] }).goOn i (fun st => { st with
          arrived := (bitsOf i.w 5 0, (e.treeOf i.run (bitsOf i.w 5 0)).gen) :: st.arrived.filter (fun x => decide (x.1 ≠ bitsOf i.w 5 0))
        })))) ∧
  (∀ (s : State) (a q f n : Nat) (v : Bool) (r : Run) (st : Stream), a < 4 → q < 16 → s.dev.current a q = some (r, st) →
    st.wait = .flag f n v false → s.dev.flagsAre f n v = true →
    Answers (.flagWaitSatisfied a q) s ((s.dev.setRun r.id (fun r => r.addCause 1)).goOn ⟨r, st, 0, 0⟩ id)) ∧
  (∀ (s : State) (t : Nat) (r : Run) (as : List Nat), t < 64 → (s.dev.tree t).run.bind s.dev.run = some r →
    s.dev.treeArrays r t = some as →
    as.filter (fun a => r.streams.any (fun x => decide (x.array = a))) ≠ [] →
    (∀ a ∈ as.filter (fun a => r.streams.any (fun x => decide (x.array = a))), a ∈ (s.dev.tree t).arrived) →
    Answers (.barrierRelease t) s (r.streams.foldl (fun d x => match x.wait with
      | .barrier t' g => if t' = t ∧ g = (s.dev.tree t).gen then d.goOn ⟨r, x, 0, 0⟩ id else d
      | _ => d) ((s.dev.setTree t ⟨(s.dev.tree t).gen + 1, [], (s.dev.tree t).run⟩).count 2 1 1 r.occ)))

/-- R383, R384, R359, R126, R379: operations of the arrays and of data movement join the outstanding ones of their
stream; ACC_LD and ACC_ST act at once; an operation completes with its effect, or with the fault that its checks found
(R366). -/
def Obligations.ArrayOperationsIssueAndComplete : Prop :=
  (∀ (s : State) (a q : Nat) (i : Ins) (e : Dev),
    (Issues s a q 0x20 i e → e.dpuTaken i = false → e.tileOk i i.sv (mmaBytes i.w) = true → e.tileOk i i.tv (mmaBytes i.w) = true →
      (bitOf i.w 25 = true → e.tileOk i i.uv 4096 = true) → MayPush e i → Answers (.mma a q) s (e.push i none)) ∧
    (Issues s a q 0x21 i e → ∀ e', e.tileOk i i.sv 4096 = true → e.dpuBusy i = false → Free e i [(i.sv, 4096)] [] →
      e.checkAll i.who (dedup ((e.outParts i.run.part i.s.array 0 i.sv).map (fun x => x.1 / 64))) = (e', none) →
      Answers (.accLd a q) s ({ e' with
        acc := putAcc e'.acc i.s.array (iAcc i.w)
          ((dpus (e'.columnsOf i.run.part i.s.array)).map (fun (x : Nat × Nat) =>
            (x.1, x.2, BitVec.ofNat 32 (leNat (e'.mem.bytes (i.sv + 128 * x.1 + 4 * x.2) 4))))) }.goOn i id)) ∧
    (Issues s a q 0x22 i e → ∀ e', e.tileOk i i.sv 4096 = true → e.dpuBusy i = false → Free e i [] [(i.sv, 4096)] →
      e.writeList i.who (e.outParts i.run.part i.s.array (iAcc i.w) i.sv) = (e', none) →
      Answers (.accSt a q) s (e'.goOn i id)) ∧
    (∀ op c, (op, c) ∈ [(0x30, Instr.vfp a q), (0x31, .vint a q), (0x32, .vcmp a q), (0x33, .vsel a q), (0x34, .vcvt a q),
        (0x35, .vreq a q), (0x36, .vred a q), (0x37, .vmov a q)] →
      Issues s a q op i e → e.vxuFits i = true → MayPush e i → Answers c s (e.push i none)) ∧
    (Issues s a q 0x40 i e → ∀ h e' b, e.resPart (0x0A * 64 + bitsOf i.w 35 32) = some i.run.part → i.s.ops.length < 64 →
      i.s.spec = none → e.permits i.run.part i.run.ctx i.sv 64 false = true → isPeer i.sv = false → i.sv % 64 = 0 →
      tierOf i.sv ≠ 0 → Free e i [(i.sv, 64)] [] → e.read i.who h i.sv 64 = (e', .ok b) →
      e'.moverBad i.run.part i.run.ctx (moveDesc i b) = none →
      Free e' i (if mvZero (moveDesc i b) then [] else [footprint (moveDesc i b) true]) [footprint (moveDesc i b) false] →
      Answers (.move a q h) s ((e'.queueCopy (bitsOf i.w 35 32) (moveDesc i b) i.run none).push i (some e'.nextId))) ∧
    (Issues s a q 0x48 i e → e.ownT0 i.run.part i.s.array i.sv (iLen i.w) = true →
      e.permits i.run.part i.run.ctx i.tv (iLen i.w) true = true → e.isProtected i.tv (iLen i.w) = false → i.s.ops.length < 64 →
      Free e i [(i.sv, iLen i.w)] [(i.tv, iLen i.w)] → isPeer i.tv = false → Answers (.put a q) s (e.push i none)) ∧
    (Issues s a q 0x49 i e → e.ownT0 i.run.part i.s.array i.tv (iLen i.w) = true →
      e.permits i.run.part i.run.ctx i.sv (iLen i.w) false = true → e.isProtected i.tv (iLen i.w) = false → i.s.ops.length < 64 →
      Free e i [(i.sv, iLen i.w)] [(i.tv, iLen i.w)] → isPeer i.sv = false → isT3 i.sv = false →
      Answers (.get a q) s (e.push i none)) ∧
    (∀ op c, (op, c) ∈ [(0x4A, Instr.atomicAdd a q), (0x4B, .atomicMax a q)] → Issues s a q op i e →
      ∀ n, n = (if bitOf i.w 1 then 8 else 4) → i.sv % n = 0 → isT3 i.sv = false →
      e.permits i.run.part i.run.ctx i.sv n false = true → e.permits i.run.part i.run.ctx i.sv n true = true →
      e.isProtected i.sv n = false → i.s.ops.length < 64 → i.s.spec = none → Free e i [(i.sv, n)] [(i.sv, n)] →
      isPeer i.sv = false → Answers c s (e.push i none))) ∧
  (∀ (s : State) (a q k : Nat) (r : Run) (st : Stream) (o : Op), a < 4 → q < 16 → (s.dev.opsOn a q)[k]? = some (r, st, o) →
    o.tag = none → (iOp o.word = 0x20 → st.ops.find? (fun y => decide (iOp y.word = 0x20)) = some o) →
    Answers (.seqOperationComplete a q k none) s (s.dev.endOp r st o) ∧
    (∀ f, checkOk f = true → faultFits f o = true →
      Answers (.seqOperationComplete a q k (some f)) s (s.dev.opFault r st o f)))

/-- The instructions that only change their stream leave memory, flags, trees, accumulators, requests, the almanac,
workbooks, the engines and the other runs as they were, and, with the counters frozen, the contexts and what leaves
the device too (a counter's sample may post an event, R507); of the address registers only D changes. -/
def Obligations.StreamInstructionFrame : Prop :=
  (∀ (e : Dev) (i : Ins) (f : Stream → Stream) (d : Dev), d = e.goOn i f ∨ d = e.proceed i f →
    d.mem = e.mem ∧ d.flags = e.flags ∧ d.trees = e.trees ∧ d.acc = e.acc ∧ d.reqs = e.reqs ∧ d.cal = e.cal ∧ d.wbs = e.wbs ∧
    d.tim = e.tim ∧ d.ing = e.ing ∧ d.saf = e.saf ∧ d.plk = e.plk ∧ d.pwr = e.pwr ∧ d.tracks = e.tracks ∧
    d.map = e.map ∧ d.idxs = e.idxs ∧ d.runs.length = e.runs.length ∧ (∀ id, id ≠ i.run.id → d.run id = e.run id) ∧
    (e.bit R.PMC_CTRL.FREEZE 0 0 = true → d.ctxs = e.ctxs ∧ d.outbox = e.outbox ∧ d.ctrs = e.ctrs)) ∧
  (∀ (st : Stream) (n k v : Nat), (st.setReg n v).l = st.l ∧ (st.setReg n v).pc = st.pc ∧
    (n < st.a.length → (st.setReg n v).reg n = v % 2 ^ 64) ∧ (k ≠ n → (st.setReg n v).reg k = st.reg k))

/-! ### The peer link -/

/-- R412 to R414: a port is trained, identifies itself and its neighbour, resends, goes down, and the group state is
told. -/
def Obligations.PeerPortsAct : Prop :=
  (∀ (s : State) (p : Nat), p < 4 →
    (∀ l, s.dev.portState p = 1 → ∃ d : Dev, d = (s.dev.set R.PLK_PORT_STAT.LANE_MAP p 0 (BitVec.toNat l)).setPort p 2
        (s.dev.get R.PLK_PORT_STAT.DOWN_CAUSE p 0) ∧
      Answers (.portTrained p l) s (d.portSend p 1 (d.identityBytes p))) ∧
    (∀ i, s.dev.portState p = 2 → s.dev.mismatch p i = none → ∃ d : Dev,
      d = ((s.dev.setPort p 3 0).set R.PLK_PORT_STAT.NEIGHBOUR p 0 i.devId).setPlkPort p
        (fun x => { x with
          upSince := some ((s.dev.setPort p 3 0).set R.PLK_PORT_STAT.NEIGHBOUR p 0 i.devId).now
          neighbour := some i }) ∧
      Answers (.identityFrame p i) s ((({ d with
        cal := { d.cal with lostPorts := d.cal.lostPorts.filter (fun x => decide (x.1 ≠ p)) }
        plk := { d.plk with healPend := true } } : Dev).noteMember i).reroute false)) ∧
    (∀ i, s.dev.portState p = 3 ∨ s.dev.portState p = 4 → s.dev.isMember i.devId = true → i.devId ≠ s.dev.devId →
      Answers (.identityFrame p i) s ((s.dev.noteMember i).reroute false)) ∧
    (∀ q, s.dev.portState p = 3 → Answers (.replayRequest p q) s (s.dev.resend p q.toNat)) ∧
    (s.dev.portState p = 3 → Answers (.portNoFlitTimeout p) s (s.dev.portDown p 1)) ∧
    (∀ l, l < 3 → 2 ≤ s.dev.portState p → s.dev.laneActive p l = true →
      Answers (.laneLockLoss p l) s ((s.dev.suspect ⟨11, 3 * p + l⟩).portDown p 3))) ∧
  (∀ s : State, s.dev.topo ≠ 0 →
    (s.dev.bit R.PLK_GSTAT.QUIET 0 0 = false → Answers .groupStateTimer s
      ((s.dev.reached.filter (fun n => decide (n ≠ s.dev.devId))).foldl (fun d n =>
        d.peerSend n 0 1 (d.identityBytes ((d.firstHop n).getD 0))) s.dev)) ∧
    (s.dev.healed = true → ∃ d : Dev, d = ({ s.dev with plk := { s.dev.plk with healPend := false } } : Dev).syncWitness ∧
      Answers .heal s (d.setAuth d.quorum)))

/-- R418, R419, R422 to R424: a remote request is served where a window grants it and refused where none does; an
acknowledgement ends the oldest operation to its member; a relayed flag is set. -/
def Obligations.PeerOperationsAct : Prop :=
  (∀ (s : State) (src x tag : Nat) (op : PeerOp), src < 16 → x < 2 ^ 40 → 0 < (opSpan op).1 → (opSpan op).1 ≤ 65536 → s.dev.topo ≠ 0 →
    (s.dev.isMember src = true → src ≠ s.dev.devId → (∃ b, op = .put b) ∨ (∃ n, op = .get n) ∨ x % (opSpan op).1 = 0 →
      s.dev.granted src x (opSpan op).1 (opSpan op).2 = true →
      ∀ r, r = s.dev.serveOp (Who.device ((s.dev.ownerOf x).getD 0) 0x0B) x op →
        Answers (.peerMemoryRequest src x tag op) s (r.1.peerSend src tag 4 (ackBytes r.2))) ∧
    (s.dev.isMember src = false ∨ src = s.dev.devId ∨ s.dev.granted src x (opSpan op).1 (opSpan op).2 = false →
      Answers (.peerMemoryRequest src x tag op) s (s.dev.peerSend src tag 4 (ackBytes .refused)))) ∧
  (∀ (s : State) (tag : Nat) (o o' : L4), s.dev.plk.ops.find? (fun o => decide (o.tag = tag)) = some o →
    s.dev.plk.ops.find? (fun x => decide (x.member = o.member)) = some o' → o'.tag = tag →
    (∀ bs, Answers (.peerAcknowledgement tag (.done bs)) s
      (({ s.dev with plk := { s.dev.plk with ops := s.dev.plk.ops.filter (fun x => decide (x.tag ≠ tag)) } } : Dev).ackDone o bs)) ∧
    (∀ a, (∀ bs, a ≠ PeerAck.done bs) → Answers (.peerAcknowledgement tag a) s (s.dev.failOp o (ackErr o a)))) ∧
  (∀ (s : State) (src flag : Nat), src < 16 → flag < 4096 → s.dev.topo ≠ 0 →
    (s.dev.isMember src = true → s.dev.relayGranted src flag = true →
      Answers (.flagRelay src flag) s (s.dev.writeFlag ⟨3, none, 0x0B, 0, none, none⟩ flag true)) ∧
    (s.dev.isMember src = false ∨ s.dev.relayGranted src flag = false →
      Answers (.flagRelay src flag) s (s.dev.peerSend src 0 4 (ackBytes .refused))))

/-- R426, R427, R344, R345: the laps of the quiet token, the veto, the wakes, and a sharded search's query and reply.
-/
def Obligations.GroupSleepsAndSearches : Prop :=
  (∀ s : State, s.dev.topo ≠ 0 → s.dev.bit R.PLK_GSTAT.QUIET 0 0 = false →
    (s.dev.leader = s.dev.devId → s.dev.plk.lap = 0 → s.dev.votesQuiet = true → ∃ d : Dev,
      d = { s.dev with plk := { s.dev.plk with lap := 1, voted := true, wakeLatched := false } } ∧
      (d.nextMember d.devId ≠ d.devId → Answers .quietVoteTimer s (d.sendToken d.devId false false)) ∧
      (d.nextMember d.devId = d.devId → Answers .quietVoteTimer s d.goQuiet)) ∧
    (∀ t : QuietTok, t.leader < 16 → Answers (.quietToken t) s (s.dev.token t)) ∧
    (s.dev.leader = s.dev.devId → s.dev.plk.lap = 1 → Answers .vetoMessage s s.dev.endLap)) ∧
  (∀ (s : State) (p : Nat), p < 4 →
    (s.dev.portState p = 4 → Answers (.wakePattern p) s (s.dev.wakePorts (s.dev.get R.PLK_PORT_STAT.NEIGHBOUR p 0)
      ((List.range 4).filter (fun q => decide (q ≠ p))))) ∧
    (s.dev.portState p = 3 → s.dev.plk.voted = true →
      Answers (.wakePattern p) s { s.dev with plk := { s.dev.plk with wakeLatched := true } })) ∧
  (∀ s : State, s.dev.hostUp = true → Answers .plkSleepWake s s.dev.wakeIdle.wakeRequest) ∧
  (∀ (s : State) (q : RemoteQuery) (x : Idx), q.requester < 16 → s.dev.idxById q.indexId.toNat = some x →
    s.dev.mem.word (ixRoot x.blk + 36) 4 = q.cbCrc.toNat → x.remote.length < 1024 → s.dev.serves x q = true →
    Answers (.searchQuery q) s (s.dev.setIdx x.slot (fun x => { x with remote := x.remote ++ [q] }))) ∧
  (∀ (s : State) (tag shard : Nat) (x : Search) (e : BitVec 32) (l : List Hit) (tr : Bool), shard < 16 →
    s.dev.searches.find? (fun s => decide (shard ∈ s.shards ∧ s.tag ≤ tag ∧ tag < s.tag + s.queries.length)) = some x →
    Answers (.searchReply tag shard (.list e l tr)) s
      ((s.dev.setSearch x.run x.task (fun s => { s with replies := s.replies ++ [⟨shard, tag - x.tag, false, e.toNat, l, tr⟩] })).endSearch
        x.run x.task))

/-! ### Safety -/

/-- R440, R451, R457 to R459, R537: the twin compare, the safe-state frame, the cross-compare's time limit and
messages, and the pulses' edges with their read-back. -/
def Obligations.SafetyChannelsAct : Prop :=
  (∀ (s : State) (n k : Nat) (c : SafChan) (e : Entry) (a b : List Byte), n < 16 → s.dev.chan n = some c → c.poseA = some (k, a) →
    c.poseB = some (k, b) → s.dev.chanEntry c 0 = some e → s.dev.safeNow = false →
    ∃ d : Dev, d = s.dev.setChan c.num (fun c => { c with poseA := none, poseB := none }) ∧
      (slice a 0 128 ≠ slice b 0 128 → Answers (.twinPoseCompare n) s (d.dangerous 1 c.num 0 false none)) ∧
      (slice a 0 128 = slice b 0 128 → c.xcmp = false ∨ c.degraded = true →
        Answers (.twinPoseCompare n) s ((d.sendCompared c (d.poseFrame c e k a false) false).countGood c (e.prom k)))) ∧
  (∀ (s : State) (n : Nat) (c : SafChan), n < 16 → s.dev.chan n = some c →
    (s.dev.safeNow = true → Answers (.safeStateReleaseFrame n) s (s.dev.stopFrame c)) ∧
    (∀ p t f, c.waiting = some (p, t, f) → t + 100000 ≤ s.dev.schedNow (s.dev.safePart.getD 0) →
      Answers (.xcmpPartnerTimeout n) s ((s.dev.setChan n (fun c => { c with waiting := none })).dangerous 0xC n 0 false none))) ∧
  (∀ (s : State) (src n : Nat) (c : SafChan), src < 16 → s.dev.topo ≠ 0 → s.dev.chan n = some c → c.xcmp = true → c.peer = src →
    (∀ prom t, Answers (.safetyFlit src (.outTime n prom t)) s
      (s.dev.setChan n (fun c => { c with partnerTo := keepNew c.partnerTo prom.toNat t.toNat }))) ∧
    (∀ prom bs, c.waiting = none → Answers (.safetyFlit src (.frameBytes n prom bs)) s
      (s.dev.setChan n (fun c => { c with partnerBytes := keepNew c.partnerBytes prom.toNat bs }))) ∧
    (∀ prom bs t f, c.waiting = some (prom.toNat, t, f) → s.dev.safeNow = false →
      Answers (.safetyFlit src (.frameBytes n prom bs)) s (s.dev.crossCompare c f bs))) ∧
  (∀ s : State, s.dev.pulsing = true → s.dev.saf.nextEdge ≤ s.dev.now →
    Answers .safePulseEdge s ((({ s.dev with saf := { s.dev.saf with
        level := !s.dev.saf.level
        driving := true
        nextEdge := s.dev.saf.nextEdge + 50000 } } : Dev).set R.SAF_STATUS.PULSE 0 0 1).emit (.safePins (!s.dev.saf.level)))) ∧
  (∀ (s : State) (a b : Bool), s.dev.saf.driving = true → s.dev.saf.nextEdge ≤ s.dev.now + 49000 →
    (a ≠ s.dev.saf.level ∨ b = s.dev.saf.level → Answers (.safeReadbackCheck a b) s (s.dev.dangerous 0xD 0 0 false none)) ∧
    (a = s.dev.saf.level → b = !s.dev.saf.level → Answers (.safeReadbackCheck a b) s s.dev))

/-- R454, R455, Table 16-3: the clearance pin, the end of the clearance self-test, and the device-scope causes 0x0F
and 0x0E. -/
def Obligations.ClearanceAndDeviceCauses : Prop :=
  (∀ s : State, s.dev.pwr.porN = true → s.dev.saf.clr.level = false →
    s.dev.saf.clr.first = false → Answers (.safeClrEdge true) s
      (s.dev.setClr (fun c => { c with level := true, rise := some s.dev.now }))) ∧
  (∀ s : State, s.dev.pwr.porN = true → s.dev.saf.clr.level = true → s.dev.lasted s.dev.saf.clr.rise 5 50 = true →
    s.dev.saf.clr.first = false → ∃ d : Dev, d = s.dev.setClr (fun c => { c with level := false, fall := some s.dev.now }) ∧
      Answers (.safeClrEdge false) s (d.setClr (fun c => { c with first := true }))) ∧
  (∀ s : State, s.dev.bit R.SAF_STATUS.CLR_BUSY 0 0 = true →
    (∀ p, p = false ∨ s.dev.saf.testBad = true → Answers (.clearanceTestDone p) s
      (((s.dev.set R.SAF_STATUS.CLR_BUSY 0 0 0).set R.SAF_STATUS.CLR_FAIL 0 0 1).dangerous 9 0 0 false none)) ∧
    (s.dev.saf.testBad = false → Answers (.clearanceTestDone true) s (s.dev.set R.SAF_STATUS.CLR_BUSY 0 0 0).clearSafe)) ∧
  (∀ (s : State) (c : OutOfRange), s.dev.pwr.porN = true → Answers (.supplyOutOfRange c) s (s.dev.dangerous 0xF 0 0 true none)) ∧
  (∀ s : State, s.dev.pwr.porN = true → Answers .safLockstepMismatch s (s.dev.dangerous 0xE 0 0 true none))

/-! ### Sparing, annals, power -/

/-- R17, R461 to R463: readings of rate monitors and canaries are kept, and what they show is acted on. -/
def Obligations.WearIsWatched : Prop :=
  (∀ (s : State) (i : Island), islandOk i = true → Answers (.rateMonitorBelowFloor i) s (s.dev.belowFloor i)) ∧
  (∀ (s : State) (i : Island) (t : Nat), islandOk i = true → s.dev.spr.below.lookup i = some t → t + 1000000 ≤ s.dev.now →
    (s.dev.islandParts i).any s.dev.isSafe = false →
    AnswersBoth (.unitBelowFloor1ms i) s (hardFault s.nv s.dev i).1 (hardFault s.nv s.dev i).2) ∧
  (∀ (s : State) (i : Island) (t : Nat), islandOk i = true → s.dev.spr.below.lookup i = some t → t + 1000000 ≤ s.dev.now →
    (s.dev.islandParts i).any s.dev.isSafe = true →
    AnswersBoth (.unitBelowFloor1ms i) s (hardFault s.nv s.dev i).1 ((hardFault s.nv s.dev i).2.dangerous 3 0 0 false none)) ∧
  (∀ (s : State) (i : Island) (m p : Nat), islandOk i = true → p ≠ 0 → s.dev.spr.drift.any (fun y => decide (y.1 = i)) = false →
    Answers (.canarySample i m p) s { s.dev with spr := { s.dev.spr with
      drift := s.dev.spr.drift ++ [(i, ((m : Int) - p) * 65536 / p, 1)] } }) ∧
  (∀ s : State, ∃ d : Dev, d = s.dev.spr.drift.foldl (fun d x => d.wearOf s.nv x) s.dev ∧
    Answers .wearWindowEnd s { d with spr := { d.spr with drift := [] } }) ∧
  (∀ (s : State) (i : Island), islandOk i = true → i.blk = 8 → i.unit < 136 → i ∉ s.dev.spr.fenced →
    s.dev.get R.TA_COL_STAT.ROLE (i.unit / 34) (i.unit % 34) ≠ 3 →
    s.nv.spareMap.any (fun r => r.spare.isNone && decide (fencedUnit r.pool r.inst r.unit = some i)) = false →
    Answers (.canaryStall i) s ((({ s.dev with spr := { s.dev.spr with
      below := s.dev.spr.below.filter (fun x => decide (x.1 ≠ i)), fenced := s.dev.spr.fenced ++ [i] } } : Dev).syncSpr.syncWidths
        (i.unit / 34)).requestEclipse 1 (i.unit / 34) (i.unit % 34) true (s.dev.islandPart i)))

/-- R465 to R468, R470: the last step of an eclipse puts the spare in its place and records it for good; an earlier
step counts; a request that finds its pool empty is retired. -/
def Obligations.EclipsesProceed : Prop :=
  ∀ (s : State) (p id : Nat) (m : Maint) (e : Eclipse), p < 16 → p < s.dev.parts → s.dev.nextMaint p = some m →
    m.kind = .eclipse id → s.dev.spr.queue.find? (fun e => decide (e.id = id)) = some e →
    (∀ sp, e.spare = some sp ∨ e.spare = none ∧ s.dev.takeSpare s.nv e.pool e.inst e.unit = some sp →
      (eclipseSteps e.pool ≤ e.done + 1 → AnswersBoth (.eclipseStep p) s
        { s.nv with spareMap := s.nv.spareMap ++ [⟨e.pool, e.inst, e.unit, some sp⟩] } (eclipseDone s.nv s.dev e sp).2) ∧
      (e.done + 1 < eclipseSteps e.pool → Answers (.eclipseStep p) s { s.dev with spr := { s.dev.spr with
        queue := s.dev.spr.queue.map (fun x => if x.id = id then { x with done := x.done + 1, spare := some sp } else x) } })) ∧
    (e.spare = none → s.dev.takeSpare s.nv e.pool e.inst e.unit = none → e.pool ≠ 3 → e.pool ≠ 5 →
      AnswersBoth (.eclipseStep p) s { s.nv with spareMap := s.nv.spareMap ++ [⟨e.pool, e.inst, e.unit, none⟩] }
        (retire s.nv (s.dev.dropEclipse e) e.pool e.inst e.unit).2)

/-- R145, R444, R463: a scrub step reads on by one granule; a self-test acts on what it reproduces, and a failure of
the safety partition's is a dangerous fault. -/
def Obligations.TestsProceed : Prop :=
  (∀ (s : State) (p k g : Nat), p < 16 → k < 4 → p < s.dev.parts →
    nthGranule (s.dev.scrubRanges p k) (SMap.read 0 s.dev.scrub (scrubKey p k)) = some g →
    (nthGranule (s.dev.scrubRanges p k) (SMap.read 0 s.dev.scrub (scrubKey p k) + 1)).isSome = true →
    ∃ d, d = s.dev.scrubGranule p g ∧ Answers (.scrubStep p k 1) s { d with
      scrub := SMap.write 0 d.scrub (scrubKey p k) (SMap.read 0 s.dev.scrub (scrubKey p k) + 1) }) ∧
  (∀ (s : State) (p : Nat) (i : Island) (is : List Island), p < 16 → is.all siteOk = true → p < s.dev.parts → i ∈ is →
    s.dev.spr.suspects = [i] → s.dev.islandPart i = p → ∃ d : Dev, d = { s.dev with spr := { s.dev.spr with suspects := [] } } ∧
      AnswersBoth (.selfTestStep p false is) s (hardFault s.nv d i).1 (hardFault s.nv d i).2) ∧
  (∀ (s : State) (p : Nat), p < 16 → p < s.dev.parts → s.dev.spr.suspects = [] → s.dev.isSafe p = true →
    Answers (.selfTestStep p true []) s (s.dev.dangerous 9 0 0 false none))

/-- R41, R473, R477 to R479, R516: the oldest record is written; a power failure closes the queue, its final record is
written, power comes back; the annals and the spare map are read over MCTP; the CMC falls silent. -/
def Obligations.AnnalsAreWrittenAndRead : Prop :=
  (∀ (s : State) (r : AnnRec) (q : List AnnRec), s.dev.ann.queue = r :: q → s.dev.ann.final = false →
    ∀ x, x = writeRecord s.nv { s.dev with ann := { s.dev.ann with queue := q } } r → AnswersBoth .annalsRecordWrite s x.1 x.2) ∧
  (∀ s : State, s.dev.pwr.porN = true →
    (s.dev.pwr.pwrFailN = true → ∃ d : Dev, d = s.dev.dangerous 0xF 0 0 true none ∧ Answers .pwrFailFall s { d with
        pwr := { d.pwr with pwrFailN := false }
        ann := { d.ann with closed := true }
        cal := { d.cal with stopped := true } }) ∧
    (s.dev.pwr.pwrFailN = false → Answers .powerRestored s s.dev.powerBack)) ∧
  (∀ s : State, s.dev.ann.closed = true → s.dev.ann.final = false → s.dev.ann.queue = [] →
    ∀ x, x = writeRecord s.nv { s.dev with ann := { s.dev.ann with queue := [], drops := s.dev.ann.drops } } ⟨8, 1, 0x0E, 0,
        s.dev.tb0Stamp, s.dev.uptime, leBytes 4 (cellOf s.dev.regs R.SAF_STATUS.reg.base) ++
          leBytes 4 (cellOf s.dev.regs R.CAL_STATUS.reg.base) ++ leBytes 4 s.dev.ann.drops ++ leBytes 4 (s.nv.lastSeq 1) ++
          leBytes 4 (s.nv.lastSeq 2)⟩ →
      AnswersBoth .powerFailFinalRecord s x.1 (({ x.2 with ann := { x.2.ann with final := true } } : Dev).set R.ANN_STATUS.PF_DONE 0 0 1)) ∧
  (∀ s : State, s.dev.pwr.porN = true →
    Answers .getInfo s (s.dev.emit (.mctp (0 :: infoBytes s.nv))) ∧
    Answers .readSpareMap s (s.dev.emit (.mctp (0 :: mapBytes s.nv))) ∧
    (∀ off n, off % 64 = 0 → 1 ≤ n → n ≤ 16 → off + 64 * n ≤ 0x4000000 →
      Answers (.read off n) s ((readAnnals s.nv s.dev off (64 * n)).2.emit (.mctp (0 :: (readAnnals s.nv s.dev off (64 * n)).1)))) ∧
    (∀ off n, off % 64 ≠ 0 ∨ n = 0 ∨ 16 < n ∨ 0x4000000 < off + 64 * n → Answers (.read off n) s (s.dev.emit (.mctp [2]))) ∧
    (s.dev.pwr.cmc = true → ∃ d : Dev, d = ({ s.dev with pwr := { s.dev.pwr with cmc := false } } : Dev).annal 7 1 0x0E 0 [] ∧
      Answers .cmcUnresponsive s (d.set R.PWR_CAP.CMC 0 0 0).updateCap))

/-- R479: a READ within the annals answers its bytes: a record that lies there is returned whole; one beyond 64 MiB or
with a count outside 1 to 16 answers with completion code 0x02 and no data. -/
def Obligations.AnnalsReadWhole : Prop :=
  (∀ (s : State) (off n : Nat), s.dev.pwr.porN = true → n = 0 ∨ 16 < n ∨ 0x4000000 < off + 64 * n →
    Answers (.read off n) s (s.dev.emit (.mctp [2]))) ∧
  (∀ (s : State) (off : Nat) (b : List Byte), s.dev.pwr.porN = true → 0x20000 ≤ off → off % 64 = 0 → off + 64 ≤ 0x4000000 →
    SMap.read [] s.nv.annals off = b → b.length = 64 → Answers (.read off 1) s (s.dev.emit (.mctp (0 :: b))))

/-- R509, R515, R519, R523: POR_N falls and rises, a supply reports good or does not in time, the states IDLE and
STANDBY are requested and STANDBY is left. -/
def Obligations.PowerStatesChange : Prop :=
  (∀ s : State, AnswersBoth .porNAssert s (resetAll s.nv s.dev).1 (resetAll s.nv s.dev).2) ∧
  (∀ (s : State) (f : Bool), s.dev.pwr.porN = false →
    AnswersBoth (.porNRelease f) s (release s.nv s.dev f).1 (release s.nv s.dev f).2) ∧
  (∀ (s : State) (f : Flash) (n t : Nat), s.dev.pwr.await = some (n, t) → n < 5 →
    Answers (.supplyPowerGood f) s (({ s.dev with pwr := { s.dev.pwr with
      supplies := modifyAt s.dev.pwr.supplies n (fun _ => true)
      await := some (n + 1, s.dev.now) } } : Dev).emit (.psq (n + 1) true))) ∧
  (∀ (s : State) (f : Flash) (t : Nat), s.dev.pwr.await = some (5, t) → s.dev.pwr.halt = false →
    Answers (.supplyPowerGood f) s (bootOn s.nv ((({ s.dev with pwr := { s.dev.pwr with
      supplies := modifyAt s.dev.pwr.supplies 5 (fun _ => true)
      await := none } } : Dev).domainsOn).set R.PWR_STAT.BOOT_STEP 0 0 3) f)) ∧
  (∀ (s : State) (n t : Nat), s.dev.pwr.await = some (n, t) → t + 2000000 ≤ s.dev.now →
    Answers .supplyGoodTimeout s (({ s.dev with pwr := { s.dev.pwr with await := none } } : Dev).bootFail 1 true)) ∧
  (∀ (s : State) (e : Dev), s.dev.hostUp = true → e = s.dev.wakeIdle →
    (e.cal.entries = [] → e.reqs = [] → e.ing.binds = [] → e.topo = 0 ∨ e.bit R.PLK_GSTAT.QUIET 0 0 = true →
      Answers .pwrReqIdle s (({ e with pwr := { e.pwr with idleFrom := e.pwr.state, state := .idle } } : Dev).set R.PWR_STAT.STATE 0 0 2)) ∧
    (e.wbs.all (fun w => e.isSafe w.part) = true → e.ing.binds = [] →
      e.bit R.SAF_STATUS.OPER 0 0 = false ∨ e.bit R.SAF_STATUS.SAFE 0 0 = true →
      ∃ d : Dev, d = (e.wbs.foldl (fun d w => d.unload w) e).resetHost .linkDown ∧ ∃ x : Dev,
        x = (d.set R.PWR_DOM_LO.ON 0 0 3).set R.PWR_DOM_HI.ON 0 0 (if d.bit R.PWR_CFG.T2_RET 0 0 then 0xC00 else 0) ∧
        Answers .pwrReqStandby s { x with pwr := { x.pwr with state := .standby } })) ∧
  (∀ (s : State) (f : Flash), s.dev.pwr.state = .standby → Answers (.standbyWake f) s (standbyWake s.nv s.dev f))

/-- R512, R518: a domain comes up with its SRAM zero and its self-test over; the thermal limit follows the hottest
sensor. -/
def Obligations.DomainsAndThermalLimit : Prop :=
  (∀ (s : State) (n : Nat) (l : List Island), n < 48 → l.all siteOk = true → n ∈ s.dev.pwr.waking →
    ∀ d x : Dev, d = { s.dev with pwr := { s.dev.pwr with waking := s.dev.pwr.waking.filter (fun x => decide (x ≠ n)) } } →
      x = (if 2 ≤ n ∧ n < 18 then { d with mem := d.mem.wipe (sliceBase ((n - 2) / 4) ((n - 2) % 4)) sliceSize } else d) →
      ∀ y, y = hardFaults s.nv (x.setDomain n true).syncPower l → AnswersBoth (.domainPowerUpDone n l) s y.1 y.2) ∧
  (∀ (s : State) (tj : Int) (d : Dev), s.dev.pwr.porN = true →
    d = (s.dev.set R.PWR_THERM.TJ_MAX 0 0 (ofSigned 8 (satSigned 8 tj))).noteCool tj →
    (tj < 118 → Answers (.thermalSample tj) s d) ∧
    (118 ≤ tj → tj ≤ 125 → Answers (.thermalSample tj) s d.trip) ∧
    (125 < tj → Answers (.thermalSample tj) s (d.trip.dangerous 0xF 0 0 true none))) ∧
  (∀ s : State, s.dev.pwr.porN = true →
    (s.dev.thermHi ≤ s.dev.tjMax → s.dev.get R.PWR_CAP.HW 0 0 < 3 → s.dev.since s.dev.pwr.lastRaise 10000000 = true →
      Answers .thermalHwRaise s
        (({ s.dev with pwr := { s.dev.pwr with lastRaise := some s.dev.now } } : Dev).setHw (s.dev.get R.PWR_CAP.HW 0 0 + 1))) ∧
    (∀ t, s.dev.pwr.belowSince = some t → t + 1000000000 ≤ s.dev.now → 0 < s.dev.get R.PWR_CAP.HW 0 0 →
      s.dev.since s.dev.pwr.lastLower 1000000000 = true → Answers .thermalHwLower s
        (({ s.dev with pwr := { s.dev.pwr with lastLower := some s.dev.now } } : Dev).setHw (s.dev.get R.PWR_CAP.HW 0 0 - 1))))

/-- R519, R526, R527, R499: fuse programming begins and ends, TRST_N and an authorised challenge set JTAG, PMC
freezes. -/
def Obligations.FusesAndDebugAct : Prop :=
  (∀ (s : State) (e : Dev) (w data : Nat), s.dev.hostUp = true → e = s.dev.wakeIdle → w = e.get R.FUS_PROG_ADDR.WORD 0 0 →
    data = e.get R.FUS_PROG_DATA.DATA 0 0 → e.pwr.prog = none →
    (e.pwr.fusing = true → e.fuseLocked w data = false → s.nv.fuseRows < 32 → Answers .fuseProgram s
      ((({ e with pwr := { e.pwr with prog := some (w, data) } } : Dev).set R.FUS_PROG_CTRL.ERR 0 0 0).set
        R.FUS_PROG_CTRL.DONE 0 0 0 |>.set R.FUS_PROG_CTRL.BUSY 0 0 1)) ∧
    (e.pwr.fusing = false → Answers .fuseProgram s (e.set R.FUS_PROG_CTRL.ERR 0 0 3)) ∧
    (e.pwr.fusing = true → e.fuseLocked w data = true → Answers .fuseProgram s (e.set R.FUS_PROG_CTRL.ERR 0 0 1)) ∧
    (e.pwr.fusing = true → e.fuseLocked w data = false → 32 ≤ s.nv.fuseRows → Answers .fuseProgram s (e.set R.FUS_PROG_CTRL.ERR 0 0 2))) ∧
  (∀ (s : State) (w old data v : Nat) (x : W32), s.dev.pwr.prog = some (w, data) → old = s.nv.fuseNow w →
    Nat.land x.toNat (Nat.lor old data) = Nat.lor old data → v = Nat.lor x.toNat old →
    AnswersBoth (.fuseProgramDone x) s { s.nv with fuses := SMap.write 0 s.nv.fuses w (BitVec.ofNat 32 v) }
      ((({ s.dev with pwr := { s.dev.pwr with prog := none } } : Dev).set R.FUS_PROG_CTRL.BUSY 0 0 0).set R.FUS_PROG_CTRL.DONE 0 0 1
        |>.set R.FUS_PROG_DATA.DATA 0 0 v)) ∧
  (∀ s : State, Answers .trstNReset s
    { s.dev with pwr := { s.dev.pwr with jtagOpen := s.dev.pwr.porN && decide (s.dev.debugMode = 0) } }) ∧
  (∀ s : State, s.dev.pwr.porN = true → s.dev.debugMode = 1 →
    (s.dev.bit R.SAF_STATUS.OPER 0 0 = false ∨ s.dev.safeNow = true →
      Answers (.jtagChallenge true) s { s.dev with pwr := { s.dev.pwr with jtagOpen := true } }) ∧
    (s.dev.bit R.SAF_STATUS.OPER 0 0 = true → s.dev.safeNow = false → Answers (.jtagChallenge true) s s.dev)) ∧
  (∀ (s : State) (f : Bool), s.dev.hostUp = true → Answers (.pmcFreeze f) s (s.dev.wakeIdle.set R.PMC_CTRL.FREEZE 0 0 (b2n f))) ∧
  (∀ (s : State) (c : Nat) (p : Dump), c < 2048 → (s.dev.ctx c).dump = some p → p.next ≤ s.dev.ctxNow c →
    ∃ d : Dev,
      d = s.dev.writeDump c p.base p.len p.count (decide (p.next + p.period ≤ s.dev.ctxNow c)) ∧
      ∃ e : Dev, e = d.setCtx c (fun x => { x with dump := some { p with
        count := (p.count + 1) % 2 ^ 32
        next := p.next + ((s.dev.ctxNow c - p.next) / max 1 p.period + 1) * p.period
        req := none } }) ∧
      (p.req = none → Answers (.counterDumpTimer c) s e) ∧
      (∀ q r, p.req = some q → e.req q = some r → Answers (.counterDumpTimer c) s (e.finishReq r 0 0 none 0 [])))

end
end

