-- ==== Sys2Proof/Laws/State.lean ====
section
/-! SUPPORT. One lemma per field of the device and update of it that leaves the field alone. -/

namespace Sys2Proof.Machine

variable (d : Dev)

@[simp] theorem Dev.set_now (f : Fld) (i j v : Nat) : (d.set f i j v).now = d.now := (rfl)
@[simp] theorem Dev.set_freeIx (f : Fld) (i j v : Nat) : (d.set f i j v).freeIx = d.freeIx := (rfl)
@[simp] theorem Dev.set_nextId (f : Fld) (i j v : Nat) : (d.set f i j v).nextId = d.nextId := (rfl)
@[simp] theorem Dev.set_outbox (f : Fld) (i j v : Nat) : (d.set f i j v).outbox = d.outbox := (rfl)
@[simp] theorem Dev.set_buf (f : Fld) (i j v : Nat) : (d.set f i j v).buf = d.buf := (rfl)
@[simp] theorem Dev.set_shadow (f : Fld) (i j v : Nat) : (d.set f i j v).shadow = d.shadow := (rfl)
@[simp] theorem Dev.set_strobes (f : Fld) (i j v : Nat) : (d.set f i j v).strobes = d.strobes := (rfl)
@[simp] theorem Dev.set_mbxPend (f : Fld) (i j v : Nat) : (d.set f i j v).mbxPend = d.mbxPend := (rfl)
@[simp] theorem Dev.set_mem (f : Fld) (i j v : Nat) : (d.set f i j v).mem = d.mem := (rfl)
@[simp] theorem Dev.set_ctxs (f : Fld) (i j v : Nat) : (d.set f i j v).ctxs = d.ctxs := (rfl)
@[simp] theorem Dev.set_reqs (f : Fld) (i j v : Nat) : (d.set f i j v).reqs = d.reqs := (rfl)
@[simp] theorem Dev.set_finals (f : Fld) (i j v : Nat) : (d.set f i j v).finals = d.finals := (rfl)
@[simp] theorem Dev.set_runs (f : Fld) (i j v : Nat) : (d.set f i j v).runs = d.runs := (rfl)
@[simp] theorem Dev.set_cal (f : Fld) (i j v : Nat) : (d.set f i j v).cal = d.cal := (rfl)
@[simp] theorem Dev.set_wbs (f : Fld) (i j v : Nat) : (d.set f i j v).wbs = d.wbs := (rfl)
@[simp] theorem Dev.set_gens (f : Fld) (i j v : Nat) : (d.set f i j v).gens = d.gens := (rfl)
@[simp] theorem Dev.set_wins (f : Fld) (i j v : Nat) : (d.set f i j v).wins = d.wins := (rfl)
@[simp] theorem Dev.set_flags (f : Fld) (i j v : Nat) : (d.set f i j v).flags = d.flags := (rfl)
@[simp] theorem Dev.set_trees (f : Fld) (i j v : Nat) : (d.set f i j v).trees = d.trees := (rfl)
@[simp] theorem Dev.set_acc (f : Fld) (i j v : Nat) : (d.set f i j v).acc = d.acc := (rfl)
@[simp] theorem Dev.set_movers (f : Fld) (i j v : Nat) : (d.set f i j v).movers = d.movers := (rfl)
@[simp] theorem Dev.set_t3reads (f : Fld) (i j v : Nat) : (d.set f i j v).t3reads = d.t3reads := (rfl)
@[simp] theorem Dev.set_scrub (f : Fld) (i j v : Nat) : (d.set f i j v).scrub = d.scrub := (rfl)
@[simp] theorem Dev.set_tim (f : Fld) (i j v : Nat) : (d.set f i j v).tim = d.tim := (rfl)
@[simp] theorem Dev.set_spr (f : Fld) (i j v : Nat) : (d.set f i j v).spr = d.spr := (rfl)
@[simp] theorem Dev.set_ann (f : Fld) (i j v : Nat) : (d.set f i j v).ann = d.ann := (rfl)
@[simp] theorem Dev.set_ctrs (f : Fld) (i j v : Nat) : (d.set f i j v).ctrs = d.ctrs := (rfl)
@[simp] theorem Dev.set_pwr (f : Fld) (i j v : Nat) : (d.set f i j v).pwr = d.pwr := (rfl)
@[simp] theorem Dev.set_saf (f : Fld) (i j v : Nat) : (d.set f i j v).saf = d.saf := (rfl)
@[simp] theorem Dev.set_plk (f : Fld) (i j v : Nat) : (d.set f i j v).plk = d.plk := (rfl)
@[simp] theorem Dev.set_ing (f : Fld) (i j v : Nat) : (d.set f i j v).ing = d.ing := (rfl)
@[simp] theorem Dev.set_lanes (f : Fld) (i j v : Nat) : (d.set f i j v).lanes = d.lanes := (rfl)
@[simp] theorem Dev.set_tracks (f : Fld) (i j v : Nat) : (d.set f i j v).tracks = d.tracks := (rfl)
@[simp] theorem Dev.set_rings (f : Fld) (i j v : Nat) : (d.set f i j v).rings = d.rings := (rfl)
@[simp] theorem Dev.set_map (f : Fld) (i j v : Nat) : (d.set f i j v).map = d.map := (rfl)
@[simp] theorem Dev.set_idxs (f : Fld) (i j v : Nat) : (d.set f i j v).idxs = d.idxs := (rfl)
@[simp] theorem Dev.set_searches (f : Fld) (i j v : Nat) : (d.set f i j v).searches = d.searches := (rfl)

@[simp] theorem Dev.putReg_now (off v : Nat) : (d.putReg off v).now = d.now := (rfl)
@[simp] theorem Dev.putReg_freeIx (off v : Nat) : (d.putReg off v).freeIx = d.freeIx := (rfl)
@[simp] theorem Dev.putReg_nextId (off v : Nat) : (d.putReg off v).nextId = d.nextId := (rfl)
@[simp] theorem Dev.putReg_outbox (off v : Nat) : (d.putReg off v).outbox = d.outbox := (rfl)
@[simp] theorem Dev.putReg_buf (off v : Nat) : (d.putReg off v).buf = d.buf := (rfl)
@[simp] theorem Dev.putReg_shadow (off v : Nat) : (d.putReg off v).shadow = d.shadow := (rfl)
@[simp] theorem Dev.putReg_strobes (off v : Nat) : (d.putReg off v).strobes = d.strobes := (rfl)
@[simp] theorem Dev.putReg_mbxPend (off v : Nat) : (d.putReg off v).mbxPend = d.mbxPend := (rfl)
@[simp] theorem Dev.putReg_mem (off v : Nat) : (d.putReg off v).mem = d.mem := (rfl)
@[simp] theorem Dev.putReg_ctxs (off v : Nat) : (d.putReg off v).ctxs = d.ctxs := (rfl)
@[simp] theorem Dev.putReg_reqs (off v : Nat) : (d.putReg off v).reqs = d.reqs := (rfl)
@[simp] theorem Dev.putReg_finals (off v : Nat) : (d.putReg off v).finals = d.finals := (rfl)
@[simp] theorem Dev.putReg_runs (off v : Nat) : (d.putReg off v).runs = d.runs := (rfl)
@[simp] theorem Dev.putReg_cal (off v : Nat) : (d.putReg off v).cal = d.cal := (rfl)
@[simp] theorem Dev.putReg_wbs (off v : Nat) : (d.putReg off v).wbs = d.wbs := (rfl)
@[simp] theorem Dev.putReg_gens (off v : Nat) : (d.putReg off v).gens = d.gens := (rfl)
@[simp] theorem Dev.putReg_wins (off v : Nat) : (d.putReg off v).wins = d.wins := (rfl)
@[simp] theorem Dev.putReg_flags (off v : Nat) : (d.putReg off v).flags = d.flags := (rfl)
@[simp] theorem Dev.putReg_trees (off v : Nat) : (d.putReg off v).trees = d.trees := (rfl)
@[simp] theorem Dev.putReg_acc (off v : Nat) : (d.putReg off v).acc = d.acc := (rfl)
@[simp] theorem Dev.putReg_movers (off v : Nat) : (d.putReg off v).movers = d.movers := (rfl)
@[simp] theorem Dev.putReg_t3reads (off v : Nat) : (d.putReg off v).t3reads = d.t3reads := (rfl)
@[simp] theorem Dev.putReg_scrub (off v : Nat) : (d.putReg off v).scrub = d.scrub := (rfl)
@[simp] theorem Dev.putReg_tim (off v : Nat) : (d.putReg off v).tim = d.tim := (rfl)
@[simp] theorem Dev.putReg_spr (off v : Nat) : (d.putReg off v).spr = d.spr := (rfl)
@[simp] theorem Dev.putReg_ann (off v : Nat) : (d.putReg off v).ann = d.ann := (rfl)
@[simp] theorem Dev.putReg_ctrs (off v : Nat) : (d.putReg off v).ctrs = d.ctrs := (rfl)
@[simp] theorem Dev.putReg_pwr (off v : Nat) : (d.putReg off v).pwr = d.pwr := (rfl)
@[simp] theorem Dev.putReg_saf (off v : Nat) : (d.putReg off v).saf = d.saf := (rfl)
@[simp] theorem Dev.putReg_plk (off v : Nat) : (d.putReg off v).plk = d.plk := (rfl)
@[simp] theorem Dev.putReg_ing (off v : Nat) : (d.putReg off v).ing = d.ing := (rfl)
@[simp] theorem Dev.putReg_lanes (off v : Nat) : (d.putReg off v).lanes = d.lanes := (rfl)
@[simp] theorem Dev.putReg_tracks (off v : Nat) : (d.putReg off v).tracks = d.tracks := (rfl)
@[simp] theorem Dev.putReg_rings (off v : Nat) : (d.putReg off v).rings = d.rings := (rfl)
@[simp] theorem Dev.putReg_map (off v : Nat) : (d.putReg off v).map = d.map := (rfl)
@[simp] theorem Dev.putReg_idxs (off v : Nat) : (d.putReg off v).idxs = d.idxs := (rfl)
@[simp] theorem Dev.putReg_searches (off v : Nat) : (d.putReg off v).searches = d.searches := (rfl)

@[simp] theorem Dev.emit_now (o : Output) : (d.emit o).now = d.now := (rfl)
@[simp] theorem Dev.emit_freeIx (o : Output) : (d.emit o).freeIx = d.freeIx := (rfl)
@[simp] theorem Dev.emit_nextId (o : Output) : (d.emit o).nextId = d.nextId := (rfl)
@[simp] theorem Dev.emit_regs (o : Output) : (d.emit o).regs = d.regs := (rfl)
@[simp] theorem Dev.emit_buf (o : Output) : (d.emit o).buf = d.buf := (rfl)
@[simp] theorem Dev.emit_shadow (o : Output) : (d.emit o).shadow = d.shadow := (rfl)
@[simp] theorem Dev.emit_strobes (o : Output) : (d.emit o).strobes = d.strobes := (rfl)
@[simp] theorem Dev.emit_mbxPend (o : Output) : (d.emit o).mbxPend = d.mbxPend := (rfl)
@[simp] theorem Dev.emit_mem (o : Output) : (d.emit o).mem = d.mem := (rfl)
@[simp] theorem Dev.emit_ctxs (o : Output) : (d.emit o).ctxs = d.ctxs := (rfl)
@[simp] theorem Dev.emit_reqs (o : Output) : (d.emit o).reqs = d.reqs := (rfl)
@[simp] theorem Dev.emit_finals (o : Output) : (d.emit o).finals = d.finals := (rfl)
@[simp] theorem Dev.emit_runs (o : Output) : (d.emit o).runs = d.runs := (rfl)
@[simp] theorem Dev.emit_cal (o : Output) : (d.emit o).cal = d.cal := (rfl)
@[simp] theorem Dev.emit_wbs (o : Output) : (d.emit o).wbs = d.wbs := (rfl)
@[simp] theorem Dev.emit_gens (o : Output) : (d.emit o).gens = d.gens := (rfl)
@[simp] theorem Dev.emit_wins (o : Output) : (d.emit o).wins = d.wins := (rfl)
@[simp] theorem Dev.emit_flags (o : Output) : (d.emit o).flags = d.flags := (rfl)
@[simp] theorem Dev.emit_trees (o : Output) : (d.emit o).trees = d.trees := (rfl)
@[simp] theorem Dev.emit_acc (o : Output) : (d.emit o).acc = d.acc := (rfl)
@[simp] theorem Dev.emit_movers (o : Output) : (d.emit o).movers = d.movers := (rfl)
@[simp] theorem Dev.emit_t3reads (o : Output) : (d.emit o).t3reads = d.t3reads := (rfl)
@[simp] theorem Dev.emit_scrub (o : Output) : (d.emit o).scrub = d.scrub := (rfl)
@[simp] theorem Dev.emit_tim (o : Output) : (d.emit o).tim = d.tim := (rfl)
@[simp] theorem Dev.emit_spr (o : Output) : (d.emit o).spr = d.spr := (rfl)
@[simp] theorem Dev.emit_ann (o : Output) : (d.emit o).ann = d.ann := (rfl)
@[simp] theorem Dev.emit_ctrs (o : Output) : (d.emit o).ctrs = d.ctrs := (rfl)
@[simp] theorem Dev.emit_pwr (o : Output) : (d.emit o).pwr = d.pwr := (rfl)
@[simp] theorem Dev.emit_saf (o : Output) : (d.emit o).saf = d.saf := (rfl)
@[simp] theorem Dev.emit_plk (o : Output) : (d.emit o).plk = d.plk := (rfl)
@[simp] theorem Dev.emit_ing (o : Output) : (d.emit o).ing = d.ing := (rfl)
@[simp] theorem Dev.emit_lanes (o : Output) : (d.emit o).lanes = d.lanes := (rfl)
@[simp] theorem Dev.emit_tracks (o : Output) : (d.emit o).tracks = d.tracks := (rfl)
@[simp] theorem Dev.emit_rings (o : Output) : (d.emit o).rings = d.rings := (rfl)
@[simp] theorem Dev.emit_map (o : Output) : (d.emit o).map = d.map := (rfl)
@[simp] theorem Dev.emit_idxs (o : Output) : (d.emit o).idxs = d.idxs := (rfl)
@[simp] theorem Dev.emit_searches (o : Output) : (d.emit o).searches = d.searches := (rfl)

@[simp] theorem Dev.setReq_now (id : Nat) (f : Req → Req) : (d.setReq id f).now = d.now := (rfl)
@[simp] theorem Dev.setReq_freeIx (id : Nat) (f : Req → Req) : (d.setReq id f).freeIx = d.freeIx := (rfl)
@[simp] theorem Dev.setReq_nextId (id : Nat) (f : Req → Req) : (d.setReq id f).nextId = d.nextId := (rfl)
@[simp] theorem Dev.setReq_outbox (id : Nat) (f : Req → Req) : (d.setReq id f).outbox = d.outbox := (rfl)
@[simp] theorem Dev.setReq_regs (id : Nat) (f : Req → Req) : (d.setReq id f).regs = d.regs := (rfl)
@[simp] theorem Dev.setReq_buf (id : Nat) (f : Req → Req) : (d.setReq id f).buf = d.buf := (rfl)
@[simp] theorem Dev.setReq_shadow (id : Nat) (f : Req → Req) : (d.setReq id f).shadow = d.shadow := (rfl)
@[simp] theorem Dev.setReq_strobes (id : Nat) (f : Req → Req) : (d.setReq id f).strobes = d.strobes := (rfl)
@[simp] theorem Dev.setReq_mbxPend (id : Nat) (f : Req → Req) : (d.setReq id f).mbxPend = d.mbxPend := (rfl)
@[simp] theorem Dev.setReq_mem (id : Nat) (f : Req → Req) : (d.setReq id f).mem = d.mem := (rfl)
@[simp] theorem Dev.setReq_ctxs (id : Nat) (f : Req → Req) : (d.setReq id f).ctxs = d.ctxs := (rfl)
@[simp] theorem Dev.setReq_finals (id : Nat) (f : Req → Req) : (d.setReq id f).finals = d.finals := (rfl)
@[simp] theorem Dev.setReq_runs (id : Nat) (f : Req → Req) : (d.setReq id f).runs = d.runs := (rfl)
@[simp] theorem Dev.setReq_cal (id : Nat) (f : Req → Req) : (d.setReq id f).cal = d.cal := (rfl)
@[simp] theorem Dev.setReq_wbs (id : Nat) (f : Req → Req) : (d.setReq id f).wbs = d.wbs := (rfl)
@[simp] theorem Dev.setReq_gens (id : Nat) (f : Req → Req) : (d.setReq id f).gens = d.gens := (rfl)
@[simp] theorem Dev.setReq_wins (id : Nat) (f : Req → Req) : (d.setReq id f).wins = d.wins := (rfl)
@[simp] theorem Dev.setReq_flags (id : Nat) (f : Req → Req) : (d.setReq id f).flags = d.flags := (rfl)
@[simp] theorem Dev.setReq_trees (id : Nat) (f : Req → Req) : (d.setReq id f).trees = d.trees := (rfl)
@[simp] theorem Dev.setReq_acc (id : Nat) (f : Req → Req) : (d.setReq id f).acc = d.acc := (rfl)
@[simp] theorem Dev.setReq_movers (id : Nat) (f : Req → Req) : (d.setReq id f).movers = d.movers := (rfl)
@[simp] theorem Dev.setReq_t3reads (id : Nat) (f : Req → Req) : (d.setReq id f).t3reads = d.t3reads := (rfl)
@[simp] theorem Dev.setReq_scrub (id : Nat) (f : Req → Req) : (d.setReq id f).scrub = d.scrub := (rfl)
@[simp] theorem Dev.setReq_tim (id : Nat) (f : Req → Req) : (d.setReq id f).tim = d.tim := (rfl)
@[simp] theorem Dev.setReq_spr (id : Nat) (f : Req → Req) : (d.setReq id f).spr = d.spr := (rfl)
@[simp] theorem Dev.setReq_ann (id : Nat) (f : Req → Req) : (d.setReq id f).ann = d.ann := (rfl)
@[simp] theorem Dev.setReq_ctrs (id : Nat) (f : Req → Req) : (d.setReq id f).ctrs = d.ctrs := (rfl)
@[simp] theorem Dev.setReq_pwr (id : Nat) (f : Req → Req) : (d.setReq id f).pwr = d.pwr := (rfl)
@[simp] theorem Dev.setReq_saf (id : Nat) (f : Req → Req) : (d.setReq id f).saf = d.saf := (rfl)
@[simp] theorem Dev.setReq_plk (id : Nat) (f : Req → Req) : (d.setReq id f).plk = d.plk := (rfl)
@[simp] theorem Dev.setReq_ing (id : Nat) (f : Req → Req) : (d.setReq id f).ing = d.ing := (rfl)
@[simp] theorem Dev.setReq_lanes (id : Nat) (f : Req → Req) : (d.setReq id f).lanes = d.lanes := (rfl)
@[simp] theorem Dev.setReq_tracks (id : Nat) (f : Req → Req) : (d.setReq id f).tracks = d.tracks := (rfl)
@[simp] theorem Dev.setReq_rings (id : Nat) (f : Req → Req) : (d.setReq id f).rings = d.rings := (rfl)
@[simp] theorem Dev.setReq_map (id : Nat) (f : Req → Req) : (d.setReq id f).map = d.map := (rfl)
@[simp] theorem Dev.setReq_idxs (id : Nat) (f : Req → Req) : (d.setReq id f).idxs = d.idxs := (rfl)
@[simp] theorem Dev.setReq_searches (id : Nat) (f : Req → Req) : (d.setReq id f).searches = d.searches := (rfl)

@[simp] theorem Dev.setRun_now (id : Nat) (f : Run → Run) : (d.setRun id f).now = d.now := (rfl)
@[simp] theorem Dev.setRun_freeIx (id : Nat) (f : Run → Run) : (d.setRun id f).freeIx = d.freeIx := (rfl)
@[simp] theorem Dev.setRun_nextId (id : Nat) (f : Run → Run) : (d.setRun id f).nextId = d.nextId := (rfl)
@[simp] theorem Dev.setRun_outbox (id : Nat) (f : Run → Run) : (d.setRun id f).outbox = d.outbox := (rfl)
@[simp] theorem Dev.setRun_regs (id : Nat) (f : Run → Run) : (d.setRun id f).regs = d.regs := (rfl)
@[simp] theorem Dev.setRun_buf (id : Nat) (f : Run → Run) : (d.setRun id f).buf = d.buf := (rfl)
@[simp] theorem Dev.setRun_shadow (id : Nat) (f : Run → Run) : (d.setRun id f).shadow = d.shadow := (rfl)
@[simp] theorem Dev.setRun_strobes (id : Nat) (f : Run → Run) : (d.setRun id f).strobes = d.strobes := (rfl)
@[simp] theorem Dev.setRun_mbxPend (id : Nat) (f : Run → Run) : (d.setRun id f).mbxPend = d.mbxPend := (rfl)
@[simp] theorem Dev.setRun_mem (id : Nat) (f : Run → Run) : (d.setRun id f).mem = d.mem := (rfl)
@[simp] theorem Dev.setRun_ctxs (id : Nat) (f : Run → Run) : (d.setRun id f).ctxs = d.ctxs := (rfl)
@[simp] theorem Dev.setRun_reqs (id : Nat) (f : Run → Run) : (d.setRun id f).reqs = d.reqs := (rfl)
@[simp] theorem Dev.setRun_finals (id : Nat) (f : Run → Run) : (d.setRun id f).finals = d.finals := (rfl)
@[simp] theorem Dev.setRun_cal (id : Nat) (f : Run → Run) : (d.setRun id f).cal = d.cal := (rfl)
@[simp] theorem Dev.setRun_wbs (id : Nat) (f : Run → Run) : (d.setRun id f).wbs = d.wbs := (rfl)
@[simp] theorem Dev.setRun_gens (id : Nat) (f : Run → Run) : (d.setRun id f).gens = d.gens := (rfl)
@[simp] theorem Dev.setRun_wins (id : Nat) (f : Run → Run) : (d.setRun id f).wins = d.wins := (rfl)
@[simp] theorem Dev.setRun_flags (id : Nat) (f : Run → Run) : (d.setRun id f).flags = d.flags := (rfl)
@[simp] theorem Dev.setRun_trees (id : Nat) (f : Run → Run) : (d.setRun id f).trees = d.trees := (rfl)
@[simp] theorem Dev.setRun_acc (id : Nat) (f : Run → Run) : (d.setRun id f).acc = d.acc := (rfl)
@[simp] theorem Dev.setRun_movers (id : Nat) (f : Run → Run) : (d.setRun id f).movers = d.movers := (rfl)
@[simp] theorem Dev.setRun_t3reads (id : Nat) (f : Run → Run) : (d.setRun id f).t3reads = d.t3reads := (rfl)
@[simp] theorem Dev.setRun_scrub (id : Nat) (f : Run → Run) : (d.setRun id f).scrub = d.scrub := (rfl)
@[simp] theorem Dev.setRun_tim (id : Nat) (f : Run → Run) : (d.setRun id f).tim = d.tim := (rfl)
@[simp] theorem Dev.setRun_spr (id : Nat) (f : Run → Run) : (d.setRun id f).spr = d.spr := (rfl)
@[simp] theorem Dev.setRun_ann (id : Nat) (f : Run → Run) : (d.setRun id f).ann = d.ann := (rfl)
@[simp] theorem Dev.setRun_ctrs (id : Nat) (f : Run → Run) : (d.setRun id f).ctrs = d.ctrs := (rfl)
@[simp] theorem Dev.setRun_pwr (id : Nat) (f : Run → Run) : (d.setRun id f).pwr = d.pwr := (rfl)
@[simp] theorem Dev.setRun_saf (id : Nat) (f : Run → Run) : (d.setRun id f).saf = d.saf := (rfl)
@[simp] theorem Dev.setRun_plk (id : Nat) (f : Run → Run) : (d.setRun id f).plk = d.plk := (rfl)
@[simp] theorem Dev.setRun_ing (id : Nat) (f : Run → Run) : (d.setRun id f).ing = d.ing := (rfl)
@[simp] theorem Dev.setRun_lanes (id : Nat) (f : Run → Run) : (d.setRun id f).lanes = d.lanes := (rfl)
@[simp] theorem Dev.setRun_tracks (id : Nat) (f : Run → Run) : (d.setRun id f).tracks = d.tracks := (rfl)
@[simp] theorem Dev.setRun_rings (id : Nat) (f : Run → Run) : (d.setRun id f).rings = d.rings := (rfl)
@[simp] theorem Dev.setRun_map (id : Nat) (f : Run → Run) : (d.setRun id f).map = d.map := (rfl)
@[simp] theorem Dev.setRun_idxs (id : Nat) (f : Run → Run) : (d.setRun id f).idxs = d.idxs := (rfl)
@[simp] theorem Dev.setRun_searches (id : Nat) (f : Run → Run) : (d.setRun id f).searches = d.searches := (rfl)

@[simp] theorem Dev.setEntry_now (slot : Nat) (f : Entry → Entry) : (d.setEntry slot f).now = d.now := (rfl)
@[simp] theorem Dev.setEntry_freeIx (slot : Nat) (f : Entry → Entry) : (d.setEntry slot f).freeIx = d.freeIx := (rfl)
@[simp] theorem Dev.setEntry_nextId (slot : Nat) (f : Entry → Entry) : (d.setEntry slot f).nextId = d.nextId := (rfl)
@[simp] theorem Dev.setEntry_outbox (slot : Nat) (f : Entry → Entry) : (d.setEntry slot f).outbox = d.outbox := (rfl)
@[simp] theorem Dev.setEntry_regs (slot : Nat) (f : Entry → Entry) : (d.setEntry slot f).regs = d.regs := (rfl)
@[simp] theorem Dev.setEntry_buf (slot : Nat) (f : Entry → Entry) : (d.setEntry slot f).buf = d.buf := (rfl)
@[simp] theorem Dev.setEntry_shadow (slot : Nat) (f : Entry → Entry) : (d.setEntry slot f).shadow = d.shadow := (rfl)
@[simp] theorem Dev.setEntry_strobes (slot : Nat) (f : Entry → Entry) : (d.setEntry slot f).strobes = d.strobes := (rfl)
@[simp] theorem Dev.setEntry_mbxPend (slot : Nat) (f : Entry → Entry) : (d.setEntry slot f).mbxPend = d.mbxPend := (rfl)
@[simp] theorem Dev.setEntry_mem (slot : Nat) (f : Entry → Entry) : (d.setEntry slot f).mem = d.mem := (rfl)
@[simp] theorem Dev.setEntry_ctxs (slot : Nat) (f : Entry → Entry) : (d.setEntry slot f).ctxs = d.ctxs := (rfl)
@[simp] theorem Dev.setEntry_reqs (slot : Nat) (f : Entry → Entry) : (d.setEntry slot f).reqs = d.reqs := (rfl)
@[simp] theorem Dev.setEntry_finals (slot : Nat) (f : Entry → Entry) : (d.setEntry slot f).finals = d.finals := (rfl)
@[simp] theorem Dev.setEntry_runs (slot : Nat) (f : Entry → Entry) : (d.setEntry slot f).runs = d.runs := (rfl)
@[simp] theorem Dev.setEntry_wbs (slot : Nat) (f : Entry → Entry) : (d.setEntry slot f).wbs = d.wbs := (rfl)
@[simp] theorem Dev.setEntry_gens (slot : Nat) (f : Entry → Entry) : (d.setEntry slot f).gens = d.gens := (rfl)
@[simp] theorem Dev.setEntry_wins (slot : Nat) (f : Entry → Entry) : (d.setEntry slot f).wins = d.wins := (rfl)
@[simp] theorem Dev.setEntry_flags (slot : Nat) (f : Entry → Entry) : (d.setEntry slot f).flags = d.flags := (rfl)
@[simp] theorem Dev.setEntry_trees (slot : Nat) (f : Entry → Entry) : (d.setEntry slot f).trees = d.trees := (rfl)
@[simp] theorem Dev.setEntry_acc (slot : Nat) (f : Entry → Entry) : (d.setEntry slot f).acc = d.acc := (rfl)
@[simp] theorem Dev.setEntry_movers (slot : Nat) (f : Entry → Entry) : (d.setEntry slot f).movers = d.movers := (rfl)
@[simp] theorem Dev.setEntry_t3reads (slot : Nat) (f : Entry → Entry) : (d.setEntry slot f).t3reads = d.t3reads := (rfl)
@[simp] theorem Dev.setEntry_scrub (slot : Nat) (f : Entry → Entry) : (d.setEntry slot f).scrub = d.scrub := (rfl)
@[simp] theorem Dev.setEntry_tim (slot : Nat) (f : Entry → Entry) : (d.setEntry slot f).tim = d.tim := (rfl)
@[simp] theorem Dev.setEntry_spr (slot : Nat) (f : Entry → Entry) : (d.setEntry slot f).spr = d.spr := (rfl)
@[simp] theorem Dev.setEntry_ann (slot : Nat) (f : Entry → Entry) : (d.setEntry slot f).ann = d.ann := (rfl)
@[simp] theorem Dev.setEntry_ctrs (slot : Nat) (f : Entry → Entry) : (d.setEntry slot f).ctrs = d.ctrs := (rfl)
@[simp] theorem Dev.setEntry_pwr (slot : Nat) (f : Entry → Entry) : (d.setEntry slot f).pwr = d.pwr := (rfl)
@[simp] theorem Dev.setEntry_saf (slot : Nat) (f : Entry → Entry) : (d.setEntry slot f).saf = d.saf := (rfl)
@[simp] theorem Dev.setEntry_plk (slot : Nat) (f : Entry → Entry) : (d.setEntry slot f).plk = d.plk := (rfl)
@[simp] theorem Dev.setEntry_ing (slot : Nat) (f : Entry → Entry) : (d.setEntry slot f).ing = d.ing := (rfl)
@[simp] theorem Dev.setEntry_lanes (slot : Nat) (f : Entry → Entry) : (d.setEntry slot f).lanes = d.lanes := (rfl)
@[simp] theorem Dev.setEntry_tracks (slot : Nat) (f : Entry → Entry) : (d.setEntry slot f).tracks = d.tracks := (rfl)
@[simp] theorem Dev.setEntry_rings (slot : Nat) (f : Entry → Entry) : (d.setEntry slot f).rings = d.rings := (rfl)
@[simp] theorem Dev.setEntry_map (slot : Nat) (f : Entry → Entry) : (d.setEntry slot f).map = d.map := (rfl)
@[simp] theorem Dev.setEntry_idxs (slot : Nat) (f : Entry → Entry) : (d.setEntry slot f).idxs = d.idxs := (rfl)
@[simp] theorem Dev.setEntry_searches (slot : Nat) (f : Entry → Entry) : (d.setEntry slot f).searches = d.searches := (rfl)

@[simp] theorem Dev.setPcal_now (p : Nat) (f : PartCal → PartCal) : (d.setPcal p f).now = d.now := (rfl)
@[simp] theorem Dev.setPcal_freeIx (p : Nat) (f : PartCal → PartCal) : (d.setPcal p f).freeIx = d.freeIx := (rfl)
@[simp] theorem Dev.setPcal_nextId (p : Nat) (f : PartCal → PartCal) : (d.setPcal p f).nextId = d.nextId := (rfl)
@[simp] theorem Dev.setPcal_outbox (p : Nat) (f : PartCal → PartCal) : (d.setPcal p f).outbox = d.outbox := (rfl)
@[simp] theorem Dev.setPcal_regs (p : Nat) (f : PartCal → PartCal) : (d.setPcal p f).regs = d.regs := (rfl)
@[simp] theorem Dev.setPcal_buf (p : Nat) (f : PartCal → PartCal) : (d.setPcal p f).buf = d.buf := (rfl)
@[simp] theorem Dev.setPcal_shadow (p : Nat) (f : PartCal → PartCal) : (d.setPcal p f).shadow = d.shadow := (rfl)
@[simp] theorem Dev.setPcal_strobes (p : Nat) (f : PartCal → PartCal) : (d.setPcal p f).strobes = d.strobes := (rfl)
@[simp] theorem Dev.setPcal_mbxPend (p : Nat) (f : PartCal → PartCal) : (d.setPcal p f).mbxPend = d.mbxPend := (rfl)
@[simp] theorem Dev.setPcal_mem (p : Nat) (f : PartCal → PartCal) : (d.setPcal p f).mem = d.mem := (rfl)
@[simp] theorem Dev.setPcal_ctxs (p : Nat) (f : PartCal → PartCal) : (d.setPcal p f).ctxs = d.ctxs := (rfl)
@[simp] theorem Dev.setPcal_reqs (p : Nat) (f : PartCal → PartCal) : (d.setPcal p f).reqs = d.reqs := (rfl)
@[simp] theorem Dev.setPcal_finals (p : Nat) (f : PartCal → PartCal) : (d.setPcal p f).finals = d.finals := (rfl)
@[simp] theorem Dev.setPcal_runs (p : Nat) (f : PartCal → PartCal) : (d.setPcal p f).runs = d.runs := (rfl)
@[simp] theorem Dev.setPcal_wbs (p : Nat) (f : PartCal → PartCal) : (d.setPcal p f).wbs = d.wbs := (rfl)
@[simp] theorem Dev.setPcal_gens (p : Nat) (f : PartCal → PartCal) : (d.setPcal p f).gens = d.gens := (rfl)
@[simp] theorem Dev.setPcal_wins (p : Nat) (f : PartCal → PartCal) : (d.setPcal p f).wins = d.wins := (rfl)
@[simp] theorem Dev.setPcal_flags (p : Nat) (f : PartCal → PartCal) : (d.setPcal p f).flags = d.flags := (rfl)
@[simp] theorem Dev.setPcal_trees (p : Nat) (f : PartCal → PartCal) : (d.setPcal p f).trees = d.trees := (rfl)
@[simp] theorem Dev.setPcal_acc (p : Nat) (f : PartCal → PartCal) : (d.setPcal p f).acc = d.acc := (rfl)
@[simp] theorem Dev.setPcal_movers (p : Nat) (f : PartCal → PartCal) : (d.setPcal p f).movers = d.movers := (rfl)
@[simp] theorem Dev.setPcal_t3reads (p : Nat) (f : PartCal → PartCal) : (d.setPcal p f).t3reads = d.t3reads := (rfl)
@[simp] theorem Dev.setPcal_scrub (p : Nat) (f : PartCal → PartCal) : (d.setPcal p f).scrub = d.scrub := (rfl)
@[simp] theorem Dev.setPcal_tim (p : Nat) (f : PartCal → PartCal) : (d.setPcal p f).tim = d.tim := (rfl)
@[simp] theorem Dev.setPcal_spr (p : Nat) (f : PartCal → PartCal) : (d.setPcal p f).spr = d.spr := (rfl)
@[simp] theorem Dev.setPcal_ann (p : Nat) (f : PartCal → PartCal) : (d.setPcal p f).ann = d.ann := (rfl)
@[simp] theorem Dev.setPcal_ctrs (p : Nat) (f : PartCal → PartCal) : (d.setPcal p f).ctrs = d.ctrs := (rfl)
@[simp] theorem Dev.setPcal_pwr (p : Nat) (f : PartCal → PartCal) : (d.setPcal p f).pwr = d.pwr := (rfl)
@[simp] theorem Dev.setPcal_saf (p : Nat) (f : PartCal → PartCal) : (d.setPcal p f).saf = d.saf := (rfl)
@[simp] theorem Dev.setPcal_plk (p : Nat) (f : PartCal → PartCal) : (d.setPcal p f).plk = d.plk := (rfl)
@[simp] theorem Dev.setPcal_ing (p : Nat) (f : PartCal → PartCal) : (d.setPcal p f).ing = d.ing := (rfl)
@[simp] theorem Dev.setPcal_lanes (p : Nat) (f : PartCal → PartCal) : (d.setPcal p f).lanes = d.lanes := (rfl)
@[simp] theorem Dev.setPcal_tracks (p : Nat) (f : PartCal → PartCal) : (d.setPcal p f).tracks = d.tracks := (rfl)
@[simp] theorem Dev.setPcal_rings (p : Nat) (f : PartCal → PartCal) : (d.setPcal p f).rings = d.rings := (rfl)
@[simp] theorem Dev.setPcal_map (p : Nat) (f : PartCal → PartCal) : (d.setPcal p f).map = d.map := (rfl)
@[simp] theorem Dev.setPcal_idxs (p : Nat) (f : PartCal → PartCal) : (d.setPcal p f).idxs = d.idxs := (rfl)
@[simp] theorem Dev.setPcal_searches (p : Nat) (f : PartCal → PartCal) : (d.setPcal p f).searches = d.searches := (rfl)

@[simp] theorem Dev.setTb_now (n : Nat) (f : Tb → Tb) : (d.setTb n f).now = d.now := (rfl)
@[simp] theorem Dev.setTb_freeIx (n : Nat) (f : Tb → Tb) : (d.setTb n f).freeIx = d.freeIx := (rfl)
@[simp] theorem Dev.setTb_nextId (n : Nat) (f : Tb → Tb) : (d.setTb n f).nextId = d.nextId := (rfl)
@[simp] theorem Dev.setTb_outbox (n : Nat) (f : Tb → Tb) : (d.setTb n f).outbox = d.outbox := (rfl)
@[simp] theorem Dev.setTb_regs (n : Nat) (f : Tb → Tb) : (d.setTb n f).regs = d.regs := (rfl)
@[simp] theorem Dev.setTb_buf (n : Nat) (f : Tb → Tb) : (d.setTb n f).buf = d.buf := (rfl)
@[simp] theorem Dev.setTb_shadow (n : Nat) (f : Tb → Tb) : (d.setTb n f).shadow = d.shadow := (rfl)
@[simp] theorem Dev.setTb_strobes (n : Nat) (f : Tb → Tb) : (d.setTb n f).strobes = d.strobes := (rfl)
@[simp] theorem Dev.setTb_mbxPend (n : Nat) (f : Tb → Tb) : (d.setTb n f).mbxPend = d.mbxPend := (rfl)
@[simp] theorem Dev.setTb_mem (n : Nat) (f : Tb → Tb) : (d.setTb n f).mem = d.mem := (rfl)
@[simp] theorem Dev.setTb_ctxs (n : Nat) (f : Tb → Tb) : (d.setTb n f).ctxs = d.ctxs := (rfl)
@[simp] theorem Dev.setTb_reqs (n : Nat) (f : Tb → Tb) : (d.setTb n f).reqs = d.reqs := (rfl)
@[simp] theorem Dev.setTb_finals (n : Nat) (f : Tb → Tb) : (d.setTb n f).finals = d.finals := (rfl)
@[simp] theorem Dev.setTb_runs (n : Nat) (f : Tb → Tb) : (d.setTb n f).runs = d.runs := (rfl)
@[simp] theorem Dev.setTb_cal (n : Nat) (f : Tb → Tb) : (d.setTb n f).cal = d.cal := (rfl)
@[simp] theorem Dev.setTb_wbs (n : Nat) (f : Tb → Tb) : (d.setTb n f).wbs = d.wbs := (rfl)
@[simp] theorem Dev.setTb_gens (n : Nat) (f : Tb → Tb) : (d.setTb n f).gens = d.gens := (rfl)
@[simp] theorem Dev.setTb_wins (n : Nat) (f : Tb → Tb) : (d.setTb n f).wins = d.wins := (rfl)
@[simp] theorem Dev.setTb_flags (n : Nat) (f : Tb → Tb) : (d.setTb n f).flags = d.flags := (rfl)
@[simp] theorem Dev.setTb_trees (n : Nat) (f : Tb → Tb) : (d.setTb n f).trees = d.trees := (rfl)
@[simp] theorem Dev.setTb_acc (n : Nat) (f : Tb → Tb) : (d.setTb n f).acc = d.acc := (rfl)
@[simp] theorem Dev.setTb_movers (n : Nat) (f : Tb → Tb) : (d.setTb n f).movers = d.movers := (rfl)
@[simp] theorem Dev.setTb_t3reads (n : Nat) (f : Tb → Tb) : (d.setTb n f).t3reads = d.t3reads := (rfl)
@[simp] theorem Dev.setTb_scrub (n : Nat) (f : Tb → Tb) : (d.setTb n f).scrub = d.scrub := (rfl)
@[simp] theorem Dev.setTb_spr (n : Nat) (f : Tb → Tb) : (d.setTb n f).spr = d.spr := (rfl)
@[simp] theorem Dev.setTb_ann (n : Nat) (f : Tb → Tb) : (d.setTb n f).ann = d.ann := (rfl)
@[simp] theorem Dev.setTb_ctrs (n : Nat) (f : Tb → Tb) : (d.setTb n f).ctrs = d.ctrs := (rfl)
@[simp] theorem Dev.setTb_pwr (n : Nat) (f : Tb → Tb) : (d.setTb n f).pwr = d.pwr := (rfl)
@[simp] theorem Dev.setTb_saf (n : Nat) (f : Tb → Tb) : (d.setTb n f).saf = d.saf := (rfl)
@[simp] theorem Dev.setTb_plk (n : Nat) (f : Tb → Tb) : (d.setTb n f).plk = d.plk := (rfl)
@[simp] theorem Dev.setTb_ing (n : Nat) (f : Tb → Tb) : (d.setTb n f).ing = d.ing := (rfl)
@[simp] theorem Dev.setTb_lanes (n : Nat) (f : Tb → Tb) : (d.setTb n f).lanes = d.lanes := (rfl)
@[simp] theorem Dev.setTb_tracks (n : Nat) (f : Tb → Tb) : (d.setTb n f).tracks = d.tracks := (rfl)
@[simp] theorem Dev.setTb_rings (n : Nat) (f : Tb → Tb) : (d.setTb n f).rings = d.rings := (rfl)
@[simp] theorem Dev.setTb_map (n : Nat) (f : Tb → Tb) : (d.setTb n f).map = d.map := (rfl)
@[simp] theorem Dev.setTb_idxs (n : Nat) (f : Tb → Tb) : (d.setTb n f).idxs = d.idxs := (rfl)
@[simp] theorem Dev.setTb_searches (n : Nat) (f : Tb → Tb) : (d.setTb n f).searches = d.searches := (rfl)

@[simp] theorem Dev.setMover_now (t : Nat) (q : List Copy) : (d.setMover t q).now = d.now := (rfl)
@[simp] theorem Dev.setMover_freeIx (t : Nat) (q : List Copy) : (d.setMover t q).freeIx = d.freeIx := (rfl)
@[simp] theorem Dev.setMover_nextId (t : Nat) (q : List Copy) : (d.setMover t q).nextId = d.nextId := (rfl)
@[simp] theorem Dev.setMover_outbox (t : Nat) (q : List Copy) : (d.setMover t q).outbox = d.outbox := (rfl)
@[simp] theorem Dev.setMover_regs (t : Nat) (q : List Copy) : (d.setMover t q).regs = d.regs := (rfl)
@[simp] theorem Dev.setMover_buf (t : Nat) (q : List Copy) : (d.setMover t q).buf = d.buf := (rfl)
@[simp] theorem Dev.setMover_shadow (t : Nat) (q : List Copy) : (d.setMover t q).shadow = d.shadow := (rfl)
@[simp] theorem Dev.setMover_strobes (t : Nat) (q : List Copy) : (d.setMover t q).strobes = d.strobes := (rfl)
@[simp] theorem Dev.setMover_mbxPend (t : Nat) (q : List Copy) : (d.setMover t q).mbxPend = d.mbxPend := (rfl)
@[simp] theorem Dev.setMover_mem (t : Nat) (q : List Copy) : (d.setMover t q).mem = d.mem := (rfl)
@[simp] theorem Dev.setMover_ctxs (t : Nat) (q : List Copy) : (d.setMover t q).ctxs = d.ctxs := (rfl)
@[simp] theorem Dev.setMover_reqs (t : Nat) (q : List Copy) : (d.setMover t q).reqs = d.reqs := (rfl)
@[simp] theorem Dev.setMover_finals (t : Nat) (q : List Copy) : (d.setMover t q).finals = d.finals := (rfl)
@[simp] theorem Dev.setMover_runs (t : Nat) (q : List Copy) : (d.setMover t q).runs = d.runs := (rfl)
@[simp] theorem Dev.setMover_cal (t : Nat) (q : List Copy) : (d.setMover t q).cal = d.cal := (rfl)
@[simp] theorem Dev.setMover_wbs (t : Nat) (q : List Copy) : (d.setMover t q).wbs = d.wbs := (rfl)
@[simp] theorem Dev.setMover_gens (t : Nat) (q : List Copy) : (d.setMover t q).gens = d.gens := (rfl)
@[simp] theorem Dev.setMover_wins (t : Nat) (q : List Copy) : (d.setMover t q).wins = d.wins := (rfl)
@[simp] theorem Dev.setMover_flags (t : Nat) (q : List Copy) : (d.setMover t q).flags = d.flags := (rfl)
@[simp] theorem Dev.setMover_trees (t : Nat) (q : List Copy) : (d.setMover t q).trees = d.trees := (rfl)
@[simp] theorem Dev.setMover_acc (t : Nat) (q : List Copy) : (d.setMover t q).acc = d.acc := (rfl)
@[simp] theorem Dev.setMover_t3reads (t : Nat) (q : List Copy) : (d.setMover t q).t3reads = d.t3reads := (rfl)
@[simp] theorem Dev.setMover_scrub (t : Nat) (q : List Copy) : (d.setMover t q).scrub = d.scrub := (rfl)
@[simp] theorem Dev.setMover_tim (t : Nat) (q : List Copy) : (d.setMover t q).tim = d.tim := (rfl)
@[simp] theorem Dev.setMover_spr (t : Nat) (q : List Copy) : (d.setMover t q).spr = d.spr := (rfl)
@[simp] theorem Dev.setMover_ann (t : Nat) (q : List Copy) : (d.setMover t q).ann = d.ann := (rfl)
@[simp] theorem Dev.setMover_ctrs (t : Nat) (q : List Copy) : (d.setMover t q).ctrs = d.ctrs := (rfl)
@[simp] theorem Dev.setMover_pwr (t : Nat) (q : List Copy) : (d.setMover t q).pwr = d.pwr := (rfl)
@[simp] theorem Dev.setMover_saf (t : Nat) (q : List Copy) : (d.setMover t q).saf = d.saf := (rfl)
@[simp] theorem Dev.setMover_plk (t : Nat) (q : List Copy) : (d.setMover t q).plk = d.plk := (rfl)
@[simp] theorem Dev.setMover_ing (t : Nat) (q : List Copy) : (d.setMover t q).ing = d.ing := (rfl)
@[simp] theorem Dev.setMover_lanes (t : Nat) (q : List Copy) : (d.setMover t q).lanes = d.lanes := (rfl)
@[simp] theorem Dev.setMover_tracks (t : Nat) (q : List Copy) : (d.setMover t q).tracks = d.tracks := (rfl)
@[simp] theorem Dev.setMover_rings (t : Nat) (q : List Copy) : (d.setMover t q).rings = d.rings := (rfl)
@[simp] theorem Dev.setMover_map (t : Nat) (q : List Copy) : (d.setMover t q).map = d.map := (rfl)
@[simp] theorem Dev.setMover_idxs (t : Nat) (q : List Copy) : (d.setMover t q).idxs = d.idxs := (rfl)
@[simp] theorem Dev.setMover_searches (t : Nat) (q : List Copy) : (d.setMover t q).searches = d.searches := (rfl)

@[simp] theorem Dev.setTree_now (t : Nat) (b : Barrier) : (d.setTree t b).now = d.now := (rfl)
@[simp] theorem Dev.setTree_freeIx (t : Nat) (b : Barrier) : (d.setTree t b).freeIx = d.freeIx := (rfl)
@[simp] theorem Dev.setTree_nextId (t : Nat) (b : Barrier) : (d.setTree t b).nextId = d.nextId := (rfl)
@[simp] theorem Dev.setTree_outbox (t : Nat) (b : Barrier) : (d.setTree t b).outbox = d.outbox := (rfl)
@[simp] theorem Dev.setTree_regs (t : Nat) (b : Barrier) : (d.setTree t b).regs = d.regs := (rfl)
@[simp] theorem Dev.setTree_buf (t : Nat) (b : Barrier) : (d.setTree t b).buf = d.buf := (rfl)
@[simp] theorem Dev.setTree_shadow (t : Nat) (b : Barrier) : (d.setTree t b).shadow = d.shadow := (rfl)
@[simp] theorem Dev.setTree_strobes (t : Nat) (b : Barrier) : (d.setTree t b).strobes = d.strobes := (rfl)
@[simp] theorem Dev.setTree_mbxPend (t : Nat) (b : Barrier) : (d.setTree t b).mbxPend = d.mbxPend := (rfl)
@[simp] theorem Dev.setTree_mem (t : Nat) (b : Barrier) : (d.setTree t b).mem = d.mem := (rfl)
@[simp] theorem Dev.setTree_ctxs (t : Nat) (b : Barrier) : (d.setTree t b).ctxs = d.ctxs := (rfl)
@[simp] theorem Dev.setTree_reqs (t : Nat) (b : Barrier) : (d.setTree t b).reqs = d.reqs := (rfl)
@[simp] theorem Dev.setTree_finals (t : Nat) (b : Barrier) : (d.setTree t b).finals = d.finals := (rfl)
@[simp] theorem Dev.setTree_runs (t : Nat) (b : Barrier) : (d.setTree t b).runs = d.runs := (rfl)
@[simp] theorem Dev.setTree_cal (t : Nat) (b : Barrier) : (d.setTree t b).cal = d.cal := (rfl)
@[simp] theorem Dev.setTree_wbs (t : Nat) (b : Barrier) : (d.setTree t b).wbs = d.wbs := (rfl)
@[simp] theorem Dev.setTree_gens (t : Nat) (b : Barrier) : (d.setTree t b).gens = d.gens := (rfl)
@[simp] theorem Dev.setTree_wins (t : Nat) (b : Barrier) : (d.setTree t b).wins = d.wins := (rfl)
@[simp] theorem Dev.setTree_flags (t : Nat) (b : Barrier) : (d.setTree t b).flags = d.flags := (rfl)
@[simp] theorem Dev.setTree_acc (t : Nat) (b : Barrier) : (d.setTree t b).acc = d.acc := (rfl)
@[simp] theorem Dev.setTree_movers (t : Nat) (b : Barrier) : (d.setTree t b).movers = d.movers := (rfl)
@[simp] theorem Dev.setTree_t3reads (t : Nat) (b : Barrier) : (d.setTree t b).t3reads = d.t3reads := (rfl)
@[simp] theorem Dev.setTree_scrub (t : Nat) (b : Barrier) : (d.setTree t b).scrub = d.scrub := (rfl)
@[simp] theorem Dev.setTree_tim (t : Nat) (b : Barrier) : (d.setTree t b).tim = d.tim := (rfl)
@[simp] theorem Dev.setTree_spr (t : Nat) (b : Barrier) : (d.setTree t b).spr = d.spr := (rfl)
@[simp] theorem Dev.setTree_ann (t : Nat) (b : Barrier) : (d.setTree t b).ann = d.ann := (rfl)
@[simp] theorem Dev.setTree_ctrs (t : Nat) (b : Barrier) : (d.setTree t b).ctrs = d.ctrs := (rfl)
@[simp] theorem Dev.setTree_pwr (t : Nat) (b : Barrier) : (d.setTree t b).pwr = d.pwr := (rfl)
@[simp] theorem Dev.setTree_saf (t : Nat) (b : Barrier) : (d.setTree t b).saf = d.saf := (rfl)
@[simp] theorem Dev.setTree_plk (t : Nat) (b : Barrier) : (d.setTree t b).plk = d.plk := (rfl)
@[simp] theorem Dev.setTree_ing (t : Nat) (b : Barrier) : (d.setTree t b).ing = d.ing := (rfl)
@[simp] theorem Dev.setTree_lanes (t : Nat) (b : Barrier) : (d.setTree t b).lanes = d.lanes := (rfl)
@[simp] theorem Dev.setTree_tracks (t : Nat) (b : Barrier) : (d.setTree t b).tracks = d.tracks := (rfl)
@[simp] theorem Dev.setTree_rings (t : Nat) (b : Barrier) : (d.setTree t b).rings = d.rings := (rfl)
@[simp] theorem Dev.setTree_map (t : Nat) (b : Barrier) : (d.setTree t b).map = d.map := (rfl)
@[simp] theorem Dev.setTree_idxs (t : Nat) (b : Barrier) : (d.setTree t b).idxs = d.idxs := (rfl)
@[simp] theorem Dev.setTree_searches (t : Nat) (b : Barrier) : (d.setTree t b).searches = d.searches := (rfl)

@[simp] theorem Dev.setBind_now (x : Nat) (f : Bind → Bind) : (d.setBind x f).now = d.now := (rfl)
@[simp] theorem Dev.setBind_freeIx (x : Nat) (f : Bind → Bind) : (d.setBind x f).freeIx = d.freeIx := (rfl)
@[simp] theorem Dev.setBind_nextId (x : Nat) (f : Bind → Bind) : (d.setBind x f).nextId = d.nextId := (rfl)
@[simp] theorem Dev.setBind_outbox (x : Nat) (f : Bind → Bind) : (d.setBind x f).outbox = d.outbox := (rfl)
@[simp] theorem Dev.setBind_regs (x : Nat) (f : Bind → Bind) : (d.setBind x f).regs = d.regs := (rfl)
@[simp] theorem Dev.setBind_buf (x : Nat) (f : Bind → Bind) : (d.setBind x f).buf = d.buf := (rfl)
@[simp] theorem Dev.setBind_shadow (x : Nat) (f : Bind → Bind) : (d.setBind x f).shadow = d.shadow := (rfl)
@[simp] theorem Dev.setBind_strobes (x : Nat) (f : Bind → Bind) : (d.setBind x f).strobes = d.strobes := (rfl)
@[simp] theorem Dev.setBind_mbxPend (x : Nat) (f : Bind → Bind) : (d.setBind x f).mbxPend = d.mbxPend := (rfl)
@[simp] theorem Dev.setBind_mem (x : Nat) (f : Bind → Bind) : (d.setBind x f).mem = d.mem := (rfl)
@[simp] theorem Dev.setBind_ctxs (x : Nat) (f : Bind → Bind) : (d.setBind x f).ctxs = d.ctxs := (rfl)
@[simp] theorem Dev.setBind_reqs (x : Nat) (f : Bind → Bind) : (d.setBind x f).reqs = d.reqs := (rfl)
@[simp] theorem Dev.setBind_finals (x : Nat) (f : Bind → Bind) : (d.setBind x f).finals = d.finals := (rfl)
@[simp] theorem Dev.setBind_runs (x : Nat) (f : Bind → Bind) : (d.setBind x f).runs = d.runs := (rfl)
@[simp] theorem Dev.setBind_cal (x : Nat) (f : Bind → Bind) : (d.setBind x f).cal = d.cal := (rfl)
@[simp] theorem Dev.setBind_wbs (x : Nat) (f : Bind → Bind) : (d.setBind x f).wbs = d.wbs := (rfl)
@[simp] theorem Dev.setBind_gens (x : Nat) (f : Bind → Bind) : (d.setBind x f).gens = d.gens := (rfl)
@[simp] theorem Dev.setBind_wins (x : Nat) (f : Bind → Bind) : (d.setBind x f).wins = d.wins := (rfl)
@[simp] theorem Dev.setBind_flags (x : Nat) (f : Bind → Bind) : (d.setBind x f).flags = d.flags := (rfl)
@[simp] theorem Dev.setBind_trees (x : Nat) (f : Bind → Bind) : (d.setBind x f).trees = d.trees := (rfl)
@[simp] theorem Dev.setBind_acc (x : Nat) (f : Bind → Bind) : (d.setBind x f).acc = d.acc := (rfl)
@[simp] theorem Dev.setBind_movers (x : Nat) (f : Bind → Bind) : (d.setBind x f).movers = d.movers := (rfl)
@[simp] theorem Dev.setBind_t3reads (x : Nat) (f : Bind → Bind) : (d.setBind x f).t3reads = d.t3reads := (rfl)
@[simp] theorem Dev.setBind_scrub (x : Nat) (f : Bind → Bind) : (d.setBind x f).scrub = d.scrub := (rfl)
@[simp] theorem Dev.setBind_tim (x : Nat) (f : Bind → Bind) : (d.setBind x f).tim = d.tim := (rfl)
@[simp] theorem Dev.setBind_spr (x : Nat) (f : Bind → Bind) : (d.setBind x f).spr = d.spr := (rfl)
@[simp] theorem Dev.setBind_ann (x : Nat) (f : Bind → Bind) : (d.setBind x f).ann = d.ann := (rfl)
@[simp] theorem Dev.setBind_ctrs (x : Nat) (f : Bind → Bind) : (d.setBind x f).ctrs = d.ctrs := (rfl)
@[simp] theorem Dev.setBind_pwr (x : Nat) (f : Bind → Bind) : (d.setBind x f).pwr = d.pwr := (rfl)
@[simp] theorem Dev.setBind_saf (x : Nat) (f : Bind → Bind) : (d.setBind x f).saf = d.saf := (rfl)
@[simp] theorem Dev.setBind_plk (x : Nat) (f : Bind → Bind) : (d.setBind x f).plk = d.plk := (rfl)
@[simp] theorem Dev.setBind_lanes (x : Nat) (f : Bind → Bind) : (d.setBind x f).lanes = d.lanes := (rfl)
@[simp] theorem Dev.setBind_tracks (x : Nat) (f : Bind → Bind) : (d.setBind x f).tracks = d.tracks := (rfl)
@[simp] theorem Dev.setBind_rings (x : Nat) (f : Bind → Bind) : (d.setBind x f).rings = d.rings := (rfl)
@[simp] theorem Dev.setBind_map (x : Nat) (f : Bind → Bind) : (d.setBind x f).map = d.map := (rfl)
@[simp] theorem Dev.setBind_idxs (x : Nat) (f : Bind → Bind) : (d.setBind x f).idxs = d.idxs := (rfl)
@[simp] theorem Dev.setBind_searches (x : Nat) (f : Bind → Bind) : (d.setBind x f).searches = d.searches := (rfl)

@[simp] theorem Dev.setRing_now (a w v : Nat) : (d.setRing a w v).now = d.now := (rfl)
@[simp] theorem Dev.setRing_freeIx (a w v : Nat) : (d.setRing a w v).freeIx = d.freeIx := (rfl)
@[simp] theorem Dev.setRing_nextId (a w v : Nat) : (d.setRing a w v).nextId = d.nextId := (rfl)
@[simp] theorem Dev.setRing_outbox (a w v : Nat) : (d.setRing a w v).outbox = d.outbox := (rfl)
@[simp] theorem Dev.setRing_regs (a w v : Nat) : (d.setRing a w v).regs = d.regs := (rfl)
@[simp] theorem Dev.setRing_buf (a w v : Nat) : (d.setRing a w v).buf = d.buf := (rfl)
@[simp] theorem Dev.setRing_shadow (a w v : Nat) : (d.setRing a w v).shadow = d.shadow := (rfl)
@[simp] theorem Dev.setRing_strobes (a w v : Nat) : (d.setRing a w v).strobes = d.strobes := (rfl)
@[simp] theorem Dev.setRing_mbxPend (a w v : Nat) : (d.setRing a w v).mbxPend = d.mbxPend := (rfl)
@[simp] theorem Dev.setRing_mem (a w v : Nat) : (d.setRing a w v).mem = d.mem := (rfl)
@[simp] theorem Dev.setRing_ctxs (a w v : Nat) : (d.setRing a w v).ctxs = d.ctxs := (rfl)
@[simp] theorem Dev.setRing_reqs (a w v : Nat) : (d.setRing a w v).reqs = d.reqs := (rfl)
@[simp] theorem Dev.setRing_finals (a w v : Nat) : (d.setRing a w v).finals = d.finals := (rfl)
@[simp] theorem Dev.setRing_runs (a w v : Nat) : (d.setRing a w v).runs = d.runs := (rfl)
@[simp] theorem Dev.setRing_cal (a w v : Nat) : (d.setRing a w v).cal = d.cal := (rfl)
@[simp] theorem Dev.setRing_wbs (a w v : Nat) : (d.setRing a w v).wbs = d.wbs := (rfl)
@[simp] theorem Dev.setRing_gens (a w v : Nat) : (d.setRing a w v).gens = d.gens := (rfl)
@[simp] theorem Dev.setRing_wins (a w v : Nat) : (d.setRing a w v).wins = d.wins := (rfl)
@[simp] theorem Dev.setRing_flags (a w v : Nat) : (d.setRing a w v).flags = d.flags := (rfl)
@[simp] theorem Dev.setRing_trees (a w v : Nat) : (d.setRing a w v).trees = d.trees := (rfl)
@[simp] theorem Dev.setRing_acc (a w v : Nat) : (d.setRing a w v).acc = d.acc := (rfl)
@[simp] theorem Dev.setRing_movers (a w v : Nat) : (d.setRing a w v).movers = d.movers := (rfl)
@[simp] theorem Dev.setRing_t3reads (a w v : Nat) : (d.setRing a w v).t3reads = d.t3reads := (rfl)
@[simp] theorem Dev.setRing_scrub (a w v : Nat) : (d.setRing a w v).scrub = d.scrub := (rfl)
@[simp] theorem Dev.setRing_tim (a w v : Nat) : (d.setRing a w v).tim = d.tim := (rfl)
@[simp] theorem Dev.setRing_spr (a w v : Nat) : (d.setRing a w v).spr = d.spr := (rfl)
@[simp] theorem Dev.setRing_ann (a w v : Nat) : (d.setRing a w v).ann = d.ann := (rfl)
@[simp] theorem Dev.setRing_ctrs (a w v : Nat) : (d.setRing a w v).ctrs = d.ctrs := (rfl)
@[simp] theorem Dev.setRing_pwr (a w v : Nat) : (d.setRing a w v).pwr = d.pwr := (rfl)
@[simp] theorem Dev.setRing_saf (a w v : Nat) : (d.setRing a w v).saf = d.saf := (rfl)
@[simp] theorem Dev.setRing_plk (a w v : Nat) : (d.setRing a w v).plk = d.plk := (rfl)
@[simp] theorem Dev.setRing_ing (a w v : Nat) : (d.setRing a w v).ing = d.ing := (rfl)
@[simp] theorem Dev.setRing_lanes (a w v : Nat) : (d.setRing a w v).lanes = d.lanes := (rfl)
@[simp] theorem Dev.setRing_tracks (a w v : Nat) : (d.setRing a w v).tracks = d.tracks := (rfl)
@[simp] theorem Dev.setRing_map (a w v : Nat) : (d.setRing a w v).map = d.map := (rfl)
@[simp] theorem Dev.setRing_idxs (a w v : Nat) : (d.setRing a w v).idxs = d.idxs := (rfl)
@[simp] theorem Dev.setRing_searches (a w v : Nat) : (d.setRing a w v).searches = d.searches := (rfl)

@[simp] theorem Dev.setCtr_now (n : Nat) (f : Ctr → Ctr) : (d.setCtr n f).now = d.now := (rfl)
@[simp] theorem Dev.setCtr_freeIx (n : Nat) (f : Ctr → Ctr) : (d.setCtr n f).freeIx = d.freeIx := (rfl)
@[simp] theorem Dev.setCtr_nextId (n : Nat) (f : Ctr → Ctr) : (d.setCtr n f).nextId = d.nextId := (rfl)
@[simp] theorem Dev.setCtr_outbox (n : Nat) (f : Ctr → Ctr) : (d.setCtr n f).outbox = d.outbox := (rfl)
@[simp] theorem Dev.setCtr_regs (n : Nat) (f : Ctr → Ctr) : (d.setCtr n f).regs = d.regs := (rfl)
@[simp] theorem Dev.setCtr_buf (n : Nat) (f : Ctr → Ctr) : (d.setCtr n f).buf = d.buf := (rfl)
@[simp] theorem Dev.setCtr_shadow (n : Nat) (f : Ctr → Ctr) : (d.setCtr n f).shadow = d.shadow := (rfl)
@[simp] theorem Dev.setCtr_strobes (n : Nat) (f : Ctr → Ctr) : (d.setCtr n f).strobes = d.strobes := (rfl)
@[simp] theorem Dev.setCtr_mbxPend (n : Nat) (f : Ctr → Ctr) : (d.setCtr n f).mbxPend = d.mbxPend := (rfl)
@[simp] theorem Dev.setCtr_mem (n : Nat) (f : Ctr → Ctr) : (d.setCtr n f).mem = d.mem := (rfl)
@[simp] theorem Dev.setCtr_ctxs (n : Nat) (f : Ctr → Ctr) : (d.setCtr n f).ctxs = d.ctxs := (rfl)
@[simp] theorem Dev.setCtr_reqs (n : Nat) (f : Ctr → Ctr) : (d.setCtr n f).reqs = d.reqs := (rfl)
@[simp] theorem Dev.setCtr_finals (n : Nat) (f : Ctr → Ctr) : (d.setCtr n f).finals = d.finals := (rfl)
@[simp] theorem Dev.setCtr_runs (n : Nat) (f : Ctr → Ctr) : (d.setCtr n f).runs = d.runs := (rfl)
@[simp] theorem Dev.setCtr_cal (n : Nat) (f : Ctr → Ctr) : (d.setCtr n f).cal = d.cal := (rfl)
@[simp] theorem Dev.setCtr_wbs (n : Nat) (f : Ctr → Ctr) : (d.setCtr n f).wbs = d.wbs := (rfl)
@[simp] theorem Dev.setCtr_gens (n : Nat) (f : Ctr → Ctr) : (d.setCtr n f).gens = d.gens := (rfl)
@[simp] theorem Dev.setCtr_wins (n : Nat) (f : Ctr → Ctr) : (d.setCtr n f).wins = d.wins := (rfl)
@[simp] theorem Dev.setCtr_flags (n : Nat) (f : Ctr → Ctr) : (d.setCtr n f).flags = d.flags := (rfl)
@[simp] theorem Dev.setCtr_trees (n : Nat) (f : Ctr → Ctr) : (d.setCtr n f).trees = d.trees := (rfl)
@[simp] theorem Dev.setCtr_acc (n : Nat) (f : Ctr → Ctr) : (d.setCtr n f).acc = d.acc := (rfl)
@[simp] theorem Dev.setCtr_movers (n : Nat) (f : Ctr → Ctr) : (d.setCtr n f).movers = d.movers := (rfl)
@[simp] theorem Dev.setCtr_t3reads (n : Nat) (f : Ctr → Ctr) : (d.setCtr n f).t3reads = d.t3reads := (rfl)
@[simp] theorem Dev.setCtr_scrub (n : Nat) (f : Ctr → Ctr) : (d.setCtr n f).scrub = d.scrub := (rfl)
@[simp] theorem Dev.setCtr_tim (n : Nat) (f : Ctr → Ctr) : (d.setCtr n f).tim = d.tim := (rfl)
@[simp] theorem Dev.setCtr_spr (n : Nat) (f : Ctr → Ctr) : (d.setCtr n f).spr = d.spr := (rfl)
@[simp] theorem Dev.setCtr_ann (n : Nat) (f : Ctr → Ctr) : (d.setCtr n f).ann = d.ann := (rfl)
@[simp] theorem Dev.setCtr_pwr (n : Nat) (f : Ctr → Ctr) : (d.setCtr n f).pwr = d.pwr := (rfl)
@[simp] theorem Dev.setCtr_saf (n : Nat) (f : Ctr → Ctr) : (d.setCtr n f).saf = d.saf := (rfl)
@[simp] theorem Dev.setCtr_plk (n : Nat) (f : Ctr → Ctr) : (d.setCtr n f).plk = d.plk := (rfl)
@[simp] theorem Dev.setCtr_ing (n : Nat) (f : Ctr → Ctr) : (d.setCtr n f).ing = d.ing := (rfl)
@[simp] theorem Dev.setCtr_lanes (n : Nat) (f : Ctr → Ctr) : (d.setCtr n f).lanes = d.lanes := (rfl)
@[simp] theorem Dev.setCtr_tracks (n : Nat) (f : Ctr → Ctr) : (d.setCtr n f).tracks = d.tracks := (rfl)
@[simp] theorem Dev.setCtr_rings (n : Nat) (f : Ctr → Ctr) : (d.setCtr n f).rings = d.rings := (rfl)
@[simp] theorem Dev.setCtr_map (n : Nat) (f : Ctr → Ctr) : (d.setCtr n f).map = d.map := (rfl)
@[simp] theorem Dev.setCtr_idxs (n : Nat) (f : Ctr → Ctr) : (d.setCtr n f).idxs = d.idxs := (rfl)
@[simp] theorem Dev.setCtr_searches (n : Nat) (f : Ctr → Ctr) : (d.setCtr n f).searches = d.searches := (rfl)

/-! ### Leaving IDLE (R514) -/

@[simp] theorem Dev.wakeIdle_now : d.wakeIdle.now = d.now := by unfold Dev.wakeIdle; split <;> rfl
@[simp] theorem Dev.wakeIdle_freeIx : d.wakeIdle.freeIx = d.freeIx := by unfold Dev.wakeIdle; split <;> rfl
@[simp] theorem Dev.wakeIdle_nextId : d.wakeIdle.nextId = d.nextId := by unfold Dev.wakeIdle; split <;> rfl
@[simp] theorem Dev.wakeIdle_outbox : d.wakeIdle.outbox = d.outbox := by unfold Dev.wakeIdle; split <;> rfl
@[simp] theorem Dev.wakeIdle_buf : d.wakeIdle.buf = d.buf := by unfold Dev.wakeIdle; split <;> rfl
@[simp] theorem Dev.wakeIdle_shadow : d.wakeIdle.shadow = d.shadow := by unfold Dev.wakeIdle; split <;> rfl
@[simp] theorem Dev.wakeIdle_strobes : d.wakeIdle.strobes = d.strobes := by unfold Dev.wakeIdle; split <;> rfl
@[simp] theorem Dev.wakeIdle_mbxPend : d.wakeIdle.mbxPend = d.mbxPend := by unfold Dev.wakeIdle; split <;> rfl
@[simp] theorem Dev.wakeIdle_mem : d.wakeIdle.mem = d.mem := by unfold Dev.wakeIdle; split <;> rfl
@[simp] theorem Dev.wakeIdle_ctxs : d.wakeIdle.ctxs = d.ctxs := by unfold Dev.wakeIdle; split <;> rfl
@[simp] theorem Dev.wakeIdle_reqs : d.wakeIdle.reqs = d.reqs := by unfold Dev.wakeIdle; split <;> rfl
@[simp] theorem Dev.wakeIdle_finals : d.wakeIdle.finals = d.finals := by unfold Dev.wakeIdle; split <;> rfl
@[simp] theorem Dev.wakeIdle_runs : d.wakeIdle.runs = d.runs := by unfold Dev.wakeIdle; split <;> rfl
@[simp] theorem Dev.wakeIdle_cal : d.wakeIdle.cal = d.cal := by unfold Dev.wakeIdle; split <;> rfl
@[simp] theorem Dev.wakeIdle_wbs : d.wakeIdle.wbs = d.wbs := by unfold Dev.wakeIdle; split <;> rfl
@[simp] theorem Dev.wakeIdle_gens : d.wakeIdle.gens = d.gens := by unfold Dev.wakeIdle; split <;> rfl
@[simp] theorem Dev.wakeIdle_wins : d.wakeIdle.wins = d.wins := by unfold Dev.wakeIdle; split <;> rfl
@[simp] theorem Dev.wakeIdle_flags : d.wakeIdle.flags = d.flags := by unfold Dev.wakeIdle; split <;> rfl
@[simp] theorem Dev.wakeIdle_trees : d.wakeIdle.trees = d.trees := by unfold Dev.wakeIdle; split <;> rfl
@[simp] theorem Dev.wakeIdle_acc : d.wakeIdle.acc = d.acc := by unfold Dev.wakeIdle; split <;> rfl
@[simp] theorem Dev.wakeIdle_movers : d.wakeIdle.movers = d.movers := by unfold Dev.wakeIdle; split <;> rfl
@[simp] theorem Dev.wakeIdle_t3reads : d.wakeIdle.t3reads = d.t3reads := by unfold Dev.wakeIdle; split <;> rfl
@[simp] theorem Dev.wakeIdle_scrub : d.wakeIdle.scrub = d.scrub := by unfold Dev.wakeIdle; split <;> rfl
@[simp] theorem Dev.wakeIdle_tim : d.wakeIdle.tim = d.tim := by unfold Dev.wakeIdle; split <;> rfl
@[simp] theorem Dev.wakeIdle_spr : d.wakeIdle.spr = d.spr := by unfold Dev.wakeIdle; split <;> rfl
@[simp] theorem Dev.wakeIdle_ann : d.wakeIdle.ann = d.ann := by unfold Dev.wakeIdle; split <;> rfl
@[simp] theorem Dev.wakeIdle_ctrs : d.wakeIdle.ctrs = d.ctrs := by unfold Dev.wakeIdle; split <;> rfl
@[simp] theorem Dev.wakeIdle_saf : d.wakeIdle.saf = d.saf := by unfold Dev.wakeIdle; split <;> rfl
@[simp] theorem Dev.wakeIdle_plk : d.wakeIdle.plk = d.plk := by unfold Dev.wakeIdle; split <;> rfl
@[simp] theorem Dev.wakeIdle_ing : d.wakeIdle.ing = d.ing := by unfold Dev.wakeIdle; split <;> rfl
@[simp] theorem Dev.wakeIdle_lanes : d.wakeIdle.lanes = d.lanes := by unfold Dev.wakeIdle; split <;> rfl
@[simp] theorem Dev.wakeIdle_tracks : d.wakeIdle.tracks = d.tracks := by unfold Dev.wakeIdle; split <;> rfl
@[simp] theorem Dev.wakeIdle_rings : d.wakeIdle.rings = d.rings := by unfold Dev.wakeIdle; split <;> rfl
@[simp] theorem Dev.wakeIdle_map : d.wakeIdle.map = d.map := by unfold Dev.wakeIdle; split <;> rfl
@[simp] theorem Dev.wakeIdle_idxs : d.wakeIdle.idxs = d.idxs := by unfold Dev.wakeIdle; split <;> rfl
@[simp] theorem Dev.wakeIdle_searches : d.wakeIdle.searches = d.searches := by unfold Dev.wakeIdle; split <;> rfl

@[simp] theorem Dev.wakeIdle_hostUp : d.wakeIdle.hostUp = d.hostUp := by unfold Dev.wakeIdle Dev.hostUp; split <;> rfl

@[simp] theorem Dev.wakeIdle_halt : d.wakeIdle.pwr.halt = d.pwr.halt := by unfold Dev.wakeIdle; split <;> rfl

end Sys2Proof.Machine
end

