-- ==== Sys2Proof/Laws/Events.lean ====
section
/-! SUPPORT. What counting and posting a record can do (R89 to R91, R98, R497 to R507): they change registers, the queue front
ends, the counters and what leaves the device, and nothing else. -/

namespace Sys2Proof.Machine

/-- `e` is `d` but for registers, contexts, counters and what has left the device. -/
def Dev.Tells (d e : Dev) : Prop := e = { d with regs := e.regs, ctxs := e.ctxs, outbox := e.outbox, ctrs := e.ctrs }

theorem Dev.Tells.refl (d : Dev) : d.Tells d := rfl

theorem Dev.Tells.trans {a b c : Dev} (h : a.Tells b) (g : b.Tells c) : a.Tells c := by
  unfold Dev.Tells at *
  rw [g, h]

theorem Dev.Tells.foldl {α : Type} (f : Dev → α → Dev) (h : ∀ d a, Dev.Tells d (f d a)) (l : List α) (d : Dev) : d.Tells (l.foldl f d) := by
  induction l generalizing d with
  | nil => exact .refl d
  | cons a l ih => exact (h d a).trans (ih _)

theorem Dev.Tells.now {d e : Dev} (h : d.Tells e) : e.now = d.now := by rw [h]
theorem Dev.Tells.freeIx {d e : Dev} (h : d.Tells e) : e.freeIx = d.freeIx := by rw [h]
theorem Dev.Tells.nextId {d e : Dev} (h : d.Tells e) : e.nextId = d.nextId := by rw [h]
theorem Dev.Tells.buf {d e : Dev} (h : d.Tells e) : e.buf = d.buf := by rw [h]
theorem Dev.Tells.shadow {d e : Dev} (h : d.Tells e) : e.shadow = d.shadow := by rw [h]
theorem Dev.Tells.strobes {d e : Dev} (h : d.Tells e) : e.strobes = d.strobes := by rw [h]
theorem Dev.Tells.mbxPend {d e : Dev} (h : d.Tells e) : e.mbxPend = d.mbxPend := by rw [h]
theorem Dev.Tells.mem {d e : Dev} (h : d.Tells e) : e.mem = d.mem := by rw [h]
theorem Dev.Tells.reqs {d e : Dev} (h : d.Tells e) : e.reqs = d.reqs := by rw [h]
theorem Dev.Tells.finals {d e : Dev} (h : d.Tells e) : e.finals = d.finals := by rw [h]
theorem Dev.Tells.runs {d e : Dev} (h : d.Tells e) : e.runs = d.runs := by rw [h]
theorem Dev.Tells.cal {d e : Dev} (h : d.Tells e) : e.cal = d.cal := by rw [h]
theorem Dev.Tells.wbs {d e : Dev} (h : d.Tells e) : e.wbs = d.wbs := by rw [h]
theorem Dev.Tells.gens {d e : Dev} (h : d.Tells e) : e.gens = d.gens := by rw [h]
theorem Dev.Tells.wins {d e : Dev} (h : d.Tells e) : e.wins = d.wins := by rw [h]
theorem Dev.Tells.flags {d e : Dev} (h : d.Tells e) : e.flags = d.flags := by rw [h]
theorem Dev.Tells.trees {d e : Dev} (h : d.Tells e) : e.trees = d.trees := by rw [h]
theorem Dev.Tells.acc {d e : Dev} (h : d.Tells e) : e.acc = d.acc := by rw [h]
theorem Dev.Tells.movers {d e : Dev} (h : d.Tells e) : e.movers = d.movers := by rw [h]
theorem Dev.Tells.t3reads {d e : Dev} (h : d.Tells e) : e.t3reads = d.t3reads := by rw [h]
theorem Dev.Tells.scrub {d e : Dev} (h : d.Tells e) : e.scrub = d.scrub := by rw [h]
theorem Dev.Tells.tim {d e : Dev} (h : d.Tells e) : e.tim = d.tim := by rw [h]
theorem Dev.Tells.spr {d e : Dev} (h : d.Tells e) : e.spr = d.spr := by rw [h]
theorem Dev.Tells.ann {d e : Dev} (h : d.Tells e) : e.ann = d.ann := by rw [h]
theorem Dev.Tells.pwr {d e : Dev} (h : d.Tells e) : e.pwr = d.pwr := by rw [h]
theorem Dev.Tells.saf {d e : Dev} (h : d.Tells e) : e.saf = d.saf := by rw [h]
theorem Dev.Tells.plk {d e : Dev} (h : d.Tells e) : e.plk = d.plk := by rw [h]
theorem Dev.Tells.ing {d e : Dev} (h : d.Tells e) : e.ing = d.ing := by rw [h]
theorem Dev.Tells.lanes {d e : Dev} (h : d.Tells e) : e.lanes = d.lanes := by rw [h]
theorem Dev.Tells.tracks {d e : Dev} (h : d.Tells e) : e.tracks = d.tracks := by rw [h]
theorem Dev.Tells.rings {d e : Dev} (h : d.Tells e) : e.rings = d.rings := by rw [h]
theorem Dev.Tells.map {d e : Dev} (h : d.Tells e) : e.map = d.map := by rw [h]
theorem Dev.Tells.idxs {d e : Dev} (h : d.Tells e) : e.idxs = d.idxs := by rw [h]
theorem Dev.Tells.searches {d e : Dev} (h : d.Tells e) : e.searches = d.searches := by rw [h]

theorem Dev.Tells.ite {d a b : Dev} {p : Prop} [Decidable p] (h : d.Tells a) (g : d.Tells b) : d.Tells (if p then a else b) := by
  split
  · exact h
  · exact g

theorem Dev.tells_set (d : Dev) (f : Fld) (i j v : Nat) : d.Tells (d.set f i j v) := (rfl)

theorem Dev.tells_addSat (d : Dev) (f : Fld) (i j n : Nat) : d.Tells (d.addSat f i j n) := d.tells_set ..

theorem Dev.tells_addWrap (d : Dev) (f : Fld) (i j n : Nat) : d.Tells (d.addWrap f i j n) := d.tells_set ..

theorem Dev.tells_emit (d : Dev) (o : Output) : d.Tells (d.emit o) := (rfl)

theorem Dev.tells_setCtr (d : Dev) (n : Nat) (f : Ctr → Ctr) : d.Tells (d.setCtr n f) := (rfl)

theorem Dev.tells_setCtx (d : Dev) (c : Nat) (f : Ctx → Ctx) : d.Tells (d.setCtx c f) := by
  unfold Dev.setCtx Dev.syncCtx
  refine .trans (b := { d with ctxs := SMap.write Ctx.reset d.ctxs c (f (d.ctx c)) }) rfl ?_
  exact ((((((Dev.tells_set ..).trans (Dev.tells_set ..)).trans (Dev.tells_set ..)).trans (Dev.tells_set ..)).trans
    (Dev.tells_set ..)).trans (Dev.tells_set ..))

theorem Dev.tells_interrupt (d : Dev) (c : Nat) : d.Tells (d.interrupt c) := by
  unfold Dev.interrupt
  dsimp only
  split
  · exact (Dev.tells_setCtx ..).trans (Dev.tells_emit ..)
  · exact Dev.tells_setCtx ..

theorem Dev.tells_putRecord (d : Dev) (c : Nat) (h : Held) : d.Tells (d.putRecord c h) := by
  unfold Dev.putRecord
  exact .ite (((Dev.tells_emit ..).trans (Dev.tells_setCtx ..)).trans (Dev.tells_interrupt ..))
    ((Dev.tells_emit ..).trans (Dev.tells_setCtx ..))

theorem Dev.tells_drainHold (d : Dev) (c n : Nat) : d.Tells (d.drainHold c n) := by
  induction n generalizing d with
  | zero => exact .refl d
  | succ n ih =>
    unfold Dev.drainHold
    split
    · exact .refl d
    · split
      · exact ((Dev.tells_setCtx ..).trans (Dev.tells_putRecord ..)).trans (ih _)
      · exact .refl d

theorem Dev.tells_lostRecord (d : Dev) (c : Nat) : d.Tells (d.lostRecord c).1 := (Dev.tells_addSat ..).trans (Dev.tells_set ..)

theorem Dev.tells_hold (d : Dev) (c : Nat) (h : Held) : d.Tells (d.hold c h).1 := by
  have key (f : Ctx → Ctx) : d.Tells (d.setCtx c f, false).1 := d.tells_setCtx c f
  unfold Dev.hold
  cases h.kind with
  | final => exact key _
  | runOf n =>
    dsimp only
    split
    · exact (d.tells_setCtx c _).trans (Dev.tells_lostRecord _ c)
    · exact key _
  | event =>
    dsimp only
    split
    · exact d.tells_lostRecord c
    · exact key _

theorem Dev.tells_deliver (d : Dev) (c : Nat) (h : Held) : d.Tells (d.deliver c h).1 := by
  have key (f : Fld) (n : Nat) : d.Tells (d.addSat f c 0 n, false).1 := d.tells_addSat f c 0 n
  have put : d.Tells (d.putRecord c h, false).1 := d.tells_putRecord c h
  unfold Dev.deliver
  dsimp only
  split
  · exact key _ _
  · split
    · exact put
    · exact d.tells_hold c h

theorem Dev.tells_post (d : Dev) (c : Nat) (h : Held) : d.Tells (d.post c h) := by
  unfold Dev.post
  dsimp only
  split
  · split
    · exact ((Dev.tells_deliver ..).trans (Dev.tells_deliver ..)).trans (Dev.tells_deliver ..)
    · exact (Dev.tells_deliver ..).trans (Dev.tells_deliver ..)
  · exact Dev.tells_deliver ..

/-- R98: posting an event. -/
theorem Dev.tells_event (d : Dev) (c code status sub : Nat) (info : List Byte) (resDa : Nat) :
    d.Tells (d.event c code status sub info resDa) := Dev.tells_post ..

theorem Dev.tells_eventAll (d : Dev) (cs : List Nat) (code status sub : Nat) (info : List Byte) (resDa : Nat) :
    d.Tells (d.eventAll cs code status sub info resDa) := Dev.Tells.foldl _ (fun _ _ => Dev.tells_event ..) _ _

theorem Dev.tells_sample (d : Dev) (n : Nat) (o : Occ) (k : Nat) : d.Tells (d.sample n o k) := by
  induction k generalizing d with
  | zero => exact .refl d
  | succ k ih =>
    unfold Dev.sample
    dsimp only
    refine .ite (.refl d) (.ite ?_ ?_)
    · exact .trans (.trans (Dev.tells_event ..) (Dev.tells_setCtr _ n _)) (ih _)
    · exact .trans (Dev.tells_setCtr _ n _) (ih _)

/-- R497 to R507: counting an occurrence. -/
theorem Dev.tells_count (d : Dev) (c e k : Nat) (o : Occ) : d.Tells (d.count c e k o) := by
  unfold Dev.count
  split
  · exact .refl d
  · exact Dev.Tells.foldl _ (fun _ _ => (Dev.tells_setCtr ..).trans (Dev.tells_sample ..)) _ _

/-- With the counters frozen nothing is counted. -/
theorem Dev.count_frozen (d : Dev) (c e k : Nat) (o : Occ) (h : d.bit R.PMC_CTRL.FREEZE 0 0 = true) : d.count c e k o = d := by
  simp [Dev.count, h]

end Sys2Proof.Machine
end

