-- ==== Sys2Proof/Laws/SMap.lean ====
section
/-! SUPPORT. Laws of the tables by key: a read after a write, and that a write keeps the canonical form. -/

namespace Sys2Proof.Machine

variable {α : Type}

@[simp] theorem SMap.read_put_self (d : α) (m : SMap α) (k : Nat) (v : α) : SMap.read d (SMap.put m k v) k = v := by
  induction m with
  | nil => simp [SMap.put, SMap.read]
  | cons p r ih =>
    unfold SMap.put
    split
    · simp [SMap.read]
    · split
      · simp [SMap.read]
      · simp only [SMap.read, ih, ite_eq_right_iff]; omega

theorem SMap.read_put_ne (d : α) (m : SMap α) {k k' : Nat} (v : α) (h : k' ≠ k) :
    SMap.read d (SMap.put m k v) k' = SMap.read d m k' := by
  induction m with
  | nil => simp [SMap.put, SMap.read, h.symm]
  | cons p r ih =>
    unfold SMap.put
    split
    · simp [SMap.read, h.symm]
    · split
      · rename_i e; subst e; simp [SMap.read, h.symm]
      · simp only [SMap.read, ih]

@[simp] theorem SMap.read_erase_self (d : α) (m : SMap α) (k : Nat) : SMap.read d (SMap.erase m k) k = d := by
  induction m with
  | nil => rfl
  | cons p r ih =>
    simp only [SMap.erase, List.filter_cons] at ih ⊢
    split
    · simp_all [SMap.read]
    · exact ih

theorem SMap.read_erase_ne (d : α) (m : SMap α) {k k' : Nat} (h : k' ≠ k) :
    SMap.read d (SMap.erase m k) k' = SMap.read d m k' := by
  induction m with
  | nil => rfl
  | cons p r ih =>
    simp only [SMap.erase, List.filter_cons] at ih ⊢
    split
    · simp only [SMap.read, ih]
    · simp_all [SMap.read, h.symm]

@[simp] theorem SMap.read_write_self [DecidableEq α] (d : α) (m : SMap α) (k : Nat) (v : α) :
    SMap.read d (SMap.write d m k v) k = v := by
  unfold SMap.write
  split <;> simp_all

theorem SMap.read_write_ne [DecidableEq α] (d : α) (m : SMap α) {k k' : Nat} (v : α) (h : k' ≠ k) :
    SMap.read d (SMap.write d m k v) k' = SMap.read d m k' := by
  unfold SMap.write
  split
  · exact SMap.read_erase_ne d m h
  · exact SMap.read_put_ne d m v h

/-- `List.lookup` of a table is its read. -/
theorem SMap.lookup_getD (d : α) (m : SMap α) (k : Nat) : (m.lookup k).getD d = SMap.read d m k := by
  induction m with
  | nil => rfl
  | cons p r ih =>
    by_cases h : p.1 = k
    · subst h; simp [List.lookup, SMap.read]
    · have h2 : (k == p.1) = false := by simpa using fun e => h e.symm
      simp [List.lookup, SMap.read, h, h2, ih]

theorem SMap.risingFrom_mono {l l' : Option Nat} {m : SMap α} (hl : ∀ x, l' = some x → ∃ y, l = some y ∧ x ≤ y)
    (h : SMap.risingFrom l m = true) : SMap.risingFrom l' m = true := by
  cases m with
  | nil => rfl
  | cons p r =>
    simp only [SMap.risingFrom, Bool.and_eq_true] at h ⊢
    refine ⟨?_, h.2⟩
    cases hl' : l' with
    | none => rfl
    | some x =>
      obtain ⟨y, rfl, hy⟩ := hl x hl'
      simp only [decide_eq_true_eq] at h ⊢
      omega

theorem SMap.risingFrom_tail {l : Option Nat} {p : Nat × α} {r : SMap α} (h : SMap.risingFrom l (p :: r) = true) :
    SMap.risingFrom l r = true := by
  simp only [SMap.risingFrom, Bool.and_eq_true] at h
  refine SMap.risingFrom_mono ?_ h.2
  intro x hx
  subst hx
  exact ⟨p.1, rfl, by have := h.1; simp only [decide_eq_true_eq] at this; omega⟩

theorem SMap.risingFrom_filter (f : Nat × α → Bool) {l : Option Nat} {m : SMap α} (h : SMap.risingFrom l m = true) :
    SMap.risingFrom l (m.filter f) = true := by
  induction m generalizing l with
  | nil => rfl
  | cons p r ih =>
    rw [List.filter_cons]
    split
    · simp only [SMap.risingFrom, Bool.and_eq_true] at h ⊢
      exact ⟨h.1, ih h.2⟩
    · exact ih (SMap.risingFrom_tail h)

theorem SMap.risingFrom_put {l : Option Nat} {m : SMap α} {k : Nat} (v : α) (hk : ∀ x, l = some x → x < k)
    (h : SMap.risingFrom l m = true) : SMap.risingFrom l (SMap.put m k v) = true := by
  induction m generalizing l with
  | nil =>
    cases l with
    | none => rfl
    | some x => simp [SMap.put, SMap.risingFrom, hk x rfl]
  | cons p r ih =>
    have h' := h
    simp only [SMap.risingFrom, Bool.and_eq_true] at h'
    unfold SMap.put
    split
    · simp only [SMap.risingFrom, Bool.and_eq_true]
      refine ⟨?_, by simpa using ‹k < p.1›, h'.2⟩
      cases l with
      | none => rfl
      | some x => simp [hk x rfl]
    · split
      · rename_i e
        subst e
        simp only [SMap.risingFrom, Bool.and_eq_true]
        exact h'
      · simp only [SMap.risingFrom, Bool.and_eq_true]
        refine ⟨h'.1, ih ?_ h'.2⟩
        intro x hx
        cases hx
        omega

theorem SMap.mem_put {m : SMap α} {k : Nat} {v : α} {p : Nat × α} (h : p ∈ SMap.put m k v) : p = (k, v) ∨ p ∈ m := by
  induction m with
  | nil => simpa [SMap.put] using h
  | cons q r ih =>
    unfold SMap.put at h
    split at h
    · simpa using h
    · split at h
      · rcases List.mem_cons.1 h with h | h <;> simp [h]
      · rcases List.mem_cons.1 h with h | h
        · simp [h]
        · rcases ih h with h | h <;> simp [h]

/-- Every write keeps the canonical form. -/
theorem SMap.canonical_write [DecidableEq α] {d : α} {m : SMap α} (k : Nat) (v : α) (h : SMap.canonical d m = true) :
    SMap.canonical d (SMap.write d m k v) = true := by
  simp only [SMap.canonical, Bool.and_eq_true, List.all_eq_true, decide_eq_true_eq] at h ⊢
  unfold SMap.write
  split
  · exact ⟨SMap.risingFrom_filter _ h.1, fun p hp => h.2 p (List.mem_filter.1 hp).1⟩
  · refine ⟨SMap.risingFrom_put v (by simp) h.1, fun p hp => ?_⟩
    rcases SMap.mem_put hp with rfl | hp
    · assumption
    · exact h.2 p hp

theorem SMap.canonical_nil [DecidableEq α] (d : α) : SMap.canonical d ([] : SMap α) = true := rfl

end Sys2Proof.Machine
end

