-- ==== Sys2Proof/Laws/Regs.lean ====
section
/-! SUPPORT. Laws of the register table: a field reads as it was written, and a write reaches no other register and no
other field. -/

namespace Sys2Proof.Machine

theorem bitsOf_lt (v hi lo : Nat) : bitsOf v hi lo < 2 ^ (hi + 1 - lo) := Nat.mod_lt _ (Nat.two_pow_pos _)

theorem bitsOf_mul_le (v hi lo : Nat) : bitsOf v hi lo * 2 ^ lo ≤ v :=
  le_trans (Nat.mul_le_mul_right _ (Nat.mod_le _ _)) (Nat.div_mul_le_self v _)

/-- A number in three parts: above the field, the field, below it. -/
theorem split_field (v hi lo : Nat) :
    v = v % 2 ^ lo + 2 ^ lo * (bitsOf v hi lo + 2 ^ (hi + 1 - lo) * (v / 2 ^ lo / 2 ^ (hi + 1 - lo))) := by
  unfold bitsOf
  rw [Nat.mod_add_div, Nat.mod_add_div]

theorem putBits_eq (v hi lo x : Nat) :
    putBits v hi lo x = v % 2 ^ lo + 2 ^ lo * (x % 2 ^ (hi + 1 - lo) + 2 ^ (hi + 1 - lo) * (v / 2 ^ lo / 2 ^ (hi + 1 - lo))) := by
  have h := split_field v hi lo
  have h2 := bitsOf_mul_le v hi lo
  have e : v - bitsOf v hi lo * 2 ^ lo = v % 2 ^ lo + 2 ^ lo * (2 ^ (hi + 1 - lo) * (v / 2 ^ lo / 2 ^ (hi + 1 - lo))) := by
    have e2 : bitsOf v hi lo * 2 ^ lo + (v % 2 ^ lo + 2 ^ lo * (2 ^ (hi + 1 - lo) * (v / 2 ^ lo / 2 ^ (hi + 1 - lo)))) = v := by
      conv_rhs => rw [h]
      ring
    omega
  unfold putBits
  rw [e]
  ring

/-- A field reads as it was put. -/
@[simp] theorem bitsOf_putBits_self (v hi lo x : Nat) : bitsOf (putBits v hi lo x) hi lo = x % 2 ^ (hi + 1 - lo) := by
  rw [putBits_eq]
  unfold bitsOf
  rw [Nat.add_mul_div_left _ _ (Nat.two_pow_pos lo), Nat.div_eq_of_lt (Nat.mod_lt _ (Nat.two_pow_pos lo)), Nat.zero_add,
    Nat.add_mul_mod_self_left, Nat.mod_mod]

/-- A field below the one that was put is as it was. -/
theorem bitsOf_putBits_below {v hi lo x hi' lo' : Nat} (h : hi' < lo) (hl : lo' ≤ hi') :
    bitsOf (putBits v hi lo x) hi' lo' = bitsOf v hi' lo' := by
  have key : ∀ w : Nat, bitsOf w hi' lo' = w % 2 ^ lo / 2 ^ lo' % 2 ^ (hi' + 1 - lo') := by
    intro w
    unfold bitsOf
    have e : lo = lo' + ((hi' + 1 - lo') + (lo - hi' - 1)) := by omega
    conv_rhs => rw [e, pow_add, Nat.mod_mul_right_div_self, pow_add, Nat.mod_mul_right_mod]
  rw [key, key, putBits_eq, Nat.add_mul_mod_self_left, Nat.mod_mod]

/-- A field above the one that was put is as it was. -/
theorem bitsOf_putBits_above {v hi lo x hi' lo' : Nat} (h : hi < lo') (hl : lo ≤ hi) :
    bitsOf (putBits v hi lo x) hi' lo' = bitsOf v hi' lo' := by
  have e : lo' = lo + ((hi + 1 - lo) + (lo' - hi - 1)) := by omega
  have key : ∀ w : Nat, w / 2 ^ lo' = w / 2 ^ lo / 2 ^ (hi + 1 - lo) / 2 ^ (lo' - hi - 1) := by
    intro w
    rw [Nat.div_div_eq_div_mul, Nat.div_div_eq_div_mul, ← pow_add, ← pow_add]
    congr 2
  unfold bitsOf
  rw [key, key v, putBits_eq, Nat.add_mul_div_left _ _ (Nat.two_pow_pos lo), Nat.div_eq_of_lt (Nat.mod_lt _ (Nat.two_pow_pos lo)),
    Nat.zero_add, Nat.add_mul_div_left _ _ (Nat.two_pow_pos _), Nat.div_eq_of_lt (Nat.mod_lt _ (Nat.two_pow_pos _)), Nat.zero_add]

theorem putBits_lt {v hi lo x n : Nat} (hv : v < 2 ^ n) (hn : hi < n) (hl : lo ≤ hi) : putBits v hi lo x < 2 ^ n := by
  have e : n = lo + ((hi + 1 - lo) + (n - hi - 1)) := by omega
  have hq : v / 2 ^ lo / 2 ^ (hi + 1 - lo) < 2 ^ (n - hi - 1) := by
    rw [Nat.div_div_eq_div_mul, ← pow_add]
    apply Nat.div_lt_of_lt_mul
    rw [← pow_add]
    have : lo + (hi + 1 - lo) + (n - hi - 1) = n := by omega
    rw [this]
    exact hv
  have hx := Nat.mod_lt x (Nat.two_pow_pos (hi + 1 - lo))
  have hm := Nat.mod_lt v (Nat.two_pow_pos lo)
  rw [putBits_eq, e, pow_add, pow_add]
  have a1 : x % 2 ^ (hi + 1 - lo) + 2 ^ (hi + 1 - lo) * (v / 2 ^ lo / 2 ^ (hi + 1 - lo)) + 1 ≤ 2 ^ (hi + 1 - lo) * 2 ^ (n - hi - 1) := by
    calc x % 2 ^ (hi + 1 - lo) + 2 ^ (hi + 1 - lo) * (v / 2 ^ lo / 2 ^ (hi + 1 - lo)) + 1
        ≤ 2 ^ (hi + 1 - lo) * (v / 2 ^ lo / 2 ^ (hi + 1 - lo) + 1) := by rw [Nat.mul_add]; omega
      _ ≤ _ := Nat.mul_le_mul_left _ hq
  calc v % 2 ^ lo + 2 ^ lo * (x % 2 ^ (hi + 1 - lo) + 2 ^ (hi + 1 - lo) * (v / 2 ^ lo / 2 ^ (hi + 1 - lo)))
      < 2 ^ lo * (x % 2 ^ (hi + 1 - lo) + 2 ^ (hi + 1 - lo) * (v / 2 ^ lo / 2 ^ (hi + 1 - lo)) + 1) := by rw [Nat.mul_add _ _ 1]; omega
    _ ≤ _ := Nat.mul_le_mul_left _ a1

/-! ### Cells -/

theorem lookup_put_self (m : Cells) (k : Nat) (v : BitVec 128) : (SMap.put m k v).lookup k = some v := by
  induction m with
  | nil => simp [SMap.put]
  | cons p r ih =>
    unfold SMap.put
    split
    · simp [List.lookup]
    · split
      · rename_i e; subst e; simp [List.lookup]
      · rename_i e
        have h2 : (k == p.1) = false := by simpa using e
        simp [List.lookup, h2, ih]

theorem lookup_put_ne (m : Cells) {k k' : Nat} (v : BitVec 128) (h : k' ≠ k) : (SMap.put m k v).lookup k' = m.lookup k' := by
  have h2 : (k' == k) = false := by simpa using h
  induction m with
  | nil => simp [SMap.put, List.lookup, h2]
  | cons p r ih =>
    unfold SMap.put
    split
    · simp [List.lookup, h2]
    · split
      · rename_i e; subst e; simp [List.lookup, h2]
      · simp [List.lookup, ih]

theorem lookup_erase_self (m : Cells) (k : Nat) : (SMap.erase m k).lookup k = none := by
  induction m with
  | nil => rfl
  | cons p r ih =>
    simp only [SMap.erase, List.filter_cons] at ih ⊢
    split
    · rename_i e
      have h2 : (k == p.1) = false := by simp at e ⊢; exact fun h => e h.symm
      simp only [List.lookup, h2, ih]
    · exact ih

theorem lookup_erase_ne (m : Cells) {k k' : Nat} (h : k' ≠ k) : (SMap.erase m k).lookup k' = m.lookup k' := by
  induction m with
  | nil => rfl
  | cons p r ih =>
    simp only [SMap.erase, List.filter_cons] at ih ⊢
    split
    · simp only [List.lookup, ih]
    · rename_i e
      have e' : p.1 = k := by simpa using e
      have h2 : (k' == p.1) = false := by rw [e']; simpa using h
      simp only [List.lookup, h2, ih]

theorem colStatRst_lt {off x : Nat} (h : colStatRst off = some x) : x < 2 ^ 128 := by
  unfold colStatRst at h
  dsimp only at h
  split at h
  · rename_i c
    have h' := Option.some.inj h
    rw [← h']
    split <;> omega
  · cases h

theorem rstRows_lt : rstRows.all (fun r => decide (r.2.2.2.2.2 < 2 ^ 128)) = true := by decide

theorem rstValue_lt (off : Nat) : rstValue off < 2 ^ 128 := by
  unfold rstValue
  cases h : colStatRst off with
  | some x => exact colStatRst_lt h
  | none =>
    simp only [Option.getD_none]
    unfold rowRst
    split
    · rename_i r hr
      exact of_decide_eq_true (List.all_eq_true.1 rstRows_lt r (List.mem_of_find?_eq_some hr))
    · exact Nat.two_pow_pos _

theorem cellOf_lt (m : Cells) (off : Nat) : cellOf m off < 2 ^ 128 := by
  unfold cellOf
  split
  · exact BitVec.isLt _
  · exact rstValue_lt off

/-- A register reads as it was written. -/
@[simp] theorem cellOf_putCell_self (m : Cells) (off v : Nat) : cellOf (putCell m off v) off = v % 2 ^ 128 := by
  unfold cellOf putCell SMap.write
  by_cases e : BitVec.ofNat 128 v = BitVec.ofNat 128 (rstValue off)
  · rw [if_pos e, lookup_erase_self]
    have := congrArg BitVec.toNat e
    simp only [BitVec.toNat_ofNat, Nat.mod_eq_of_lt (rstValue_lt off)] at this
    simpa using this.symm
  · rw [if_neg e, lookup_put_self]
    simp

/-- A write reaches no other register. -/
theorem cellOf_putCell_ne (m : Cells) {off off' : Nat} (v : Nat) (h : off' ≠ off) : cellOf (putCell m off v) off' = cellOf m off' := by
  unfold cellOf putCell SMap.write
  by_cases e : BitVec.ofNat 128 v = BitVec.ofNat 128 (rstValue off)
  · rw [if_pos e, lookup_erase_ne m h]
  · rw [if_neg e, lookup_put_ne m _ h]

/-! ### Fields -/

/-- A field that lies in its register reads as it was written. -/
theorem Dev.get_set_self (d : Dev) (f : Fld) (i j v : Nat) (h : f.hi < 128) (hl : f.lo ≤ f.hi) :
    (d.set f i j v).get f i j = v % 2 ^ (f.hi + 1 - f.lo) := by
  unfold Dev.set Dev.get
  simp only [cellOf_putCell_self]
  rw [Nat.mod_eq_of_lt (putBits_lt (cellOf_lt _ _) h hl), bitsOf_putBits_self]

/-- A field of another register is as it was. -/
theorem Dev.get_set_ne (d : Dev) (f g : Fld) (i j i' j' v : Nat) (h : g.off i' j' ≠ f.off i j) :
    (d.set f i j v).get g i' j' = d.get g i' j' := by
  unfold Dev.set Dev.get
  simp only
  rw [cellOf_putCell_ne _ _ h]

/-- Another field of the same register is as it was. -/
theorem Dev.get_set_other (d : Dev) (f g : Fld) (i j i' j' v : Nat) (hh : f.hi < 128) (hl : f.lo ≤ f.hi) (gl : g.lo ≤ g.hi)
    (h : g.hi < f.lo ∨ f.hi < g.lo) (e : g.off i' j' = f.off i j) : (d.set f i j v).get g i' j' = d.get g i' j' := by
  unfold Dev.set Dev.get
  simp only [e, cellOf_putCell_self]
  rw [Nat.mod_eq_of_lt (putBits_lt (cellOf_lt _ _) hh hl)]
  rcases h with h | h
  · exact bitsOf_putBits_below h gl
  · exact bitsOf_putBits_above h hl

end Sys2Proof.Machine
end

