-- ==== Sys2Proof/Laws/Mailbox.lean ====
section
/-! SUPPORT. What a write and a read through a mailbox do, once for all selectors. -/

namespace Sys2Proof.Machine

@[simp] theorem cellOf_putReg_self (d : Dev) (off v : Nat) : cellOf (d.putReg off v).regs off = v % 2 ^ 128 := by
  simp [Dev.putReg]

theorem cellOf_putReg_ne (d : Dev) {off off' : Nat} (v : Nat) (h : off' ≠ off) : cellOf (d.putReg off v).regs off' = cellOf d.regs off' := by
  simp [Dev.putReg, cellOf_putCell_ne _ _ h]

/-- Everything but the register table is as before. -/
theorem Dev.putReg_frame (d : Dev) (off v : Nat) : { d.putReg off v with regs := d.regs } = d := rfl

/-- A read selector latches its value (R490). -/
theorem Dev.mbxSel_read (nv : NonVol) (d : Dev) (box : Option Nat) (sel : Nat) (h : selDir sel = some false) :
    d.mbxSel nv box true sel =
      (((d.putReg (mbxBase box) sel).putWords (mbxBase box) ((d.putReg (mbxBase box) sel).selValue nv sel))).putReg (mbxBase box + 20) 1 := by
  simp [Dev.mbxSel, h]

/-- A write selector opens the data words (R490). -/
theorem Dev.mbxSel_write (nv : NonVol) (d : Dev) (box : Option Nat) (sel : Nat) (h : selDir sel = some true) :
    d.mbxSel nv box true sel = (d.putReg (mbxBase box) sel).putReg (mbxBase box + 20) 0 := by
  simp [Dev.mbxSel, h]

/-- The mailbox with a write selector and its four words. -/
def Dev.mbxFilled (d : Dev) (box : Option Nat) (sel lo hi : Nat) : Dev :=
  (((((d.putReg (mbxBase box) sel).putReg (mbxBase box + 20) 0).putReg (mbxBase box + 4) (lo % 2 ^ 32)).putReg (mbxBase box + 8)
    (lo / 2 ^ 32 % 2 ^ 32)).putReg (mbxBase box + 12) (hi % 2 ^ 32)).putReg (mbxBase box + 16) (hi / 2 ^ 32 % 2 ^ 32)

theorem Dev.mbxWrite_filled (nv : NonVol) (d : Dev) (box : Option Nat) (sel lo hi : Nat) (h : selDir sel = some true) :
    d.mbxWrite nv box true sel lo hi = (d.mbxFilled box sel lo hi).mbxValid box := by
  have e1 : bitsOf 0 7 4 = 0 := by decide
  unfold Dev.mbxWrite
  dsimp only
  rw [Dev.mbxSel_write nv d box sel h]
  unfold Dev.mbxFilled
  have c : ∀ (e : Dev), cellOf e.regs (mbxBase box + 20) = 0 → e.mbxClosed box = false := by
    intro e he
    unfold Dev.mbxClosed
    rw [he]
    rfl
  have dat : ∀ (e : Dev) (k v : Nat), k < 4 → cellOf e.regs (mbxBase box + 20) = 0 →
      e.mbxData box k v = e.putReg (mbxBase box + 4 + 4 * k) v ∧
      cellOf (e.putReg (mbxBase box + 4 + 4 * k) v).regs (mbxBase box + 20) = 0 := by
    intro e k v hk he
    refine ⟨by simp [Dev.mbxData, c e he], ?_⟩
    rw [cellOf_putReg_ne]
    · exact he
    · omega
  have h0 : cellOf ((d.putReg (mbxBase box) sel).putReg (mbxBase box + 20) 0).regs (mbxBase box + 20) = 0 := by simp
  obtain ⟨r0, h1⟩ := dat _ 0 (lo % 2 ^ 32) (by omega) h0
  rw [r0]
  obtain ⟨r1, h2⟩ := dat _ 1 (lo / 2 ^ 32 % 2 ^ 32) (by omega) h1
  rw [r1]
  obtain ⟨r2, h3⟩ := dat _ 2 (hi % 2 ^ 32) (by omega) h2
  rw [r2]
  obtain ⟨r3, h4⟩ := dat _ 3 (hi / 2 ^ 32 % 2 ^ 32) (by omega) h3
  rw [r3]

theorem Dev.mbxFilled_cells (d : Dev) (box : Option Nat) (sel lo hi : Nat) (hs : sel < 2 ^ 32) :
    cellOf (d.mbxFilled box sel lo hi).regs (mbxBase box) = sel ∧
    cellOf (d.mbxFilled box sel lo hi).regs (mbxBase box + 20) = 0 ∧
    cellOf (d.mbxFilled box sel lo hi).regs (mbxBase box + 4) = lo % 2 ^ 32 ∧
    cellOf (d.mbxFilled box sel lo hi).regs (mbxBase box + 8) = lo / 2 ^ 32 % 2 ^ 32 ∧
    cellOf (d.mbxFilled box sel lo hi).regs (mbxBase box + 12) = hi % 2 ^ 32 ∧
    cellOf (d.mbxFilled box sel lo hi).regs (mbxBase box + 16) = hi / 2 ^ 32 % 2 ^ 32 := by
  have m : ∀ x : Nat, x % 2 ^ 32 % 2 ^ 128 = x % 2 ^ 32 := by intro x; omega
  unfold Dev.mbxFilled
  refine ⟨?_, ?_, ?_, ?_, ?_, ?_⟩
  · repeat rw [cellOf_putReg_ne _ _ (by omega)]
    rw [cellOf_putReg_self]; omega
  · repeat rw [cellOf_putReg_ne _ _ (by omega)]
    rw [cellOf_putReg_self]; rfl
  · repeat rw [cellOf_putReg_ne _ _ (by omega)]
    rw [cellOf_putReg_self, m]
  · repeat rw [cellOf_putReg_ne _ _ (by omega)]
    rw [cellOf_putReg_self, m]
  · repeat rw [cellOf_putReg_ne _ _ (by omega)]
    rw [cellOf_putReg_self, m]
  · rw [cellOf_putReg_self, m]

/-- A write selector other than I3C joins what waits for its strobe (R490). -/
theorem Dev.mbxWrite_waits (nv : NonVol) (d : Dev) (box : Option Nat) (sel lo hi : Nat) (h : selDir sel = some true)
    (hs : sel < 2 ^ 32) (h3 : ¬(0x300 ≤ sel ∧ sel < 0x310)) (hl : lo < 2 ^ 64) (hh : hi < 2 ^ 64) :
    d.mbxWrite nv box true sel lo hi =
      ((({ d.mbxFilled box sel lo hi with mbxPend := d.mbxPend ++ [⟨box, sel, lo, hi⟩] } : Dev).putReg (mbxBase box + 20) 1).syncPend) := by
  obtain ⟨c0, c1, c2, c3, c4, c5⟩ := d.mbxFilled_cells box sel lo hi hs
  have e1 : ∀ x : Nat, x < 2 ^ 64 → x % 2 ^ 32 + 2 ^ 32 * (x / 2 ^ 32 % 2 ^ 32) = x := by intro x hx; omega
  have e2 : (d.mbxFilled box sel lo hi).mbxPend = d.mbxPend := by simp only [Dev.mbxFilled, Dev.putReg]
  rw [Dev.mbxWrite_filled nv d box sel lo hi h]
  unfold Dev.mbxValid
  have cl : (d.mbxFilled box sel lo hi).mbxClosed box = false := by unfold Dev.mbxClosed; rw [c1]; rfl
  simp only [cl, Bool.false_eq_true, if_false, c0, h, h3, Nat.mul_zero, Nat.add_zero, c2]
  have a1 : mbxBase box + 4 + 4 * 1 = mbxBase box + 8 := by omega
  have a2 : mbxBase box + 4 + 4 * 2 = mbxBase box + 12 := by omega
  have a3 : mbxBase box + 4 + 4 * 3 = mbxBase box + 16 := by omega
  simp only [a1, a2, a3, c3, c4, c5, e1 lo hl, e1 hi hh, e2]

end Sys2Proof.Machine
end

