-- ==== Sys2Proof/Laws/Mem.lean ====
section
/-! SUPPORT. Laws of memory: a byte reads as it was written, a write reaches no other byte, and every operation keeps the
canonical form. -/

namespace Sys2Proof.Machine

/-! ### Bytes -/

theorem Mem.put_zero (m : Mem) (x : Nat) (bs : List Byte) : (m.put x bs).zero = m.zero := by
  induction bs generalizing m x with
  | nil => rfl
  | cons b r ih => exact ih _ _

@[simp] theorem Mem.put_isZero (m : Mem) (x y : Nat) (bs : List Byte) : (m.put x bs).isZero y = m.isZero y := by
  unfold Mem.isZero
  rw [Mem.put_zero]

/-- Bytes outside the written ones are as they were. -/
theorem Mem.put_byte_ne (m : Mem) {x y : Nat} (bs : List Byte) (h : y < x ∨ x + bs.length ≤ y) : (m.put x bs).byte y = m.byte y := by
  induction bs generalizing m x with
  | nil => rfl
  | cons b r ih =>
    rw [List.length_cons] at h
    have e : (m.put x (b :: r)).byte y = ({ m with cells := SMap.write 0 m.cells x b } : Mem).byte y := ih _ (by omega)
    rw [e]
    unfold Mem.byte
    simp only [SMap.read_write_ne (0 : Byte) m.cells b (show y ≠ x by omega)]
    rfl

/-- A byte that is not marked zero reads as it was written. -/
theorem Mem.put_byte (m : Mem) {x : Nat} {bs : List Byte} {i : Nat} (hi : i < bs.length) (hz : m.isZero (x + i) = false) :
    (m.put x bs).byte (x + i) = bs[i] := by
  induction bs generalizing m x i with
  | nil => exact absurd hi (by simp)
  | cons b r ih =>
    cases i with
    | zero =>
      have e : (m.put x (b :: r)).byte (x + 0) = ({ m with cells := SMap.write 0 m.cells x b } : Mem).byte (x + 0) :=
        Mem.put_byte_ne _ (x := x + 1) r (by omega)
      have hz' : ({ m with cells := SMap.write 0 m.cells x b } : Mem).isZero (x + 0) = false := hz
      rw [e]
      unfold Mem.byte
      rw [hz']
      simp
    | succ i =>
      have e : x + (i + 1) = x + 1 + i := by omega
      rw [e]
      exact ih _ (by simpa using hi) (by rw [← e]; exact hz)

/-- What was written is read back. -/
theorem Mem.put_bytes (m : Mem) (x : Nat) (bs : List Byte) (hz : ∀ i, i < bs.length → m.isZero (x + i) = false) :
    (m.put x bs).bytes x bs.length = bs := by
  apply List.ext_getElem
  · simp [Mem.bytes]
  · intro i h1 h2
    simp only [Mem.bytes, List.getElem_map, List.getElem_range]
    exact Mem.put_byte m h2 (hz i h2)

/-! ### The zero mark (R120) -/

/-- The mark of a block leaves it and no other block. -/
theorem dropBlock_covers (l : List (Nat × Nat)) (b c : Nat) :
    (dropBlock l b).any (fun r => decide (r.1 ≤ c ∧ c < r.1 + r.2)) =
      (decide (c ≠ b) && l.any (fun r => decide (r.1 ≤ c ∧ c < r.1 + r.2))) := by
  unfold dropBlock
  rw [List.any_flatMap]
  rw [Bool.eq_iff_iff]
  simp only [List.any_eq_true, Bool.and_eq_true, decide_eq_true_eq]
  constructor
  · rintro ⟨r, hr, p, hp, h1, h2⟩
    split at hp
    · rename_i hb
      rcases List.mem_append.1 hp with hp | hp <;> split at hp <;> simp at hp <;> subst hp <;> simp only at h1 h2
      · exact ⟨by omega, r, hr, by omega, by omega⟩
      · exact ⟨by omega, r, hr, by omega, by omega⟩
    · rename_i hb
      have e : p = r := by simpa using hp
      subst e
      exact ⟨fun e => hb ⟨by omega, by omega⟩, p, hr, h1, h2⟩
  · rintro ⟨hc, r, hr, h1, h2⟩
    refine ⟨r, hr, ?_⟩
    by_cases hb : r.1 ≤ b ∧ b < r.1 + r.2
    · rw [if_pos hb]
      by_cases hlt : c < b
      · refine ⟨(r.1, b - r.1), List.mem_append.2 (.inl ?_), ?_, ?_⟩
        · rw [if_pos (by omega)]; simp
        · exact h1
        · simp only; omega
      · refine ⟨(b + 1, r.1 + r.2 - (b + 1)), List.mem_append.2 (.inr ?_), ?_, ?_⟩
        · rw [if_pos (by omega)]; simp
        · simp only; omega
        · simp only; omega
    · rw [if_neg hb]
      exact ⟨r, List.mem_singleton.2 rfl, h1, h2⟩

/-- A byte outside what is wiped is as it was. -/
theorem Mem.wipe_read (m : Mem) {x n y : Nat} (h : ¬ (x ≤ y ∧ y < x + n)) : SMap.read 0 (m.wipe x n).cells y = SMap.read 0 m.cells y := by
  unfold Mem.wipe
  simp only
  generalize m.cells = l
  induction l with
  | nil => rfl
  | cons p r ih =>
    rw [List.filter_cons]
    by_cases e : p.1 = y
    · subst e; rw [if_pos (by simp only [h, decide_false, Bool.not_false])]; simp only [SMap.read, if_true]
    · split <;> simp only [SMap.read, e, if_false, ih]

/-- A wiped byte reads zero. -/
theorem Mem.wipe_read_in (m : Mem) {x n y : Nat} (h : x ≤ y ∧ y < x + n) : SMap.read 0 (m.wipe x n).cells y = 0 := by
  unfold Mem.wipe
  simp only
  generalize m.cells = l
  induction l with
  | nil => rfl
  | cons p r ih =>
    rw [List.filter_cons]
    by_cases e : p.1 = y
    · subst e; rw [if_neg (by simp [h])]; exact ih
    · split
      · simp only [SMap.read, e, if_false, ih]
      · exact ih

/-- R120: the first write to a marked block takes the mark from it and leaves every byte as it reads. -/
theorem Mem.touch_isZero (m : Mem) (x y : Nat) (h : m.isZero x = true) :
    (m.touch x).isZero y = (decide (y / 65536 ≠ x / 65536) && m.isZero y) := by
  unfold Mem.touch
  rw [if_pos h]
  exact dropBlock_covers _ _ _

theorem Mem.touch_byte (m : Mem) (x y : Nat) : (m.touch x).byte y = m.byte y := by
  by_cases h : m.isZero x = true
  · unfold Mem.byte
    rw [Mem.touch_isZero m x y h]
    by_cases e : y / 65536 = x / 65536
    · have hz : m.isZero y = true := by unfold Mem.isZero at h ⊢; rw [e]; exact h
      have hc : SMap.read 0 (m.touch x).cells y = 0 := by
        unfold Mem.touch
        rw [if_pos h]
        exact Mem.wipe_read_in m (by omega)
      rw [hc, if_pos hz]
      split <;> rfl
    · have hc : SMap.read 0 (m.touch x).cells y = SMap.read 0 m.cells y := by
        unfold Mem.touch
        rw [if_pos h]
        exact Mem.wipe_read m (by omega)
      simp only [ne_eq, e, not_false_eq_true, decide_true, Bool.true_and, hc]
  · unfold Mem.touch
    rw [if_neg h]

/-! ### The canonical form -/

theorem Mem.put_wf {m : Mem} (x : Nat) (bs : List Byte) (h : m.wf = true) : (m.put x bs).wf = true := by
  induction bs generalizing m x with
  | nil => exact h
  | cons b r ih => exact ih _ (SMap.canonical_write _ _ h)

theorem Mem.wipe_wf {m : Mem} (x n : Nat) (h : m.wf = true) : (m.wipe x n).wf = true := by
  unfold Mem.wf Mem.wipe SMap.canonical at *
  simp only [Bool.and_eq_true, List.all_eq_true] at h ⊢
  exact ⟨SMap.risingFrom_filter _ h.1, fun p hp => h.2 p (List.mem_filter.1 hp).1⟩

theorem Mem.touch_wf {m : Mem} (x : Nat) (h : m.wf = true) : (m.touch x).wf = true := by
  unfold Mem.touch
  split
  · exact Mem.wipe_wf _ _ h
  · exact h

theorem Mem.setPoison_wf {m : Mem} (g : Nat) (v : Bool) (h : m.wf = true) : (m.setPoison g v).wf = true := h

theorem Mem.setUpset_wf {m : Mem} (g : Nat) (u : Upset) (h : m.wf = true) : (m.setUpset g u).wf = true := h

end Sys2Proof.Machine
end

