-- ==== Sys2Proof/Laws/NonVol.lean ====
section
/-! SUPPORT. What an operation may do to the survivors of POR_N (R468, R474, R527): their tables keep the canonical form, a
blown fuse bit stays blown, the spare map only grows, and no count goes back. -/

namespace Sys2Proof.Machine

/-- `b` is what `a` may become. -/
def NonVol.Grows (a b : NonVol) : Prop :=
  (SMap.canonical 0 a.fuses = true → SMap.canonical 0 b.fuses = true) ∧ (SMap.canonical [] a.annals = true → SMap.canonical [] b.annals = true) ∧
  (SMap.canonical 0 a.annSeq = true → SMap.canonical 0 b.annSeq = true) ∧
  (∀ w k, ((SMap.read 0 a.fuses w).getLsbD k) = true → ((SMap.read 0 b.fuses w).getLsbD k) = true) ∧
  (∃ l, b.spareMap = a.spareMap ++ l) ∧ a.fuseRows ≤ b.fuseRows ∧ (∀ c, a.annCount c ≤ b.annCount c)

theorem NonVol.Grows.rfl {a : NonVol} : a.Grows a := ⟨id, id, id, fun _ _ h => h, ⟨[], by simp⟩, Nat.le_refl _, fun _ => Nat.le_refl _⟩

theorem NonVol.Grows.trans {a b c : NonVol} (h : a.Grows b) (g : b.Grows c) : a.Grows c := by
  obtain ⟨h1, h6, h7, h2, ⟨l, h3⟩, h4, h5⟩ := h
  obtain ⟨g1, g6, g7, g2, ⟨m, g3⟩, g4, g5⟩ := g
  exact ⟨g1 ∘ h1, g6 ∘ h6, g7 ∘ h7, fun w k x => g2 w k (h2 w k x), ⟨l ++ m, by rw [g3, h3, List.append_assoc]⟩, h4.trans g4, fun c => (h5 c).trans (g5 c)⟩

theorem grows_spare (nv : NonVol) (l) : nv.Grows { nv with spareMap := nv.spareMap ++ l } :=
  ⟨id, id, id, fun _ _ h => h, ⟨l, rfl⟩, Nat.le_refl _, fun _ => Nat.le_refl _⟩

theorem grows_boots (nv : NonVol) (n) : nv.Grows { nv with boots := n } :=
  ⟨id, id, id, fun _ _ h => h, ⟨[], by simp⟩, Nat.le_refl _, fun _ => Nat.le_refl _⟩

theorem grows_fuse (nv : NonVol) (w n r : Nat) (h : nv.fuseRows ≤ r) (hb : ∀ k, (SMap.read 0 nv.fuses w).getLsbD k = true → n.testBit k = true) :
    nv.Grows { nv with fuses := SMap.write 0 nv.fuses w (BitVec.ofNat 32 n), fuseRows := r } := by
  refine ⟨SMap.canonical_write _ _, id, id, ?_, ⟨[], by simp⟩, h, fun _ => Nat.le_refl _⟩
  · intro v k hk
    by_cases e : v = w
    · subst e
      have := hb k hk
      have hk2 : k < 32 := BitVec.lt_of_getLsbD hk
      simp only [SMap.read_write_self, BitVec.getLsbD_ofNat, this, hk2, decide_true, Bool.and_self]
    · simp only [SMap.read_write_ne _ _ _ e]; exact hk

theorem grows_record (nv : NonVol) (c off : Nat) (b) : nv.Grows (nv.putRecord c off b) := by
  refine ⟨id, fun h => ?_, fun h => ?_, fun _ _ h => h, ⟨[], by simp [NonVol.putRecord]⟩, Nat.le_refl _, ?_⟩
  · exact SMap.canonical_write off b h
  · exact SMap.canonical_write c (nv.annCount c + 1) h
  · intro x
    by_cases e : x = c
    · subst e; simp [NonVol.annCount, NonVol.putRecord]
    · simp [NonVol.annCount, NonVol.putRecord, SMap.read_write_ne _ _ _ e]

theorem grows_write (nv : NonVol) (d r) : nv.Grows (writeRecord nv d r).1 := by
  simp only [writeRecord]
  split
  · exact (grows_record ..).trans (grows_record ..)
  · exact grows_record ..

theorem grows_next (nv : NonVol) (d) : nv.Grows (writeNext nv d).1 := by
  unfold writeNext
  repeat' split
  · exact .rfl
  · exact grows_write ..
  · exact .rfl

theorem grows_final (nv : NonVol) (d) : nv.Grows (finalRecord nv d).1 := by
  unfold finalRecord
  split
  · exact grows_write ..
  · exact .rfl

theorem fuse_bit (nv : NonVol) (w k : Nat) (h : (SMap.read 0 nv.fuses w).getLsbD k = true) : (nv.fuseNow w).testBit k = true := h

theorem grows_reset (nv : NonVol) (d) : nv.Grows (resetAll nv d).1 := by
  simp only [resetAll]
  split
  · exact grows_fuse _ _ _ _ (Nat.le_refl _) (fun k h => by
      have h := fuse_bit _ _ _ h
      rw [show (Nat.lor (nv.fuseNow _) _).testBit k = ((nv.fuseNow _) ||| _).testBit k from rfl, Nat.testBit_or, h, Bool.true_or])
  · exact .rfl

theorem grows_release (nv : NonVol) (d b) : nv.Grows (release nv d b).1 := grows_boots nv _

theorem grows_prog (nv : NonVol) (d readback) : nv.Grows (programDone nv d readback).1 := by
  have key : ∀ (w : Nat) (v rows : Nat) , nv.fuseRows ≤ rows → (∀ k, (SMap.read 0 nv.fuses w).getLsbD k = true → v.testBit k = true) →
     nv.Grows { nv with fuses := SMap.write 0 nv.fuses w (BitVec.ofNat 32 v), fuseRows := rows } := fun w v rows h g => grows_fuse _ _ _ _ h g
  unfold programDone
  split
  · exact .rfl
  · rename_i w data _
    simp only []
    split <;> refine key _ _ _ (by omega) (fun k h => ?_)
    all_goals have h := fuse_bit _ _ _ h
    all_goals first
      | rw [show (Nat.lor readback (nv.fuseNow w)).testBit k = (readback ||| (nv.fuseNow w)).testBit k from rfl, Nat.testBit_or, h, Bool.or_true]
      | rw [show (Nat.lor (nv.fuseNow w) data).testBit k = ((nv.fuseNow w) ||| data).testBit k from rfl, Nat.testBit_or, h, Bool.true_or]

theorem grows_retire (nv : NonVol) (d a b c) : nv.Grows (retire nv d a b c).1 := grows_spare nv _

theorem grows_hard (nv : NonVol) (d i) : nv.Grows (hardFault nv d i).1 := by
  unfold hardFault
  split
  · exact .rfl
  · simp only []
    repeat' split
    all_goals first | exact .rfl | exact grows_retire ..

theorem grows_foldl {α : Type} (f : NonVol × Dev → α → NonVol × Dev) (h : ∀ (x : NonVol × Dev) a, x.1.Grows (f x a).1) (l : List α) (x : NonVol × Dev) : x.1.Grows (l.foldl f x).1 := by
  induction l generalizing x with
  | nil => exact .rfl
  | cons a l ih => exact (h x a).trans (ih _)

theorem grows_hards (nv : NonVol) (d is) : nv.Grows (hardFaults nv d is).1 := grows_foldl _ (fun _ _ => grows_hard ..) is (nv, d)

theorem grows_domain (nv : NonVol) (d n f) : nv.Grows (domainUp nv d n f).1 := by
  unfold domainUp
  split
  · exact grows_hards ..
  · exact .rfl

theorem grows_trans (nv : NonVol) (d i) : nv.Grows (transient nv d i).1 := by
  simp only [transient]
  split
  · exact grows_hard ..
  · exact .rfl

theorem grows_test (nv : NonVol) (d p f r) : nv.Grows (selfTest nv d p f r).1 := by
  simp only [selfTest]
  exact grows_foldl _ (fun _ _ => by split; exact grows_hard ..; exact grows_trans ..) _ (nv, _)

theorem grows_below (nv : NonVol) (d i) : nv.Grows (belowForLong nv d i).1 := by
  unfold belowForLong
  repeat' split
  all_goals simp only []
  all_goals first | exact grows_hard .. | exact .rfl

theorem grows_eclipse (nv : NonVol) (d p) : nv.Grows (eclipseStep nv d p).1 := by
  unfold eclipseStep
  repeat' split
  · exact .rfl
  · unfold eclipseEmpty; simp only []; split
    · exact .rfl
    · exact .rfl
    · exact grows_retire ..
  · exact grows_spare nv _
  · exact .rfl
  · exact .rfl

end Sys2Proof.Machine
end

