-- ==== Sys2Proof/Laws/Rows.lean ====
section
/-! SUPPORT. What the common forms of a command's meaning do, once: the queue is never touched, only the two-sided form
reaches what survives POR_N, and a sequencer row runs the next instruction of its stream. -/

namespace Sys2Proof.Machine

theorem onDev_next {ok : Bool} {f : NonVol → Dev → Dev} {s t : State} (h : onDev ok f s = .next t) :
    ok = true ∧ t = { s with dev := f s.nv s.dev } := by
  unfold onDev at h
  split at h
  · cases h
    exact ⟨by assumption, rfl⟩
  · cases h

theorem onDev_ok {ok : Bool} {f : NonVol → Dev → Dev} {s : State} (h : ok = true) :
    onDev ok f s = .next { s with dev := f s.nv s.dev } := by
  simp [onDev, h]

theorem onBoth_next {ok : Bool} {f : NonVol × Dev → NonVol × Dev} {s t : State} (h : onBoth ok f s = .next t) :
    ok = true ∧ t = { s with nv := (f (s.nv, s.dev)).1, dev := (f (s.nv, s.dev)).2 } := by
  unfold onBoth at h
  split at h
  · cases h
    exact ⟨by assumption, rfl⟩
  · cases h

theorem onBoth_ok {ok : Bool} {f : NonVol × Dev → NonVol × Dev} {s : State} (h : ok = true) :
    onBoth ok f s = .next { s with nv := (f (s.nv, s.dev)).1, dev := (f (s.nv, s.dev)).2 } := by
  simp [onBoth, h]

theorem onDev_keeps {ok : Bool} {f : NonVol → Dev → Dev} {s t : State} (h : onDev ok f s = .next t) :
    t.pending = s.pending ∧ t.nv = s.nv := by
  obtain ⟨-, rfl⟩ := onDev_next h
  exact ⟨rfl, rfl⟩

theorem onBoth_keeps {ok : Bool} {f : NonVol × Dev → NonVol × Dev} {s t : State} (h : onBoth ok f s = .next t) :
    t.pending = s.pending := by
  obtain ⟨-, rfl⟩ := onBoth_next h
  rfl

theorem mbxRow_keeps {m : Mbx} {ok : Bool} {f : NonVol → Dev → Dev} {s t : State} (h : mbxRow m ok f s = .next t) :
    t.pending = s.pending ∧ t.nv = s.nv := onDev_keeps h

theorem mbxReadRow_keeps {m : Mbx} {ok : Bool} {sel : Nat} {s t : State} (h : mbxReadRow m ok sel s = .next t) :
    t.pending = s.pending ∧ t.nv = s.nv := mbxRow_keeps h

theorem mbxWriteRow_keeps {m : Mbx} {ok : Bool} {sel lo hi : Nat} {s t : State} (h : mbxWriteRow m ok sel lo hi s = .next t) :
    t.pending = s.pending ∧ t.nv = s.nv := mbxRow_keeps h

theorem seqRow_keeps {a q op : Nat} {f : Ins → Dev → Dev} {s t : State} (h : seqRow a q op f s = .next t) :
    t.pending = s.pending ∧ t.nv = s.nv := onDev_keeps h

theorem seqSet_keeps {a q op : Nat} {v : Ins → Int} {s t : State} (h : seqSet a q op v s = .next t) :
    t.pending = s.pending ∧ t.nv = s.nv := seqRow_keeps h

/-- R373, R374, R376, R380: an unblocked stream on unfenced units issues its next instruction, whose opcode is the row's and
whose registers no outstanding operation touches. -/
theorem issue_runs (d : Dev) {a q op : Nat} (f : Ins → Dev → Dev) {r : Run} {st : Stream} {e : Dev} {i : Ins}
    (h : d.current a q = some (r, st)) (hb : st.blocked = false) (hs : d.isFenced 8 (140 + a) = false)
    (hv : (isVxu op && d.isFenced 8 (136 + a)) = false) (hf : (d.beginStep r st).fetchIns r st = (e, some i)) (ho : iOp i.w = op)
    (hh : i.regHazard = false) : d.issue a q op f = f i e := by
  unfold Dev.issue
  simp [h, hb, hs, hv, hf, ho, hh]

end Sys2Proof.Machine
end

