-- ==== Sys2Proof/Tests/Slice0.lean ====
section
/-! SUPPORT. A witness for the hypotheses of every statement, ill-formed commands, and tests of the spec's worked examples. -/

namespace Sys2Proof.Tests

set_option linter.all false
set_option Elab.async false

open Sys2Proof Sys2Proof.Machine

/-! ### States -/

/-- A device whose supplies are up and whose host link is up. -/
def up : Dev := { Dev.reset with pwr := { Pwr.reset with porN := true, linkUp := true, state := .active, supplies := List.replicate 6 true } }

def st (d : Dev) : State := ⟨[], NonVol.reset, d⟩

theorem okOf {α β γ : Type} {x : α × Except β γ} (h : x.2.toBool = true) :
    ∃ e b, x = (e, .ok b) := by
  obtain ⟨e, r⟩ := x
  cases r with
  | ok b => exact ⟨e, b, rfl⟩
  | error _ => cases h

theorem okIs {α β γ : Type} [DecidableEq β] {x : α × Except γ β} {b : β} (h : (match x.2 with | .ok c => decide (c = b) | .error _ => false) = true) :
    x = (x.1, .ok b) := by
  obtain ⟨e, r⟩ := x
  cases r with
  | ok c => have : c = b := by simpa using h
            rw [this]
  | error _ => cases h

theorem okVal {β γ : Type} {x : Except γ β} (h : x.toBool = true) : ∃ b, x = .ok b := by
  cases x with
  | ok b => exact ⟨b, rfl⟩
  | error _ => cases h

theorem errVal {β γ : Type} {x : Except γ β} (h : x.toBool = false) : ∃ b, x = .error b := by
  cases x with
  | ok b => cases h
  | error e => exact ⟨e, rfl⟩

theorem noneOf {α β : Type} {x : α × Option β} (h : x.2.isNone = true) : ∃ e, x = (e, none) := by
  obtain ⟨e, r⟩ := x
  cases r with
  | none => exact ⟨e, rfl⟩
  | some _ => cases h

theorem someOf {α : Type} {x : Option α} (h : x.isSome = true) : ∃ a, x = some a := Option.isSome_iff_exists.1 h

/-! ### Witnesses: the queue, survivors, contexts -/

theorem witness_StepTakesFrontCommand : State.reset.pending = [] ∧ State.reset.dev.pwr.porN = false := by decide

theorem witness_CommandsKeepQueueAndSurvivors :
    Instr.changesNonVol .getInfo = false ∧ ∃ t, exec .getInfo (st up) = .next t := ⟨rfl, _, rfl⟩

theorem witness_StepsKeepSurvivorsCanonical : State.reset.nv.canonical = true ∧ ∃ t, step State.reset = .next t :=
  ⟨by decide, _, rfl⟩

/-- A device with a blown fuse bit. -/
def blown : State := { st up with pending := [.annalsRecordWrite], nv := { NonVol.reset with fuses := [(3, 5)] } }

theorem witness_SurvivorsOnlyGrow : (SMap.read 0 blown.nv.fuses 3).getLsbD 2 = true ∧ ∃ t, step blown = .next t :=
  ⟨by decide, _, rfl⟩

theorem witness_ResetLeavesResetValues : (st up).dev.pwr.prog = none := by decide

theorem witness_UnwrapRecovers :
    (5 < 2 ^ 32 ∧ 2 ^ 31 - 1 < 2 ^ 32 ∧ (2 ^ 33 + 6 - 2 ^ 31 + (2 ^ 31 - 1)) % 2 ^ 32 = 5) ∧
    (5 < 2 ^ 32 ∧ 2 ^ 31 < 2 ^ 32 ∧ (2 ^ 31 + 5 + 2 ^ 31) % 2 ^ 32 = 5) ∧
    bitOf (dFlags (List.replicate 64 2)) 1 = true := by decide

/-- Context 1 with a pending descriptor, and the boot over. -/
def queued : Dev := { up with ctxs := [(1, { Ctx.reset with enabled := true, sqTail := 1 })] }.set R.PWR_STAT.BOOT_STEP 0 0 8

theorem witness_FetchErrorStopsFetching : 1 < 2048 ∧ (st queued).dev.fetchTurn 1 = true ∧
    (PcieReply.unsupported = .unsupported ∨ PcieReply.unsupported = .aborted ∨ PcieReply.unsupported = .poisoned ∨
      PcieReply.unsupported = .timeout) := by decide

/-- Context 1 with unsignalled records. -/
def unsignalled : Dev :=
  ((({ up with now := 5000, ctxs := [(1, { Ctx.reset with enabled := true, sinceIrq := 1, firstAt := 4000 })] } : Dev).set
    R.CTX_MSIX.IRQ_EN 1 0 1).set R.CTX_MSIX.TIMER 1 0 1)

theorem witness_QueueDoorbellsAct :
    (1 < 2048 ∧ queued.hostUp = true ∧ (queued.ctx 1).enabled = true ∧ (queued.ctx 1).aborting = none ∧
      63 < 2 ^ (queued.ctx 1).sqLog ∧ 63 < 2 ^ (queued.ctx 1).cqLog ∧ 2 ^ (queued.ctx 1).sqLog ≤ 64 ∧ 2 ^ (queued.ctx 1).cqLog ≤ 64) ∧
    ((8 : Nat) < 4096 ∧ ((4 : Nat) ≠ 4 ∨ (8 : Nat) ≠ 0 ∧ (8 : Nat) ≠ 4)) ∧ (queued.ctx 2).enabled = false ∧
    (unsignalled.bit R.CTX_MSIX.IRQ_EN 1 0 = true ∧ unsignalled.get R.CTX_MSIX.TIMER 1 0 ≠ 0 ∧ 0 < (unsignalled.ctx 1).sinceIrq ∧
      (unsignalled.ctx 1).firstAt + 1000 * unsignalled.get R.CTX_MSIX.TIMER 1 0 ≤ unsignalled.now) := by decide

/-! ### Witnesses: descriptors, aborts, purges, resets of the host -/

/-- A descriptor: opcode, workbook handle, ARG0 to ARG3, LEN. -/
def desc (opc h a0 a1 a2 a3 len : Nat) : List Byte :=
  leBytes 4 opc ++ leBytes 4 1 ++ leBytes 4 h ++ leBytes 4 0 ++ leBytes 8 a0 ++ leBytes 8 a1 ++ leBytes 8 a2 ++ leBytes 8 a3 ++
    leBytes 8 0 ++ leBytes 4 len ++ leBytes 4 0

def job (n cls : Nat) : Job := ⟨n, cls, false, [], [], [], [], []⟩

def alm : AlmRec := ⟨1000000, 500000, 900000, 100000, 0, 0, false, [], 0⟩

/-- A workbook with one job of each class that aperiodic opcodes name. -/
def wb0 : Wb :=
  { slot := 0, gen := 1, part := 0, ctx := some 1, flags := 0, orbit := 0, phases := 0, code := [], place := [], plans := [],
    almanac := [alm], costs := [], jobs := [job 0 0, job 1 1, job 2 2, { job 3 3 with solves := [leBytes 16 0 ++ leBytes 48 4] }, job 4 4, job 5 5],
    franges := [], trees := [], wins := [], calib := [] }

/-- A device after its boot, with a loaded workbook and an enabled context. -/
def ready : Dev :=
  ((({ up with ctxs := [(1, { Ctx.reset with enabled := true, sqTail := 1 })], wbs := [wb0] } : Dev).set R.PWR_STAT.BOOT_STEP 0 0 8).set
    R.TB_CFG.EN 0 0 1).set R.CTX_CTRL.ATTACH_EN 1 0 1

/-- The same with all of it in the safety partition. -/
def readySafe : Dev := ready.set R.FUS_WORD.VALUE 3 0 8

theorem witness_FetchTakesDescriptor :
    (1 < 2048 ∧ ready.fetchTurn 1 = true ∧ ready.validate 1 (slice (desc 0x10 0x100 0 0 0 0 0) 0 64) = none ∧
      ready.safeStop 0 (dOpc (slice (desc 0x10 0x100 0 0 0 0 0) 0 64)) = false) ∧
    ((readySafe.set R.SAF_STATUS.SAFE 0 0 1).fetchTurn 1 = true ∧
      (readySafe.set R.SAF_STATUS.SAFE 0 0 1).validate 1 (slice (desc 0x10 0x100 0 0 0 0 0) 0 64) = none ∧
      (readySafe.set R.SAF_STATUS.SAFE 0 0 1).safeStop 0 (dOpc (slice (desc 0x10 0x100 0 0 0 0 0) 0 64)) = true) ∧
    ready.validate 1 (slice (desc 0x99 0 0 0 0 0 0) 0 64) = some (0x13, 3) := by decide +kernel

theorem witness_AbortsAndPurgesAct :
    (2047 < 2048 ∧ ready.hostUp = true ∧ ready.wakeIdle.ctxPart 2047 = some 0 ∧ ready.wakeIdle.isSafe 0 = false) ∧
    (readySafe.hostUp = true ∧ readySafe.wakeIdle.ctxPart 1 = some 0 ∧ readySafe.wakeIdle.isSafe 0 = true) ∧
    ((({ ready with ctxs := [(1, { Ctx.reset with aborting := some 1 })] } : Dev).ctx 1).aborting = some 1 ∧ (1 : Nat) ≠ 5) ∧
    (0 < ready.wakeIdle.parts) ∧ bitOf ((ready.set R.GLB_PURGE_STAT.BUSY 0 0 0x8000).get R.GLB_PURGE_STAT.BUSY 0 0) 15 = true ∧
    (ready.set R.GLB_PURGE_STAT.DEV_BUSY 0 0 1).bit R.GLB_PURGE_STAT.DEV_BUSY 0 0 = true := by decide

/-- A context of PF0 that is orphaned. -/
def orphan : Dev := { ready with ctxs := [(1, { Ctx.reset with aborting := some 5 })] }.set R.CTX_FUNC.VALID 1 0 1

theorem witness_HostResetsAct : (31 < 32 ∧ ready.hostUp = true) ∧ ready.pwr.porN = true ∧
    (∃ c ∈ orphan.fnCtxs 0, orphan.orphaned c = true) ∧ ({ ready with pwr := { ready.pwr with linkUp := false } } : Dev).pcieReady = true := by
  decide +kernel

/-! ### Witnesses: workbooks and requests -/

def req (b : List Byte) : Req :=
  { id := 7, ctx := 1, part := 0, desc := b, st := .fetched, admNo := 0, rel := 0, prom := 0, win := none, deadline := none, work := [] }

def asked (b : List Byte) : Dev := { ready with reqs := [req b], nextId := 8 }

/-- The smallest workbook image: empty DATA and FLAGS sections. -/
def image : List Byte :=
  [78, 82, 87, 66, 2, 0, 1] ++ List.replicate 7 0 ++ [2, 0, 128] ++ List.replicate 47 0 ++
    (leBytes 8 10 ++ leBytes 4 128 ++ leBytes 4 0) ++ (leBytes 8 7 ++ leBytes 4 128 ++ leBytes 4 0) ++ List.replicate 32 0

def loading : Dev := let d := asked (desc 1 0 0x800000000 0 0 0 128); { d with mem := d.mem.put 0x800000000 image }


theorem witness_WorkbooksComeAndGo :
    (∃ d1 d2 w, loading.fetched 7 1 = some (req (desc 1 0 0x800000000 0 0 0 128)) ∧
      loading.loadFirst (req (desc 1 0 0x800000000 0 0 0 128)) = true ∧ loading.imageReach (req (desc 1 0 0x800000000 0 0 0 128)) = true ∧
      loading.pwr.halt = false ∧ loading.pwr.fusing = false ∧
      loading.readImage (req (desc 1 0 0x800000000 0 0 0 128)) [] = (d1, .ok image) ∧
      d1.checkImage image 128 0 (some 1) false = .ok w ∧ (d1.needs w).filter (fun n => !d1.domainOn n) = [] ∧
      d1.readImage (req (desc 1 0 0x800000000 0 0 0 128)) [] = (d2, .ok image)) ∧
    ((asked (desc 2 0x100 0 0 0 0 0)).fetched 7 2 = some (req (desc 2 0x100 0 0 0 0 0)) ∧
      (asked (desc 2 0x100 0 0 0 0 0)).wbBusy 0 = false) ∧
    ∃ e, ({ asked (desc 0x11 0 0 3 0 0 0) with cal := { Cal.reset with entries := [e] } } : Dev).fetched 7 0x11 =
        some (req (desc 0x11 0 0 3 0 0 0)) ∧
      ({ asked (desc 0x11 0 0 3 0 0 0) with cal := { Cal.reset with entries := [e] } } : Dev).entry 3 = some e ∧ e.ctx = some 1 := by
  refine ⟨?_, by decide +kernel, ?_⟩
  · obtain ⟨w, hw⟩ := okVal (x := (loading.readImage (req (desc 1 0 0x800000000 0 0 0 128)) []).1.checkImage image 128 0 (some 1) false)
      (by decide +kernel)
    have hn : ∀ w', (loading.readImage (req (desc 1 0 0x800000000 0 0 0 128)) []).1.checkImage image 128 0 (some 1) false = .ok w' →
        ((loading.readImage (req (desc 1 0 0x800000000 0 0 0 128)) []).1.needs w').filter
          (fun n => !(loading.readImage (req (desc 1 0 0x800000000 0 0 0 128)) []).1.domainOn n) = [] := by
      have h : (match (loading.readImage (req (desc 1 0 0x800000000 0 0 0 128)) []).1.checkImage image 128 0 (some 1) false with
        | .ok w' => decide (((loading.readImage (req (desc 1 0 0x800000000 0 0 0 128)) []).1.needs w').filter
          (fun n => !(loading.readImage (req (desc 1 0 0x800000000 0 0 0 128)) []).1.domainOn n) = [])
        | .error _ => true) = true := by decide +kernel
      intro w' e
      rw [e] at h
      exact of_decide_eq_true h
    exact ⟨_, _, w, by decide +kernel, by decide +kernel, by decide +kernel, by decide +kernel, by decide +kernel, okIs (by decide +kernel), hw, hn w hw, okIs (by decide +kernel)⟩
  · exact ⟨{ ready.newEntry wb0 alm 3 (some 1) 0 none with slot := 3 }, by decide +kernel⟩

/-- An entry of the almanac in slot 3, of context 1. -/
def entry3 : Entry := { ready.newEntry wb0 alm 3 (some 1) 0 none with slot := 3 }

theorem witness_EntriesReleaseOnTheirPhase :
    ∃ e0, (asked (desc 0x10 0x100 0 0 0 0 0)).fetched 7 0x10 = some (req (desc 0x10 0x100 0 0 0 0 0)) ∧
      (asked (desc 0x10 0x100 0 0 0 0 0)).wb 0 = some wb0 ∧ 0 < wb0.almanac.length ∧
      ((asked (desc 0x10 0x100 0 0 0 0 0)).channelOf 0 0).map (·.2) ≠ some 1 ∧ 0 < ((asked (desc 0x10 0x100 0 0 0 0 0)).pcal 0).orbit ∧
      wb0.orbit = 0 ∧ (asked (desc 0x10 0x100 0 0 0 0 0)).admitFails 0
        ((asked (desc 0x10 0x100 0 0 0 0 0)).candidates wb0 0 (some 1) 1) = none ∧
      ((asked (desc 0x10 0x100 0 0 0 0 0)).candidates wb0 0 (some 1) 1).head? = some e0 :=
  ⟨_, by decide +kernel, by decide +kernel, by decide +kernel, by decide +kernel, by decide +kernel, by decide +kernel,
    by decide +kernel, rfl⟩

/-- A track that has been admitted. -/
def track0 : Track :=
  { num := 0, wb := 0, part := 0, blk := [], srcs := [], chain := [], defl := [], admitted := true, tb := 0, ctx := some 1, state := 0,
    nom := [], cov := [], delta := [], dvar := [], grid := 0, steps := 0, hist := [], corrs := [], lastPass := 0, bounds := [],
    cometOff := false, frames := [] }

/-- An index of KIND 0 with ID 9, its root and arena in T1. -/
def idx0 : Idx :=
  { slot := 0, wb := 0, part := 0
    blk := [0, 1, 1, 0] ++ leBytes 4 9 ++ leBytes 2 2 ++ leBytes 2 1 ++ leBytes 4 8 ++ leBytes 4 2 ++ leBytes 2 4 ++ leBytes 2 4 ++
      leBytes 8 0 ++ leBytes 8 0x10010000 ++ leBytes 8 0x10020000 ++ leBytes 8 0x10000 ++ leBytes 8 0x10030000 ++ leBytes 64 0
    epoch := 1, retired := 1, before := [], ins := [], del := [], gone := [], rebuild := none, full := [], remote := [] }

def qheader : List Byte := [1, 0, 0, 1, 1, 0, 1, 0, 0, 0, 1] ++ List.replicate 21 0

def admits (d : Dev) (r : Req) (opc : Nat) : Bool :=
  decide (d.fetched 7 opc = some r) && d.aperTurn r &&
    (d.admitAper { r with rel := d.releaseOf r }).toBool

def runB : List Byte := desc 0x12 0x100 0x10000000 0 0x10001000 1 64
def copyB : List Byte := desc 0x20 0x100 0x10000000 0x10001000 0 2 64
def solveB : List Byte := desc 0x30 0x100 0x10000000 4 0x10001000 3 0
def windowB : List Byte := desc 0x60 0x100 0 0xFF00 0x10001000 5 0
def searchB : List Byte := desc 0x40 0x100 0x10000000 9 0x10001000 4 64

def windowR : Req := { req windowB with win := some (0, 0) }

def windowDev : Dev := { asked windowB with reqs := [windowR], tracks := [track0] }

/-- A SEARCH line of job 4 for the index, and a query block in memory. -/
def searchDev : Dev :=
  let d := asked searchB
  { d with
    idxs := [idx0]
    wbs := [{ wb0 with jobs := [{ job 4 4 with searches := [[0, 0, 0, 0, 1] ++ leBytes 7 0 ++ leBytes 4 9] }] }]
    mem := d.mem.put 0x10000000 qheader }

/-- A RUN whose deadline has passed. -/
def lateRun : Dev :=
  { asked runB with reqs := [{ req runB with deadline := some 0 }], tim := { Tim.reset with tbs := List.replicate 4 { Tb.reset with val := 5 } } }

theorem admitsOf {d : Dev} {r : Req} {opc : Nat} (h : admits d r opc = true) :
    d.fetched 7 opc = some r ∧ d.aperTurn r = true ∧ ∃ t, d.admitAper { r with rel := d.releaseOf r } = .ok t := by
  simp only [admits, Bool.and_eq_true, decide_eq_true_eq] at h
  exact ⟨h.1.1, h.1.2, okVal h.2⟩

theorem witness_AperiodicAdmitted :
    (((asked runB).fetched 7 0x12 = some (req runB) ∧ (asked runB).aperTurn (req runB) = true ∧
        ∃ t, (asked runB).admitAper { req runB with rel := (asked runB).releaseOf (req runB) } = .ok t) ∧
      (asked runB).inReach 0 (some 1) 0x10000000 64 false = true ∧ (asked runB).inReach 0 (some 1) 0x10001000 1 true = true) ∧
    (((asked copyB).fetched 7 0x20 = some (req copyB) ∧ (asked copyB).aperTurn (req copyB) = true ∧
        ∃ t, (asked copyB).admitAper { req copyB with rel := (asked copyB).releaseOf (req copyB) } = .ok t) ∧
      dArg2 copyB = 0 ∧ (asked copyB).moverBad 0 (some 1) (linearCopy 0x10000000 0x10001000 64) = none) ∧
    (((asked solveB).fetched 7 0x30 = some (req solveB) ∧ (asked solveB).aperTurn (req solveB) = true ∧
        ∃ t, (asked solveB).admitAper { req solveB with rel := (asked solveB).releaseOf (req solveB) } = .ok t) ∧
      dArg1 solveB ≠ 0 ∧ dArg1 solveB ≤ 65535 ∧ dArg0 solveB % 64 = 0 ∧
      dArg1 solveB ≤ sumBy (fun l => fieldAt l 16 2) ((((asked solveB).jobOf 0 3).map (·.solves)).getD []) ∧
      (asked solveB).inReach 0 (some 1) 0x10000000 (64 * 4) false = true ∧ (asked solveB).inReach 0 (some 1) 0x10001000 (8 * 4) true = true) ∧
    ((windowDev.fetched 7 0x60 = some windowR ∧ windowDev.aperTurn windowR = true ∧
        ∃ t, windowDev.admitAper { windowR with rel := windowDev.releaseOf windowR } = .ok t) ∧
      windowDev.windowBad 0 (dArg1 windowB) 0 = false ∧ windowDev.inReach 0 (some 1) 0x10001000 128 true = true) ∧
    (lateRun.fetched 7 0x12 = some { req runB with deadline := some 0 } ∧ lateRun.aperTurn { req runB with deadline := some 0 } = true ∧
      ∃ sub, lateRun.admitAper { req runB with deadline := some 0, rel := 5 } = .error sub) ∧
    (searchDev.fetched 7 0x40 = some (req searchB) ∧ searchDev.aperTurn (req searchB) = true ∧
      ∃ e bs, searchDev.searchHeader (req searchB) [] = (e, .ok bs) ∧ ∃ t, e.admitAper { req searchB with rel := e.releaseOf (req searchB) } = .ok t) := by
  refine ⟨⟨admitsOf (by decide +kernel), by decide +kernel⟩, ⟨admitsOf (by decide +kernel), by decide +kernel⟩,
    ⟨admitsOf (by decide +kernel), by decide +kernel⟩, ⟨admitsOf (by decide +kernel), by decide +kernel⟩,
    ⟨by decide +kernel, by decide +kernel, errVal (by decide +kernel)⟩, by decide +kernel, by decide +kernel,
    (searchDev.searchHeader (req searchB) []).1, qheader, okIs (by decide +kernel), okVal (by decide +kernel)⟩

/-- INSERT, DELETE and MAP_COMMIT data in T1. -/
def insertB : List Byte := desc 0x41 0 0x10000000 9 0 0 128
def deleteB : List Byte := desc 0x42 0 0x10000000 9 0 0 8
def publishB : List Byte := desc 0x43 0 0 9 0 0 0
def commitB : List Byte := desc 0x50 0 0x10000000 0 0 0 16

def map0 : MapSt :=
  { wb := 0, part := 0, blk := [], epoch := 1, retired := 1, pubNow := 0, before := [], staged := none, rebuild := none, jused := 0,
    jcount := 0, full := [] }

def withIdx (b : List Byte) (data : List Byte) : Dev :=
  let d := asked b
  { d with idxs := [idx0], map := some map0, mem := d.mem.put 0x10000000 data }

/-- An orbit of such length that every step fits in its reserve. -/
def longOrbit (d : Dev) : Dev :=
  { d with cal := { d.cal with parts := List.replicate 16 { PartCal.reset with orbit := 2 ^ 43 } } }

theorem fits {d : Dev} {r : Req} (h : 2 ^ 32 ≤ d.reserveCost r.part) : d.stepFits r = true := by
  unfold Dev.stepFits
  simp only [List.all_eq_true, decide_eq_true_eq]
  intro c _
  exact Nat.le_of_lt (Nat.lt_of_lt_of_le (BitVec.isLt _) h)

def insertDev : Dev := longOrbit <| withIdx insertB (leBytes 64 1 ++ List.replicate 64 0)
def deleteDev : Dev := longOrbit <| withIdx deleteB (leBytes 4 1 ++ leBytes 4 3)
def commitDev : Dev := longOrbit <| withIdx commitB (leBytes 16 0)

theorem witness_ChangesAreQueued :
    (insertDev.idxOf (req insertB) = .ok idx0 ∧ insertDev.inReach 0 (some 1) 0x10000000 128 false = true ∧
      (∃ e, insertDev.read ((req insertB).who 10) [] 0x10000000 128 = (e, .ok (leBytes 64 1 ++ List.replicate 64 0)) ∧ e.stepFits (req insertB) = true) ∧
      insertDev.fetched 7 0x41 = some (req insertB) ∧ vectorsOk idx0.blk (leBytes 64 1 ++ List.replicate 64 0) = true) ∧
    (deleteDev.idxOf (req deleteB) = .ok idx0 ∧ deleteDev.inReach 0 (some 1) 0x10000000 8 false = true ∧
      (∃ e, deleteDev.read ((req deleteB).who 10) [] 0x10000000 8 = (e, .ok (leBytes 4 1 ++ leBytes 4 3)) ∧ e.stepFits (req deleteB) = true) ∧
      deleteDev.fetched 7 0x42 = some (req deleteB) ∧ idsOk (leBytes 4 1 ++ leBytes 4 3) = true) ∧
    (commitDev.fetched 7 0x50 = some (req commitB) ∧ commitDev.map = some map0 ∧ map0.part = 0 ∧
      commitDev.inShare 0 0x10000000 16 = true ∧ (∃ e, commitDev.readDev ((req commitB).who 6) 0x10000000 16 = (e, .ok (leBytes 16 0)) ∧ e.stepFits (req commitB) = true) ∧
      opsOf map0.blk (leBytes 16 0) = some []) ∧
    ((withIdx publishB []).fetched 7 0x43 = some (req publishB) ∧ (withIdx publishB []).idxOf (req publishB) = .ok idx0) := by
  refine ⟨⟨by rfl, by decide +kernel, ⟨_, okIs (by decide +kernel), fits (by decide +kernel)⟩, by decide +kernel, by decide +kernel⟩,
    ⟨by rfl, by decide +kernel, ⟨_, okIs (by decide +kernel), fits (by decide +kernel)⟩, by decide +kernel, by decide +kernel⟩,
    ⟨by decide +kernel, by decide +kernel, rfl, by decide +kernel, ⟨_, okIs (by decide +kernel), fits (by decide +kernel)⟩, by decide +kernel⟩,
    by decide +kernel, by rfl⟩

/-! ### Witnesses: dumps, streams, the calendar -/

def dumpB : List Byte := desc 0x70 0 0x800000000000 10 0 0 128

/-- Context 1 with a writable T3 window and user counters enabled. -/
def dumpDev : Dev :=
  ({ asked dumpB with ctxs := [(1, { Ctx.reset with enabled := true, t3w := [⟨true, true, true, 0x800000000000, 0x10000, 0x1000⟩] })] } : Dev).set
    R.CTX_CNT.USER_EN 1 0 1

/-- A landing descriptor of a camera stream (RAW8, 16 by 1 pixels) and one of an IMU with its program block. -/
def camLd : List Byte :=
  leBytes 2 1 ++ leBytes 2 2 ++ leBytes 4 8192 ++ leBytes 8 0x10100000 ++ leBytes 2 100 ++ leBytes 2 110 ++ leBytes 2 16 ++ leBytes 2 1 ++
    leBytes 4 1 ++ List.replicate 36 0

def imuLd : List Byte :=
  leBytes 2 0x10 ++ leBytes 2 2 ++ leBytes 4 128 ++ leBytes 8 0x10100000 ++ leBytes 2 100 ++ leBytes 2 110 ++ leBytes 2 1 ++ leBytes 2 0 ++
    leBytes 4 1 ++ List.replicate 36 0

def imuProg : List Byte := [0, 4, 1, 0] ++ List.replicate 60 0

def attachB (x : Nat) : List Byte := desc 0x80 0 0x10000000 x 0 0 0
def detachB : List Byte := desc 0x81 0 0 0 0 0 0

def camDev : Dev := let d := asked (attachB 0); { d with mem := d.mem.put 0x10000000 camLd }
def imuDev : Dev := let d := asked (attachB 0x200); { d with mem := d.mem.put 0x10000000 (imuLd ++ imuProg) }

def bound (x : Nat) (c : Option Nat) (ld spi : List Byte) : Bind := ⟨x, c, 0, ld, spi, 0, 0, 0, 0, none, none, 0, none, none⟩

def withBind (d : Dev) (b : Bind) : Dev := { d with ing := { d.ing with binds := [b] } }

theorem witness_DumpAndStreamsProceed :
    (dumpDev.fetched 7 0x70 = some (req dumpB) ∧ dumpDev.bit R.CTX_CNT.USER_EN 1 0 = true ∧ dLen dumpB ≠ 0 ∧
      2 * dumpSize (dumpDev.dumpSet 1).length ≤ dLen dumpB ∧ 10 ≤ dArg1 dumpB ∧ dArg1 dumpB ≤ 10000000 ∧ isT3 (dArg0 dumpB) = true ∧
      dumpDev.inReach 0 (some 1) (dArg0 dumpB) (dLen dumpB) true = true) ∧
    (∃ e, camDev.fetched 7 0x80 = some (req (attachB 0)) ∧ srcOf 0 ≠ .bad ∧ isSpi (srcOf 0) = false ∧
      camDev.permits 0 (some 1) 0x10000000 64 false = true ∧ (0x10000000 % 64 = 0 ∧ tierOf 0x10000000 = 1) ∧
      camDev.inShare 0 0x10000000 64 = true ∧ camDev.readDev ⟨0, some 1, none, privOf 0, 3, 0, none⟩ 0x10000000 64 = (e, .ok camLd) ∧
      ldReservedOk (camLd.take 64) = true ∧ e.bind 0 = none ∧ e.ldOk 0 0 (camLd.take 64) = true ∧ e.limitsOk 0 (camLd.take 64) = true) ∧
    (∃ e, imuDev.fetched 7 0x80 = some (req (attachB 0x200)) ∧ srcOf 0x200 ≠ .bad ∧ isSpi (srcOf 0x200) = true ∧
      imuDev.permits 0 (some 1) 0x10000000 128 false = true ∧ imuDev.inShare 0 0x10000000 128 = true ∧
      imuDev.readDev ⟨0, some 1, none, privOf 0, 3, 0, none⟩ 0x10000000 128 = (e, .ok (imuLd ++ imuProg)) ∧
      ldReservedOk ((imuLd ++ imuProg).take 64) = true ∧ spiReservedOk ((imuLd ++ imuProg).drop 64) = true ∧ e.bind 0x200 = none ∧
      e.ldOk 0x200 0 ((imuLd ++ imuProg).take 64) = true ∧ spiOk ((imuLd ++ imuProg).drop 64) = true ∧
      e.limitsOk 0x200 ((imuLd ++ imuProg).take 64) = true) ∧
    ((withBind (asked detachB) (bound 0 (some 1) camLd [])).fetched 7 0x81 = some (req detachB) ∧
      (withBind (asked detachB) (bound 0 (some 1) camLd [])).bind (dArg1 detachB % 65536) = some (bound 0 (some 1) camLd [])) ∧
    ({ withBind ready (bound 0 (some 1) camLd []) with reqs := [{ req detachB with ctx := 0 }] } : Dev).fetched 7 0x81 =
        some { req detachB with ctx := 0 } := by
  refine ⟨by decide +kernel, ⟨(camDev.readDev ⟨0, some 1, none, privOf 0, 3, 0, none⟩ 0x10000000 64).1, by decide +kernel, by decide,
    by decide, by decide +kernel, by decide, by decide +kernel, okIs (by decide +kernel), by decide +kernel, by decide +kernel, by decide +kernel,
    by decide +kernel⟩, ⟨(imuDev.readDev ⟨0, some 1, none, privOf 0, 3, 0, none⟩ 0x10000000 128).1, by decide +kernel, by decide, by decide,
    by decide +kernel, by decide +kernel, okIs (by decide +kernel), by decide +kernel, by decide +kernel, by decide +kernel, by decide +kernel,
    by decide +kernel, by decide +kernel⟩, by decide +kernel, by decide +kernel⟩

/-- Base 0 reads `t`. -/
def at_ (d : Dev) (t : Nat) : Dev := { d with now := t, tim := { d.tim with tbs := List.replicate 4 { Tb.reset with val := t } } }

def withEntry (e : Entry) (t : Nat) : Dev := let d := at_ ready t; { d with cal := { d.cal with entries := [e] } }

/-- An entry whose first run has its nominal release at T64 5, and the same one behind its nominal instants. -/
def due : Entry := { entry3 with rel0 := 5 }
def behindE : Entry := { due with lastEnd := some 700000, next := 0, cause := 1, lastStart := some 600000 }

/-- A run of the entry. -/
def run9 (src : Src) : Run := { ready.newRun src 0 (some 1) 0 (job 0 0) 0 5 500 false 0 0 0 0 [] with id := 9 }

def withRun (d : Dev) (r : Run) : Dev := { d with runs := [r] }

/-- A workbook whose job 0 uses unit 0, and two of its entries on it, of which one leaps. -/
def costed : Dev := { at_ ready 2000000 with wbs := [{ wb0 with costs := [⟨0, 0, 0, [], [⟨0, [5, 5, 5, 5], 1⟩]⟩] }] }
def twoDev : Dev := { costed with cal := { costed.cal with entries := [behindE, { due with slot := 4, leaping := true }] } }

/-- An entry with an input flag, its run that waits for it, and the flag set. -/
def needy : Entry := { due with alm := { alm with inputs := [7] } }
def flagged : Dev := { withRun (withEntry needy 1000) (run9 (.entry 3)) with flags := [(7, true)] }

/-- An admitted COPY, a run of it that is over, and a run past its deadline. -/
def admitted : Dev := { asked copyB with reqs := [{ req copyB with st := .admitted }] }
def overR : Run := { run9 (.req 7) with eligible := true, started := some 3, streams := [] }
def overDev : Dev := withRun admitted overR
def safeE : Entry := { due with alm := { alm with cls := 1 } }
def lateDev (e : Entry) : Dev := withRun (withEntry e 100000000) (run9 (.entry 3))

theorem witness_CalendarProceeds :
    (((withEntry due 1000).entry 3 = some due ∧ (withEntry due 1000).releasable due = true ∧ due.nominal = true ∧
      due.relNom due.next ≤ (withEntry due 1000).schedNow 0) ∧
    ((withEntry behindE 2000000).entry 3 = some behindE ∧ (withEntry behindE 2000000).releasable behindE = true ∧ behindE.nominal = false ∧
      (withEntry behindE 2000000).leapGranted behindE = true ∧ behindE.relAfter behindE.alm.tmin ≤ (withEntry behindE 2000000).schedNow 0) ∧
    (twoDev.entry 3 = some behindE ∧ twoDev.releasable behindE = true ∧ behindE.nominal = false ∧ twoDev.leapGranted behindE = false ∧
      behindE.relAfter behindE.alm.period ≤ twoDev.schedNow 0) ∧
    (flagged.run 9 = some (run9 (.entry 3)) ∧ (run9 (.entry 3)).src = .entry 3 ∧ flagged.entry 3 = some needy ∧
      (run9 (.entry 3)).eligible = false ∧ flagged.inputsSet needy.alm.inputs = true) ∧
    (admitted.req 7 = some { req copyB with st := .admitted } ∧ 0 ≤ admitted.schedNow 0 ∧ admitted.cal.stopped = false) ∧
    (overDev.run 9 = some overR ∧ overDev.runOver overR = true ∧ overR.started.isSome = true ∧ overR.status = 0)) ∧
    (((lateDev due).run 9 = some (run9 (.entry 3)) ∧ (lateDev due).entry 3 = some due ∧ 500 + due.alm.lateTol < (lateDev due).schedNow 0 ∧
        due.suspended = false ∧ due.ending = none ∧ due.alm.cls ≠ 1) ∧
      ((lateDev safeE).run 9 = some (run9 (.entry 3)) ∧ (lateDev safeE).entry 3 = some safeE ∧
        500 + safeE.alm.lateTol < (lateDev safeE).schedNow 0 ∧ safeE.suspended = false ∧ safeE.ending = none ∧ safeE.alm.cls = 1) ∧
      (0 < (at_ ready 1500000).parts ∧ ((at_ ready 1500000).pcal 0).boundary < (at_ ready 1500000).lastBoundary 0) ∧
      (ready.set R.CAL_STATUS.READMIT 0 0 1).bit R.CAL_STATUS.READMIT 0 0 = true ∧ ready.hostUp = true ∧
      ({ ready with pwr := { ready.pwr with cmc := true } } : Dev).pwr.cmc = true) := by
  refine ⟨⟨by decide +kernel, by decide +kernel, by decide +kernel, by decide +kernel, by decide +kernel, by decide +kernel⟩, by decide +kernel⟩

/-! ### Witnesses: registers, the mailbox, memory -/

def offOk (d : Dev) (off : Nat) : Bool :=
  match regAt off with
  | some (r, _, _) => decide (off % 4 = 0) && !d.pwr.halt && !d.wakeIdle.denies off && !r.has .w1c && r.has .rw && decide (r.base ∉ atOnce)
  | none => false

theorem offOf {d : Dev} {off : Nat} (h : offOk d off = true) : ∃ r i j, off % 4 = 0 ∧ regAt off = some (r, i, j) ∧ d.pwr.halt = false ∧
    d.wakeIdle.denies off = false ∧ r.has .w1c = false ∧ r.has .rw = true ∧ r.base ∉ atOnce := by
  unfold offOk at h
  split at h
  · rename_i r i j e
    simp only [Bool.and_eq_true, decide_eq_true_eq, Bool.not_eq_true'] at h
    exact ⟨r, i, j, h.1.1.1.1.1, e, h.1.1.1.1.2, h.1.1.1.2, h.1.1.2, h.1.2, h.2⟩
  · cases h

/-- Block 9 has a strobe that has not ended. -/
def strobed : Dev := { ready with strobes := [(9, [], [])] }

theorem witness_RegistersAnswer :
    ready.hostUp = true ∧ (∃ r i j, 0x20000 % 4 = 0 ∧ regAt 0x20000 = some (r, i, j) ∧ ready.pwr.halt = false ∧
      ready.wakeIdle.denies 0x20000 = false ∧ r.has .w1c = false ∧ r.has .rw = true ∧ r.base ∉ atOnce) ∧
    (viaOk (.vf 31) = true ∧ ready.hears (.vf 31) = true ∧ ((4 : Nat) ≠ 4 ∨ 0x71 % 4 ≠ 0)) ∧
    (viaOk .pf0 = true ∧ ready.reachesCtx .pf0 2047 = true) ∧ (strobed.pwr.porN = true ∧ strobed.strobes = [(9, [], [])]) ∧
    (cfgReg 0x20000 = true ∧ ready.pwr.porN = true) :=
  ⟨by decide +kernel, offOf (by decide +kernel), by decide +kernel, by decide +kernel, by decide +kernel, by decide +kernel⟩

theorem answersOf {c : Instr} {s t : State} (h : exec c s = .next t) (hq : t.pending = s.pending) (hn : t.nv = s.nv) :
    Answers c s t.dev := by
  unfold Answers; rw [h]; obtain ⟨a, b, d⟩ := t; obtain ⟨a', b', d'⟩ := s; simp at hq hn; subst hq; subst hn; rfl

theorem witness_MaskedWritesChangeMaskedBits : ready.hostUp = true ∧
    (∀ i, i < 16 → ¬ (bitOf (0x00010001 : W32).toNat (16 + i) = true ∧ bitOf (0x00060002 : W32).toNat (16 + i) = true)) ∧
    ∃ a b x y, Answers (.registerWrite .pf0 0x70 4 0x00010001) ⟨[], NonVol.reset, ready⟩ a ∧
      Answers (.registerWrite .pf0 0x70 4 0x00060002) ⟨[], NonVol.reset, a⟩ b ∧
      Answers (.registerWrite .pf0 0x70 4 0x00060002) ⟨[], NonVol.reset, ready⟩ x ∧
      Answers (.registerWrite .pf0 0x70 4 0x00010001) ⟨[], NonVol.reset, x⟩ y :=
  ⟨by decide, by decide, _, _, _, _, rfl, rfl, rfl, rfl⟩

theorem witness_WrittenOnesClear : ready.hostUp = true ∧ ready.pwr.halt = false := by decide

theorem witness_BufferedWritesWait : ready.hostUp = true ∧
    (∃ r i j, 0x20000 % 4 = 0 ∧ regAt 0x20000 = some (r, i, j) ∧ ready.pwr.halt = false ∧ ready.wakeIdle.denies 0x20000 = false ∧
      r.has .w1c = false ∧ r.has .rw = true ∧ r.base ∉ atOnce) ∧
    (∃ r i j, 0x200060 % 4 = 0 ∧ regAt 0x200060 = some (r, i, j) ∧ ready.pwr.halt = false ∧ ready.wakeIdle.denies 0x200060 = false ∧
      r.has .w1c = false ∧ r.has .rw = true ∧ r.base ∉ atOnce) ∧
    0x200060 % 0x400 ∉ [0xC, 0x3C, 0x100, 0x104, 0x108, 0x10C, 0x110, 0x114] :=
  ⟨by decide, offOf (by decide +kernel), offOf (by decide +kernel), by decide⟩

theorem reaches_glb (d : Dev) (h : d.hostUp = true) : Reaches (st d) .glb := ⟨rfl, rfl, h, rfl⟩

/-- Port 0 has an I3C result, and a transfer that runs. -/
def i3c : Dev := { ready with ing := { ready.ing with csi := [{ CsiPort.reset with result := some (false, [1]), xfers := [[0x181, 0, 0]] }] } }

theorem witness_MailboxReadsLatch : Reaches (st i3c) .glb ∧ (i3c.csi 0).result = some (false, [1]) ∧
    ∃ r i j, 0x70030 < 2 ^ 31 ∧ regAt 0x70030 = some (r, i, j) ∧ r.has .mb = true := by
  refine ⟨reaches_glb _ (by decide), by decide, ?_⟩
  have h : (regAt 0x70030).any (fun x => x.1.has .mb) = true := by decide +kernel
  cases e : regAt 0x70030 with
  | none => rw [e] at h; cases h
  | some x => rw [e] at h; exact ⟨x.1, x.2.1, x.2.2, by decide, rfl, h⟩

theorem witness_MailboxWritesWait : Reaches (st ready) .glb ∧
    (Reaches (st i3c) (.ctx 5 .pf0) ∧ 0 < i3c.ing.csi.length ∧ 1 ≤ bitsOf (0x100 : W32).toNat 11 8 ∧ bitsOf (0x800 : W32).toNat 11 8 ≤ 8 ∧
      i3c.get R.CSI_CFG.I3C_MODE 0 0 ≠ 3) ∧
    ((i3c.csi 0).xfers = [[0x181, 0, 0]] ∧ (i3c.csi 0).discovering = false) :=
  ⟨reaches_glb _ (by decide), ⟨⟨by decide, by decide, by decide, by decide⟩, by decide⟩, by decide⟩

/-- Context 9 belongs to function 3. -/
def vfDev : Dev := (ready.set R.CTX_FUNC.VALID 9 0 1).set R.CTX_FUNC.FUNC 9 0 3

theorem witness_FlagSnapshotReadsFlags :
    (boxOk .glb = true ∧ ready.hostUp = true ∧ ready.reachesBox .glb = true ∧ viaPf0 (boxVia .glb) = true) ∧
    (boxOk (.ctx 9 (.vf 3)) = true ∧ vfDev.hostUp = true ∧ vfDev.reachesBox (.ctx 9 (.vf 3)) = true ∧
      viaPf0 (boxVia (.ctx 9 (.vf 3))) = false) := by decide

theorem witness_StoredBytesReadBack : (∀ i, i < 3 → Mem.reset.isZero (0x10000000 + i) = false) ∧ Mem.reset.wf = true := by decide

/-- A device with a block of T2 that a purge has marked. -/
def marked : Dev := { ready with mem := { ready.mem with zero := [(0x8000, 1)] } }

theorem witness_MarkedBlockReadsZeroUntilWritten : marked.mem.isZero 0x8000FFC0 = true ∧ 0x8000FFC0 % 64 + 64 ≤ 64 := by decide

/-! ### Witnesses: copies, time, ingest -/

/-- A started run and a copy of 64 bytes of it at mover 0, not yet begun. -/
def copyR : Run := { run9 (.req 7) with eligible := true, started := some 3, streams := [], copies := [(0, 5)] }
def copyOf (b : List Byte) : Copy := ⟨5, b, 0, some 1, 9, none, 0, false⟩
def t3 : T3Read := ⟨6, 9, 1, 0x1000, 64, 0x800000000000, 100, none, 0x10000000⟩
def copying (b : List Byte) : Dev :=
  { withRun admitted copyR with movers := [(0, [copyOf b])], t3reads := [t3] }

def plainB : List Byte := linearCopy 0x10000000 0x10001000 64
def sameB : List Byte := linearCopy 0x10000000 0x10000000 64

/-- What the mover has done of the copy after one step. -/
def moved : Dev × Nat × Option AccErr :=
  (((copying plainB).markStarted 9).setCopy 0 5 (fun x => { x with started := true })).movePieces ((copyOf plainB).who copyR 0) plainB 0
    (min 65536 (mvTotal plainB - 0)) 65536

theorem tierErr_ends (d : Dev) (f : Bool) (t x : Nat) : ∃ e err, d.tierErr f t x = (e, some err) := by
  unfold Dev.tierErr
  exact ⟨_, _, rfl⟩

theorem witness_CopiesAndAccessesEnd :
    (minBy (fun (x y : Copy × Run) => edf x.2 y.2) ((copying plainB).moverReady 0) = some (copyOf plainB, copyR) ∧
      (copying plainB).isFenced 7 0 = false ∧ mvSame plainB = false ∧ isPeer (mvDst plainB) = false ∧ isPeer (mvSrc plainB) = false ∧
      isT3 (mvSrc plainB) = false ∧ ∃ e done, moved = (e, done, none)) ∧
    (minBy (fun (x y : Copy × Run) => edf x.2 y.2) ((copying sameB).moverReady 0) = some (copyOf sameB, copyR) ∧
      (copying sameB).isFenced 7 0 = false ∧ mvSame sameB = true) ∧
    ((copying plainB).run 9 = some copyR ∧ copyR.started.isSome = true ∧ tierOf 0x800000000 = 2 ∧
      ∃ e err, (copying plainB).tierErr false 2 0x800000000 = (e, some err)) ∧
    ((copying plainB).t3Of 6 = some t3 ∧ (at_ (copying plainB) 100).t3Of 6 = some t3 ∧ t3.until_ ≤ (at_ (copying plainB) 100).now) := by
  have h : moved.2.2.isNone = true := by decide +kernel
  refine ⟨⟨by decide +kernel, by decide +kernel, by decide +kernel, by decide +kernel, by decide +kernel, by decide +kernel,
    moved.1, moved.2.1, ?_⟩, by decide +kernel, ⟨by decide +kernel, by decide, by decide, tierErr_ends _ _ _ _⟩,
    by decide +kernel⟩
  rw [← Option.isNone_iff_eq_none.1 h]

def trig0 : Trig := { Trig.reset with armed := true, period := 5000, start := 2000, pol := true }
def trigDev : Dev := let d := at_ ready 100000; { d with tim := { d.tim with trigs := [trig0, { trig0 with strobeAt := 1500 }] } }

theorem witness_TriggersAndSync :
    (trigDev.trig 0 = trig0 ∧ trig0.armed = true ∧ trig0.start + trig0.next * trig0.period ≤ trigDev.tbVal trig0.base ∧
      trig0.strobeAt + 1000 ≤ trig0.start + trig0.next * trig0.period) ∧
    ((trigDev.trig 1).start + (trigDev.trig 1).next * (trigDev.trig 1).period < (trigDev.trig 1).strobeAt + 1000) ∧
    ((ready.set R.SYNC_CFG.EN 0 0 1).bit R.SYNC_CFG.EN 0 0 = true ∧ true ≠ (ready.set R.SYNC_CFG.EN 0 0 1).bit R.SYNC_CFG.EDGE 0 0 ∧
      (ready.set R.SYNC_CFG.EN 0 0 1).syncIn.bit R.SYNC_CFG.SGC_RESET 0 0 = false ∧
      ((ready.set R.SYNC_CFG.EN 0 0 1).set R.SYNC_CFG.SGC_RESET 0 0 1).syncIn.bit R.SYNC_CFG.SGC_RESET 0 0 = true) ∧
    ready.hostUp = true := by decide +kernel

/-- PTP slot 0 receives, slot 1 sends; slot 0 has an exchange and a two-step Sync under way. -/
def msg (two : Bool) : PtpMsg := ⟨5, 1, 7, two, 0, 1, 0, 0xFFFE000000, 0, 0, 0, 0, 0, false, 0, 0, 0, 0⟩

def ptpDev (s : PtpSlot) : Dev :=
  let d := { ready with now := 10 ^ 12, tim := { ready.tim with slots := List.replicate 2 s } }
  ((d.set R.PTP_SLOT.EN 0 0 1).set R.PTP_SLOT.EN 1 0 1).set R.PTP_SLOT.ROLE 1 0 1

def slotA : PtpSlot := { PtpSlot.reset with pendSync := some (7, [1, 2, 3, 4], 0), exch := some (7, 10, 20, 30), lastSync := some 5, lastAnn := some 5 }

theorem witness_PtpReceives :
    ((ptpDev slotA).isRx 0 = true ∧ (ptpDev slotA).accepts 0 (msg false) = true ∧ (msg false).twoStep = false ∧ (msg true).twoStep = true ∧
      ((ptpDev slotA).slot 0).pendSync = some ((msg false).seqId.toNat, [1, 2, 3, 4], 0) ∧ ((ptpDev slotA).slot 0).filtId = 0 ∧
      ((ptpDev slotA).slot 0).exch = some ((msg false).seqId.toNat, 10, 20, 30) ∧ (msg false).reqId.toNat = (ptpDev slotA).clockId 0 ∧
      (20 : Nat) ≠ 0) ∧
    ((ptpDev slotA).isTx 1 = true ∧ ((ptpDev slotA).set R.PTP_SLOT.ONE_STEP 1 0 1).isTx 1 = true ∧
      ((ptpDev slotA).set R.PTP_SLOT.ONE_STEP 1 0 1).bit R.PTP_SLOT.ONE_STEP 1 0 = true) := by decide +kernel

theorem witness_PtpTimersAct :
    ((ptpDev slotA).isTx 1 = true ∧ (ptpDev slotA).passed ((ptpDev slotA).slot 1).lastTxSync ((ptpDev slotA).syncInt 1) = true ∧
      (ptpDev slotA).bit R.PTP_SLOT.ONE_STEP 1 0 = false ∧
      (ptpDev slotA).passed ((ptpDev slotA).slot 1).lastTxAnn ((ptpDev slotA).annInt 1) = true) ∧
    ((ptpDev slotA).isRx 0 = true ∧ (ptpDev slotA).passed ((ptpDev slotA).slot 0).lastTxDelay ((ptpDev slotA).delayInt 0) = true) ∧
    (((ptpDev slotA).slot 0).faulted = false ∧ ((ptpDev slotA).slot 0).lastSync = some 5 ∧
      5 + 3 * (ptpDev slotA).syncInt 0 ≤ (ptpDev slotA).now ∧ ((ptpDev slotA).slot 0).lastAnn = some 5 ∧
      5 + max 2 (min 10 ((ptpDev slotA).get R.PTP_SLOT_ANN.ANN_TIMEOUT 0 0)) * (ptpDev slotA).annInt 0 ≤ (ptpDev slotA).now) := by
  decide +kernel

/-- Camera port 0 enabled with its link up and a stream bound, and one that waits for LP-11. -/
def csiPort : CsiPort := { CsiPort.reset with discovering := true }
def camPort : Dev :=
  ((withBind { ready with ing := { ready.ing with csi := [csiPort] } } (bound 0 (some 1) camLd [])).set R.CSI_CFG.EN 0 0 1)

def line8 (crc : Bool) : CsiPacket := ⟨0, 0x2A, false, crc, List.replicate 16 3⟩

theorem witness_CameraPortsAct :
    (camPort.bit R.CSI_CFG.EN 0 0 = true ∧ camPort.bit R.CSI_STAT.LINK 0 0 = false ∧
      (camPort.set R.CSI_CFG.STB_EN 0 0 1).bit R.CSI_CFG.STB_EN 0 0 = true ∧ true ≠ camPort.bit R.CSI_CFG.STB_EDGE 0 0) ∧
    ((camPort.set R.CSI_STAT.LINK 0 0 1).bit R.CSI_STAT.LINK 0 0 = true ∧
      (camPort.set R.CSI_STAT.LINK 0 0 1).bind 0 = some (bound 0 (some 1) camLd []) ∧
      (camPort.set R.CSI_STAT.LINK 0 0 1).idWrong 0 (bound 0 (some 1) camLd []) = false ∧ (line8 false).vc = 0 ∧ (line8 false).headerBad = false ∧
      (line8 false).crcBad = false ∧ (line8 true).crcBad = true ∧ (line8 false).dt = dtOf camLd ∧
      ((camPort.set R.CSI_STAT.LINK 0 0 1).addSat R.CSI_STAT.CRC_ERR 0 0 1).bind 0 = some (bound 0 (some 1) camLd [])) ∧
    ((camPort.csi 0).discovering = true ∧ camPort.get R.CSI_CFG.I3C_MODE 0 0 = 0) := by decide +kernel

def opened : OpenSlot := ⟨0, 0, 0, 0, 0, 0, 0, 1, 0, 0, 0, 0, 0, [], 5⟩
def pkt : RtpPacket := ⟨0, 5000, 9, 0, 0, false, none, []⟩
def ethDev : Dev := ((ready.set R.ETH_SM_CFG.EN 3 0 1).set R.ETH_SM_CFG.UDP_PORT 3 0 5000).set R.ETH_SM_SSRC.SSRC 3 0 9

theorem witness_StreamsAct :
    ((withBind (at_ ready (10 ^ 13)) (bound 0 (some 1) camLd [])).bind 0 = some (bound 0 (some 1) camLd []) ∧
      (bound 0 (some 1) camLd []).lastAt + ldLoss camLd * (bound 0 (some 1) camLd []).period ≤
        (withBind (at_ ready (10 ^ 13)) (bound 0 (some 1) camLd [])).tbVal 0 ∧
      (withBind (at_ ready (10 ^ 13)) (bound 0 (some 1) camLd [])).mirroredIn 0 = false ∧ srcOf 0 = .csi 0 0) ∧
    (srcOf 0x200 ≠ .bad ∧ isImage (ldFormat imuLd) = false ∧
      (withBind (at_ ready (10 ^ 8)) { bound 0x200 (some 1) imuLd imuProg with slot := some opened }).bind 0x200 =
        some { bound 0x200 (some 1) imuLd imuProg with slot := some opened } ∧
      opened.since + ((at_ ready (10 ^ 8)).pcal 0).orbit < (at_ ready (10 ^ 8)).tbVal 0) ∧
    (List.range 64).find? (fun n => let d : Dev := { ethDev with ing := { ethDev.ing with ethUp := modifyAt ethDev.ing.ethUp 0 (fun _ => true) } }
      d.bit R.ETH_SM_CFG.EN n 0 && decide (d.get R.ETH_SM_CFG.PORT n 0 = pkt.port ∧ n / 32 = pkt.port ∧
          d.get R.ETH_SM_CFG.UDP_PORT n 0 = pkt.udpPort) &&
        (d.bit R.ETH_SM_CFG.SSRC_ANY n 0 || decide (d.get R.ETH_SM_SSRC.SSRC n 0 = pkt.ssrc.toNat))) = some 3 := by
  refine ⟨⟨by decide +kernel, by decide +kernel, by decide +kernel, by decide +kernel⟩,
    ⟨by decide +kernel, by decide +kernel, by decide +kernel, by decide +kernel⟩, by decide +kernel⟩

def spiReady : Dev := (withBind (at_ ready (10 ^ 13)) (bound 0x200 (some 1) imuLd imuProg)).set R.SPI_CFG.EN 0 0 1
def spiBusy : Dev :=
  let b := bound 0x200 (some 1) (leBytes 2 0x12 ++ imuLd.drop 2) imuProg
  let d := withBind ready b
  { d with ing := { d.ing with spi := modifyAt d.ing.spi 0 (fun x => { x with running := some 4 }) } }
def encDev : Dev := ((withBind (at_ ready (10 ^ 13)) (bound 0x210 (some 1) imuLd [])).set R.ENC_CFG.EN 0 0 1).set R.ENC_CFG.INDEX_EN 0 0 1
def sdiDev (a : Bool) : Dev :=
  (withBind { at_ ready (10 ^ 13) with lanes := [(0, { Lane.reset with active := a, broken := true, next := 5 })] }
    (bound 0x220 (some 1) imuLd [])).set R.SDI_CFG.EN 0 0 1

theorem witness_SampledInputsAct :
    (spiReady.bind 0x200 = some (bound 0x200 (some 1) imuLd imuProg) ∧ spiReady.bit R.SPI_CFG.EN 0 0 = true ∧
      spiReady.bit R.SPI_CFG.POLLED 0 0 = false ∧ true ≠ spiReady.bit R.SPI_CFG.DRDY_EDGE 0 0 ∧
      ((spiReady.setBind 0x200 (fun x => { x with lastAt := spiReady.tbVal 0 })).spi 0).running = none) ∧
    ((spiReady.set R.SPI_CFG.POLLED 0 0 1).bit R.SPI_CFG.POLLED 0 0 = true ∧ (spiReady.spi 0).lastPoll + ldRate imuLd ≤ spiReady.tbVal 0) ∧
    ((spiBusy.spi 0).running = some 4 ∧ (spiBusy.spi 0).waiting = none ∧ (spiBusy.bind 0x200).isSome = true ∧
      ldFormat (leBytes 2 0x12 ++ imuLd.drop 2) = 0x12) ∧
    (encDev.bit R.ENC_CFG.EN 0 0 = true ∧ true ≠ (encDev.enc 0).a ∧ (encDev.enc 0).lastEdgeNow = none ∧
      encDev.bind 0x210 = some (bound 0x210 (some 1) imuLd []) ∧ encDev.bit R.ENC_CFG.INDEX_EN 0 0 = true ∧
      (encDev.enc 0).lastLatch + ldRate imuLd ≤ encDev.tbVal 0 ∧ (encDev.enc 0).fault = false) ∧
    ((sdiDev true).bit R.SDI_CFG.EN 0 0 = true ∧ ((sdiDev true).lane 0).broken = true ∧ ((sdiDev true).lane 0).active = true ∧
      ((sdiDev false).lane 0).active = false) ∧
    (((sdiDev true).set R.SGC_LANE_CFG.EN 0 0 1).ing.binds.find? (fun b => decide (laneOf b.stream = some 0)) =
        some (bound 0x220 (some 1) imuLd []) ∧ ((sdiDev true).set R.SGC_LANE_CFG.EN 0 0 1).bit R.SGC_LANE_CFG.EN 0 0 = true ∧
      (((sdiDev true).set R.SGC_LANE_CFG.EN 0 0 1).lane 0).next ≤ (sdiDev true).tbVal 0) := by decide +kernel

/-! ### Witnesses: engines, solver, place search, map, Orrery -/

/-- A task of each kind without inputs, outputs and parameters, alone in a run. -/
def bareTask (kind : Nat) : Task := newTask 0 (BitVec.ofNat 8 kind :: List.replicate 31 0)
def bandR (kind : Nat) : Run := { run9 (.req 7) with eligible := true, started := some 3, streams := [], tasks := [bareTask kind] }
def bandDev (kind : Nat) : Dev := withRun admitted (bandR kind)

def bandOk (d : Dev) (eng : Engine) (r : Run) (t : Task) : Bool :=
  let w := r.who (if t.kind ≤ 5 then 5 else 6) (visIndex t.kind t.unit) none
  match (d.markStarted r.id).taskCalib w t t.band with
  | (d1, .ok cal) =>
    match d1.readInputs w t t.band 0 t.ins with
    | (d2, .ok ins) =>
      match eng d2 w r t ins cal t.band with
      | (d3, .ok rs) => (d3.putBands w t ins t.band 0 t.outs rs).2.isNone
      | _ => false
    | _ => false
  | _ => false

theorem bandMadeOf {d : Dev} {eng : Engine} {r : Run} {t : Task} (k : Nat) (h : bandOk d eng r t = true) : ∃ e, BandMade d eng r k t e := by
  unfold bandOk at h
  simp only at h
  split at h
  · rename_i d1 cal e1
    split at h
    · rename_i d2 ins e2
      split at h
      · rename_i d3 rs e3
        obtain ⟨d4, e4⟩ := noneOf h
        exact ⟨_, _, cal, ins, rs, d1, d2, d3, d4, _, rfl, rfl, e1, e2, e3, e4, rfl⟩
      · cases h
    · cases h
  · cases h

def turn (kind : Nat) : Bool :=
  let d := (bandDev kind).noteWaits kind 0
  decide (minBy edf (d.runs.filter (fun r => r.eligible && ((d.readyTask r kind 0)).isSome)) = some (bandR kind)) &&
    decide (d.readyTask (bandR kind) kind 0 = some 0) && !d.isFenced (if kind ≤ 5 then 5 else 6) (visIndex kind 0)

theorem turnOf {kind : Nat} (h : turn kind = true) : UnitTurn (st (bandDev kind)) kind 0 (bandR kind) 0 (bareTask kind) := by
  simp only [turn, Bool.and_eq_true, decide_eq_true_eq, Bool.not_eq_true'] at h
  exact ⟨h.1.1, h.1.2, rfl, h.2⟩

theorem witness_EnginesMakeBands : ∀ kind eng n c, (kind, eng, n, c) ∈ unitRows 0 false → 0 < n ∧
    UnitTurn (st (bandDev kind)) kind 0 (bandR kind) 0 (bareTask kind) ∧
    ∃ e, BandMade ((bandDev kind).noteWaits kind 0) eng (bandR kind) 0 (bareTask kind) e := by
  intro kind eng n c h
  simp only [unitRows, List.mem_cons, Prod.mk.injEq, List.not_mem_nil, or_false] at h
  rcases h with ⟨rfl, rfl, rfl, -⟩ | ⟨rfl, rfl, rfl, -⟩ | ⟨rfl, rfl, rfl, -⟩ | ⟨rfl, rfl, rfl, -⟩ | ⟨rfl, rfl, rfl, -⟩ | ⟨rfl, rfl, rfl, -⟩ |
    ⟨rfl, rfl, rfl, -⟩ | ⟨rfl, rfl, rfl, -⟩ | ⟨rfl, rfl, rfl, -⟩ <;>
  exact ⟨by decide, turnOf (by decide +kernel), bandMadeOf 0 (by decide +kernel)⟩

/-- A run whose solver task has one problem pending on group 0. -/
def slxT : Task := { newTask 1 (leBytes 8 0x10000000 ++ leBytes 8 1 ++ leBytes 8 0x10001000) with band := 1, work := [1], res := [List.replicate 64 0, []] }
def slxR : Run := { run9 (.req 7) with eligible := true, started := some 3, streams := [], tasks := [slxT] }

/-- A run whose search has one query pending on walker 0, and a search that has ended on every shard. -/
def query0 (d : Bool) : Query := ⟨0, 0, 1, 1, 0, 0, [], none, d, 0, 0, 0, [], false⟩
def search0 (d : Bool) : Search := ⟨9, 0, 0, 1, some 0x10001000, [query0 d], 0, [], none, []⟩
def pseR : Run := { run9 (.req 7) with eligible := true, started := some 3, streams := [], tasks := [newTask 2 []] }
def pseDev (d : Bool) : Dev := { withRun admitted pseR with idxs := [idx0], searches := [search0 d] }

/-- An index change whose turn it is, an epoch to retire, a rebuild that has ended its work. -/
def maint (k : MaintKind) (d : Dev) : Dev := { d with cal := { d.cal with maint := [⟨0, k, 0⟩] } }
def changeDev (d : Dev) (b : List Byte) : Dev := maint (.hostReq 7) { d with reqs := [{ req b with st := .queued }] }
def aging : Idx := { idx0 with epoch := 2 }
def reb0 : IdxReb := ⟨1, [], 0, [], [], [], [], [], false⟩
def idx1 : Idx := { idx0 with blk := [0, 1, 1, 1] ++ idx0.blk.drop 4, rebuild := some reb0 }
def rebDev : Dev := maint (.rebuild 0) { ready with idxs := [idx1] }

theorem witness_SolverAndSearchProceed :
    (minBy edf ((withRun admitted slxR).runs.filter (fun r => r.eligible && ((withRun admitted slxR).slxReady r 0).isSome)) = some slxR ∧
      (withRun admitted slxR).slxReady slxR 0 = some 0 ∧ (withRun admitted slxR).spr.fenced = [] ∧ slxR.tasks[0]? = some slxT ∧ slxT.band ≠ 0 ∧
      (((withRun admitted slxR).markStarted 9).run 9).bind (fun x => x.tasks[0]?) = some slxT) ∧
    (minBy edf ((pseDev false).runs.filter (fun r => r.eligible && ((pseDev false).pseReady r 0).isSome)) = some pseR ∧
      (pseDev false).pseReady pseR 0 = some 0 ∧ (pseDev false).isFenced 10 0 = false ∧ pseR.tasks[0]? = some (newTask 2 []) ∧
      ((pseDev false).markStarted 9).search 9 0 = some (search0 false)) ∧
    ((pseDev true).searches.filter (fun x => decide (x.run = 9)) = [search0 true] ∧ (pseDev true).merges (search0 true) = true) ∧
    ((changeDev insertDev insertB).idx 0 = some idx0 ∧
      (changeDev insertDev insertB).nextChange idx0 = some { req insertB with st := .queued } ∧
      (changeDev insertDev insertB).maintTurn (.hostReq 7) = true ∧ idx0.writable = true ∧ (∃ e bs,
        ((changeDev insertDev insertB).dropMaint (.hostReq 7)).read ({ req insertB with st := .queued }.who 10) [] 0x10000000 128 = (e, .ok bs) ∧
        vectorsOk idx0.blk bs = true)) ∧
    ((changeDev deleteDev deleteB).nextChange idx0 = some { req deleteB with st := .queued } ∧
      (changeDev deleteDev deleteB).maintTurn (.hostReq 7) = true ∧ (∃ e bs,
        ((changeDev deleteDev deleteB).dropMaint (.hostReq 7)).read ({ req deleteB with st := .queued }.who 10) [] 0x10000000 8 = (e, .ok bs) ∧
        idsOk bs = true)) ∧
    (({ ready with idxs := [aging] } : Dev).idx 0 = some aging ∧ aging.retired ≠ aging.epoch ∧ ({ ready with idxs := [aging] } : Dev).runs = []) ∧
    (rebDev.maintTurn (.rebuild 0) = true ∧ rebDev.idx 0 = some idx1 ∧ idx1.rebuild = some reb0 ∧
      ∃ m r', idx1.rebuildStep rebDev.shard rebDev.mem reb0 = some (m, r')) ∧
    (ready.hostUp = true ∧ ({ ready with idxs := [idx0] } : Dev).wakeIdle.idx 0 = some idx0 ∧ idx0.rebuild = none) := by
  refine ⟨by decide +kernel, by decide +kernel, by decide +kernel,
    ⟨by decide +kernel, by decide +kernel, by decide +kernel, by decide +kernel,
      _, leBytes 64 1 ++ List.replicate 64 0, okIs (by decide +kernel), by decide +kernel⟩,
    ⟨by decide +kernel, by decide +kernel, _, leBytes 4 1 ++ leBytes 4 3, okIs (by decide +kernel), by decide +kernel⟩,
    by decide +kernel, ⟨by decide +kernel, by decide +kernel, by decide +kernel, ?_⟩, by decide +kernel⟩
  obtain ⟨x, hx⟩ := someOf (x := idx1.rebuildStep rebDev.shard rebDev.mem reb0) (by decide +kernel)
  exact ⟨x.1, x.2, hx⟩

/-- A commit whose turn it is, an epoch to retire, a rebuild that has copied. -/
def commitTurn : Dev := maint (.hostReq 7) { commitDev with reqs := [{ req commitB with st := .queued }] }
def commitR : Req := { req commitB with st := .queued }
def commitW : Work :=
  runOps ⟨map0.blk, commitTurn.shard, map0.epoch, map0.retired, dArg1 commitB % 2 ^ 32⟩ (commitTurn.dropMaint (.hostReq 7)).mem map0.others []
def oldMap : MapSt := { map0 with epoch := 2 }
def rebMap : MapSt := { map0 with rebuild := some ⟨4, 0, true, [List.replicate 16 0], 0⟩ }

theorem witness_MapProceeds :
    (commitTurn.hasAuthority = true ∧ commitTurn.nextCommit = some commitR ∧ commitTurn.maintTurn (.hostReq 7) = true ∧
      commitTurn.commitReady = true ∧ commitTurn.map = some map0 ∧ opsOf map0.blk (leBytes 16 0) = some [] ∧ ∃ e e2 l,
      (commitTurn.dropMaint (.hostReq 7)).readDev (commitR.who 6) 0x10000000 16 = (e, .ok (leBytes 16 0)) ∧ e.mem = (commitTurn.dropMaint (.hostReq 7)).mem ∧
      e.shard = commitTurn.shard ∧ commitW.bad = false ∧ commitW.conflict = false ∧ commitW.short = 0 ∧
      e.readRanges (commitR.who 6) commitW.reads = (e2, .ok l)) ∧
    (({ ready with map := some oldMap, now := 10 } : Dev).map = some oldMap ∧ oldMap.retired ≠ oldMap.epoch ∧
      oldMap.pubNow + 1000 * mbHoldUs oldMap.blk ≤ 10 ∧ ready.runs = []) ∧
    ((maint .mapRebuild { ready with map := some rebMap }).maintTurn .mapRebuild = true ∧ rebMap.rebuild = some ⟨4, 0, true, [List.replicate 16 0], 0⟩) ∧
    ready.hostUp = true := by
  obtain ⟨e, l, h⟩ := okOf (x := ((commitTurn.dropMaint (.hostReq 7)).readDev (commitR.who 6) 0x10000000 16).1.readRanges (commitR.who 6)
    commitW.reads) (by decide +kernel)
  exact ⟨⟨by decide +kernel, by decide +kernel, by decide +kernel, by decide +kernel, by decide +kernel, by decide +kernel,
    ((commitTurn.dropMaint (.hostReq 7)).readDev (commitR.who 6) 0x10000000 16).1, e, l, okIs (by decide +kernel), by decide +kernel,
    by decide +kernel, by decide +kernel, by decide +kernel, by decide +kernel, h⟩, by decide +kernel, by decide +kernel, by decide⟩

/-- A source on the sigma-delta stream 0x220, and a track of it with two speculative slots and an output ring. -/
def src0 : FSrc := ⟨leBytes 2 0x220 ++ List.replicate 62 0, [], none, false, 0, 0, none, []⟩
def track1 : Track :=
  { track0 with srcs := [src0], blk := [0, 0, 1, 0, 0, 2] ++ List.replicate 26 0 ++ leBytes 8 0x10001000 ++ leBytes 2 4 ++ leBytes 2 100 ++ List.replicate 90 0 }

/-- A tail region of one segment; a run of an entry of the track, eligible, when the time has reached 10 ms. -/
def tail0 : Region := ⟨0x10000000, 512, 3, 0, 0, 0, 1, 0⟩
def poseR : Run := { run9 (.entry 3) with eligible := true, started := some 10, streams := [], tasks := [] }
def trackDev (k : Track) : Dev :=
  let d := withEntry due 10000000
  { d with tracks := [k], runs := [poseR], mem := d.mem.put 0x10000000 (List.replicate 64 0), wbs := [{ wb0 with place := [tail0] }] }

def oldTrack : Track := { track1 with grid := 1000000 }
def poseW : Dev × Option AccErr :=
  ((trackDev track1).markStarted 9).write (poseR.who 6 0 none) (track1.outRing + 128 * (0 % max 1 track1.outSlots))
    (((trackDev track1).markStarted 9).poseRecord track1 3 (((trackDev track1).markStarted 9).toTrack track1 5)
      (((trackDev track1).markStarted 9).toTrack track1 500) (((trackDev track1).markStarted 9).toTrack track1 (outInstant 500 10))).1

def windowServe : Dev := { withRun windowDev { overR with src := .req 7 } with tracks := [track0] }
def windowW : Dev × Option AccErr :=
  (windowServe.markStarted 9).write ({ overR with src := .req 7 }.who 6 0 none) 0x10001000 (track0.windowResult 0xFF00 0 0)

theorem witness_OrreryProceeds :
    ((trackDev track1).track 0 = some track1 ∧ track1.admitted = true ∧ track1.lane = some 0 ∧
      nextOnGrid ((trackDev track1).gridPeriod track1) ((trackDev track1).gridOffset track1) track1.grid ≤ (trackDev track1).trackNow track1 ∧
      (trackDev track1).isFenced 6 track1.island = false) ∧
    ((trackDev track1).run 9 = some poseR ∧ track1.srcs[0]? = some src0 ∧ poseR.eligible = true ∧ poseR.applied = false ∧ poseR.part = track1.part ∧
      src0.camera = false ∧ (∃ e, ((trackDev track1).markStarted 9).readRanges (poseR.who 6 0 none) ((0x10000000, 64) :: []) =
        (e, .ok (List.replicate 64 0))) ∧
      track1.grid ≤ ((stampOf src0.kind (List.replicate 64 0) : Int) - src0.delayNs).toNat + track1.histNs) ∧
    ((trackDev oldTrack).track 0 = some oldTrack ∧ (∃ e, ((trackDev oldTrack).markStarted 9).readRanges (poseR.who 6 0 none) ((0x10000000, 64) :: []) =
        (e, .ok (List.replicate 64 0))) ∧
      ((stampOf src0.kind (List.replicate 64 0) : Int) - src0.delayNs).toNat + oldTrack.histNs < oldTrack.grid) ∧
    ((trackDev track1).wb 0 = some { wb0 with place := [tail0] } ∧ (trackDev track1).parts = 1 ∧ track1.frames.length < track1.depth ∧
      0 < maxBy (fun (x : Region) => if x.kind = 3 then x.segs else 0) [tail0] ∧ track1.cometOff = false ∧ poseR.specFrame = false ∧
      track1.frames = []) ∧
    (poseR.src = .entry 3 ∧ (trackDev track1).entry 3 = some due ∧ 10 ≤ (trackDev track1).schedNow 0 ∧ poseR.rel ≤ 10 ∧ poseR.streams = [] ∧
      poseR.tasks = [] ∧ (trackDev track1).corrPending poseR [] = false ∧ due.channel = none ∧
      outInstant poseR.prom 10 ≤ (trackDev track1).schedNow 0 ∧ ∃ d2, poseW = (d2, none)) ∧
    (src0.cause = none ∧ src0.newest.getD track1.lastPass + src0.extrapMax < (trackDev track1).trackNow track1) ∧
    ((trackDev { track1 with state := 1 }).track 0 = some { track1 with state := 1 } ∧
      track1.lastPass + track1.coastMax < (trackDev { track1 with state := 1 }).trackNow track1) ∧
    (windowServe.req 7 = some windowR ∧ windowServe.runs.find? (fun r => decide (r.src = .req 7)) = some { overR with src := .req 7 } ∧
      windowServe.track (dArg1 windowB % 256) = some track0 ∧ windowR.win = some (0, 0) ∧ dOpc windowB = 0x60 ∧ 0 ≤ track0.grid ∧
      overR.streams = [] ∧ overR.tasks = [] ∧ overR.copies = [] ∧ ∃ e, windowW = (e, none)) := by
  refine ⟨by decide +kernel, ⟨by decide +kernel, by decide +kernel, by decide +kernel, by decide +kernel, by decide +kernel, by decide +kernel,
      ⟨_, okIs (by decide +kernel)⟩, by decide +kernel⟩, ⟨by decide +kernel, ⟨_, okIs (by decide +kernel)⟩, by decide +kernel⟩,
    by decide +kernel,
    ⟨by decide +kernel, by decide +kernel, by decide +kernel, by decide +kernel, by decide +kernel, by decide +kernel, by decide +kernel,
      by decide +kernel, by decide +kernel, noneOf (by decide +kernel)⟩, by decide +kernel, by decide +kernel,
    ⟨by decide +kernel, by decide +kernel, by decide +kernel, by decide +kernel, by decide +kernel, by decide +kernel, by decide +kernel,
      by decide +kernel, by decide +kernel, noneOf (by decide +kernel)⟩⟩

/-! ### Witnesses: the tensor arrays -/

/-- An instruction word: opcode, D, S, T, U and the lower bits. -/
def word (op d s t u low : Nat) : Nat := op * 2 ^ 56 + d * 2 ^ 51 + s * 2 ^ 46 + t * 2 ^ 41 + u * 2 ^ 36 + low

def stream0 (rs : List Nat) : Stream :=
  { array := 0, q := 0, pc := 0, a := rs.map (BitVec.ofNat 64) ++ List.replicate (32 - rs.length) 0, l := List.replicate 8 0, loops := [],
    ops := [], spec := none, wait := .none, inStep := true, ended := false, arrived := [] }

def runS (s : Stream) : Run := { run9 (.req 7) with eligible := true, started := some 3, streams := [s], tasks := [] }

/-- Stream 0 of array 0 about to execute `w`, its code and a mover descriptor in T1, a tail region of one segment and tree 5 on arrays 0 and 1. -/
def seqDev (w : Nat) (s : Stream) : Dev :=
  { withRun admitted (runS s) with
    mem := (ready.mem.put 0x10008000 (leBytes 8 w)).put 0x10009000 plainB
    wbs := [{ wb0 with
      code := [(0, 0x10008000, 1)]
      place := [⟨0x20000, 4096, 3, 0, 0, 0, 1, 0⟩]
      trees := [⟨5, 3, 0⟩] }] }

def regs0 : List Nat := [0, 0x10000, 0x20000, 0x30000, 0]

def does (w op : Nat) (rs : List Nat) (p : Ins → Dev → Bool) : Bool :=
  match (seqDev w (stream0 rs)).issued 0 0 op with
  | some (i, e) => p i e
  | none => false

theorem issuesOf {w op : Nat} {rs : List Nat} {p : Ins → Dev → Bool} (h : does w op rs p = true) :
    ∃ i e, Issues (st (seqDev w (stream0 rs))) 0 0 op i e ∧ p i e = true := by
  unfold does at h
  split at h
  · rename_i i e x
    exact ⟨i, e, ⟨by decide, by decide, x⟩, h⟩
  · cases h

def plain (op low : Nat) : Bool := does (word op 4 1 2 3 low) op regs0 (fun _ _ => true)

theorem witness_IntegerChunkSaturates : (5 : Int) = (0 : BitVec 32).toInt + ([((5 : Int), (1 : Int))].map (fun p => p.1 * p.2)).sum := by decide

theorem witness_AddressInstructionsWriteD :
    (∀ op, op ∈ [0x00, 0x02, 0x10, 0x11, 0x12, 0x13, 0x14, 0x15, 0x16, 0x18] →
      ∃ i e, Issues (st (seqDev (word op 4 1 2 3 0) (stream0 regs0))) 0 0 op i e) ∧
    (∃ i e, Issues (st (seqDev (word 9 4 1 2 3 0) (stream0 regs0))) 0 0 9 i e ∧ bitOf i.w 33 = false) ∧
    (∀ k, k < 3 → ∃ i e, Issues (st (seqDev (word 0x17 4 1 2 3 (64 * k + 3)) (stream0 regs0))) 0 0 0x17 i e ∧ bitsOf i.w 7 6 = k) := by
  refine ⟨fun op h => ?_, ?_, fun k h => ?_⟩
  · have : plain op 0 = true := by
      revert h
      revert op
      decide +kernel
    obtain ⟨i, e, x, -⟩ := issuesOf this
    exact ⟨i, e, x⟩
  · obtain ⟨i, e, x, y⟩ := issuesOf (w := word 9 4 1 2 3 0) (op := 9) (rs := regs0) (p := fun i _ => !bitOf i.w 33) (by decide +kernel)
    exact ⟨i, e, x, by simpa using y⟩
  · have : does (word 0x17 4 1 2 3 (64 * k + 3)) 0x17 regs0 (fun i _ => decide (bitsOf i.w 7 6 = k)) = true := by
      revert h
      revert k
      decide +kernel
    obtain ⟨i, e, x, y⟩ := issuesOf this
    exact ⟨i, e, x, of_decide_eq_true y⟩

/-- A stream that speculates on segment 0, with the frame of its track. -/
def spec0 : Stream := { stream0 regs0 with spec := some ⟨0, 0, 0, [], [], [], [], 0⟩ }
def specDev (w : Nat) : Dev := { seqDev w spec0 with tracks := [{ track0 with frames := [⟨0, 9, []⟩] }] }

def specDoes (w op : Nat) (p : Ins → Dev → Bool) : Bool :=
  match (specDev w).issued 0 0 op with
  | some (i, e) => p i e
  | none => false

theorem witness_ControlInstructionsGoOn :
    (∀ op, op ∈ [0x01, 0x03, 0x06, 0x0B] → ∃ i e, Issues (st (seqDev (word op 4 1 2 3 0) (stream0 regs0))) 0 0 op i e ∧
      (decide (i.s.ops = [] ∧ i.s.spec = none)) = true) ∧
    (∀ v, v < 2 → ∃ i e, Issues (st (seqDev (word 4 4 1 2 3 (2 ^ 23 * v + 2 ^ 24 * 7)) (stream0 regs0))) 0 0 4 i e ∧
      (e.flagReadable i.run.part i.flagIx && (decide (e.flag i.flagIx = iV i.w) == decide (v = 0))) = true) ∧
    (∀ c, c < 2 → ∃ i e, Issues (st (seqDev (word 5 4 1 2 3 (2 ^ 20 * c)) (stream0 regs0))) 0 0 5 i e ∧
      (condOk (bitsOf i.w 23 20) i.sv i.tv == decide (c = 1)) = true) ∧
    (∃ i e, Issues (st (seqDev (word 7 4 1 2 3 0) (stream0 regs0))) 0 0 7 i e ∧
      (decide (i.s.ops = [] ∧ i.s.array = 0 ∧ (e.specTrack i.run.id (bitsOf i.w 1 0)) = none) && (e.tailSeg i.run.wb 0 (bitsOf i.w 1 0)).isSome) = true) ∧
    (∃ i e, Issues (st (seqDev (word 8 4 1 2 3 0) (stream0 regs0))) 0 0 8 i e ∧ decide ((i.s.spec.map (·.seg)) ≠ some (bitsOf i.w 1 0)) = true) ∧
    (∃ i e, Issues (st (specDev (word 8 4 1 2 3 0))) 0 0 8 i e ∧
      (decide ((i.s.spec.map (·.seg)) = some (bitsOf i.w 1 0)) && (e.specTrack i.run.id (bitsOf i.w 1 0)).isSome) = true) ∧
    (∃ i e, Issues (st (seqDev (word 0xA 4 1 2 3 0) (stream0 regs0))) 0 0 0xA i e ∧ decide (i.s.spec = none ∧ i.run.ctx = some 1) = true) := by
  refine ⟨fun op h => issuesOf ?_, fun v h => issuesOf ?_, fun c h => issuesOf ?_, issuesOf (by decide +kernel), issuesOf (by decide +kernel), ?_,
    issuesOf (by decide +kernel)⟩
  · revert h; revert op; decide +kernel
  · revert h; revert v; decide +kernel
  · revert h; revert c; decide +kernel
  · have h : specDoes (word 8 4 1 2 3 0) 8 (fun i e =>
      decide ((i.s.spec.map (·.seg)) = some (bitsOf i.w 1 0)) && (e.specTrack i.run.id (bitsOf i.w 1 0)).isSome) = true := by decide +kernel
    unfold specDoes at h
    split at h
    · rename_i i e x
      exact ⟨i, e, ⟨by decide, by decide, x⟩, h⟩
    · cases h

def free (e : Dev) (i : Ins) (rs ws : List (Nat × Nat)) : Bool := !e.hazard i rs ws && e.specFree i rs ws

theorem freeOf {e : Dev} {i : Ins} {rs ws : List (Nat × Nat)} (h : free e i rs ws = true) : Free e i rs ws := by
  simpa [free, Free] using h

def mayPush (e : Dev) (i : Ins) : Bool :=
  decide (i.s.ops.length < 64) && !(e.opWrites i.run.part i.s.array i.op).any (fun r => e.isProtected r.1 r.2) &&
    free e i (e.opReads i.run.part i.s.array i.op) (e.opWrites i.run.part i.s.array i.op)

theorem mayPushOf {e : Dev} {i : Ins} (h : mayPush e i = true) : MayPush e i := by
  simp only [mayPush, Bool.and_eq_true, decide_eq_true_eq, Bool.not_eq_true'] at h
  exact ⟨h.1.1, h.1.2, freeOf h.2⟩

/-- Stream 0 waits for flag 7, which is 0; the stream waits at tree 5, whose two arrays have arrived. -/
def flagWaiter : Dev := seqDev 0 { stream0 regs0 with wait := .flag 7 1 false false }
def waiter : Dev :=
  { seqDev 0 { stream0 regs0 with wait := .barrier 5 0 } with trees := [(5, ⟨0, [0, 1], some 9⟩)] }

theorem witness_FlagsAndMemoryInstructionsGoOn :
    (∃ i e, Issues (st (seqDev (word 0x19 4 1 2 3 8) (stream0 regs0))) 0 0 0x19 i e ∧
      (decide (i.ea % 8 = 0) && free e i [(i.ea, 8)] [] && (e.read i.who [] i.ea 8).2.toBool) = true) ∧
    (∃ i e, Issues (st (seqDev (word 0x1A 4 1 2 3 8) (stream0 regs0))) 0 0 0x1A i e ∧
      (decide (i.ea % 8 = 0) && free e i [] [(i.ea, 8)] && (e.write i.who i.ea (leBytes 8 i.tv)).2.isNone) = true) ∧
    (∃ i e, Issues (st (seqDev (word 0x1B 4 1 2 3 0) (stream0 regs0))) 0 0 0x1B i e ∧ e.flagReadable i.run.part i.flagIx = true) ∧
    (∃ i e, Issues (st (seqDev (word 0x4C 4 1 2 3 0) (stream0 regs0))) 0 0 0x4C i e ∧
      (e.flagWritable i.run.part i.flagIx && decide (i.s.ops = [] ∧ i.s.spec = none)) = true) ∧
    (∀ v, v < 2 → ∃ i e, Issues (st (seqDev (word 0x50 4 1 2 3 (2 ^ 23 * v)) (stream0 regs0))) 0 0 0x50 i e ∧
      (e.flagReadable i.run.part i.flagIx && !iClr i.w && (decide (e.flag i.flagIx = iV i.w) == decide (v = 0))) = true) ∧
    (∃ i e, Issues (st (seqDev (word 0x51 4 1 2 3 3) (stream0 regs0))) 0 0 0x51 i e ∧
      (!iClr i.w && decide (bitsOf i.w 5 0 = 3) && (List.range 4).all (fun k => e.flagReadable i.run.part (i.flagIx + k) &&
        decide (e.flag (i.flagIx + k) = iV i.w))) = true) ∧
    (∃ i e, Issues (st (seqDev (word 0x52 4 1 2 3 0x45) (stream0 regs0))) 0 0 0x52 i e ∧
      ((e.treeArrays i.run (bitsOf i.w 5 0)).any (fun as => decide (i.s.array ∈ as)) &&
        decide (bitsOf i.w 7 6 = 1 ∧ i.s.array ∉ (e.treeOf i.run (bitsOf i.w 5 0)).arrived ∧ i.s.ops = [] ∧ i.s.spec = none)) = true) ∧
    (∃ r s, flagWaiter.current 0 0 = some (r, s) ∧ s.wait = .flag 7 1 false false ∧ flagWaiter.flagsAre 7 1 false = true) ∧
    (∃ r as, (waiter.tree 5).run.bind waiter.run = some r ∧ waiter.treeArrays r 5 = some as ∧
      as.filter (fun a => r.streams.any (fun x => decide (x.array = a))) = [0] ∧ 0 ∈ (waiter.tree 5).arrived) := by
  refine ⟨issuesOf (by decide +kernel), issuesOf (by decide +kernel), issuesOf (by decide +kernel), issuesOf (by decide +kernel),
    fun v h => issuesOf ?_, issuesOf (by decide +kernel), issuesOf (by decide +kernel),
    ⟨runS { stream0 regs0 with wait := .flag 7 1 false false }, { stream0 regs0 with wait := .flag 7 1 false false }, by decide +kernel, rfl,
      by decide +kernel⟩,
    ⟨runS { stream0 regs0 with wait := .barrier 5 0 }, [0, 1], by decide +kernel, by decide +kernel, by decide +kernel, by decide +kernel⟩⟩
  revert h; revert v; decide +kernel

/-- A stream with one outstanding operation. -/
def opS : Stream := { stream0 regs0 with ops := [⟨word 0x30 4 1 2 3 0, 0, 0x10000, 0x20000, 0x30000, 0, none⟩] }

def mmaOk (i : Ins) (e : Dev) : Bool :=
  !e.dpuTaken i && e.tileOk i i.sv (mmaBytes i.w) && e.tileOk i i.tv (mmaBytes i.w) && (!bitOf i.w 25 || e.tileOk i i.uv 4096) && mayPush e i

def accLdOk (i : Ins) (e : Dev) : Bool :=
  e.tileOk i i.sv 4096 && !e.dpuBusy i && free e i [(i.sv, 4096)] [] &&
    (e.checkAll i.who (dedup ((e.outParts i.run.part i.s.array 0 i.sv).map (fun x => x.1 / 64)))).2.isNone

def accStOk (i : Ins) (e : Dev) : Bool :=
  e.tileOk i i.sv 4096 && !e.dpuBusy i && free e i [] [(i.sv, 4096)] &&
    (e.writeList i.who (e.outParts i.run.part i.s.array (iAcc i.w) i.sv)).2.isNone

def moveOk (i : Ins) (e : Dev) : Bool :=
  let x := e.read i.who [] i.sv 64
  decide (e.resPart (0x0A * 64 + bitsOf i.w 35 32) = some i.run.part ∧ i.s.ops.length < 64 ∧ i.s.spec = none ∧ i.sv % 64 = 0 ∧ tierOf i.sv ≠ 0) &&
    e.permits i.run.part i.run.ctx i.sv 64 false && !isPeer i.sv && free e i [(i.sv, 64)] [] && decide (x.2.toOption = some plainB) &&
    decide (x.1.moverBad i.run.part i.run.ctx (moveDesc i plainB) = none) &&
    free x.1 i (if mvZero (moveDesc i plainB) then [] else [footprint (moveDesc i plainB) true]) [footprint (moveDesc i plainB) false]

def putOk (i : Ins) (e : Dev) : Bool :=
  e.ownT0 i.run.part i.s.array i.sv (iLen i.w) && e.permits i.run.part i.run.ctx i.tv (iLen i.w) true && !e.isProtected i.tv (iLen i.w) &&
    decide (i.s.ops.length < 64) && free e i [(i.sv, iLen i.w)] [(i.tv, iLen i.w)] && !isPeer i.tv

def getOk (i : Ins) (e : Dev) : Bool :=
  e.ownT0 i.run.part i.s.array i.tv (iLen i.w) && e.permits i.run.part i.run.ctx i.sv (iLen i.w) false && !e.isProtected i.tv (iLen i.w) &&
    decide (i.s.ops.length < 64) && free e i [(i.sv, iLen i.w)] [(i.tv, iLen i.w)] && !isPeer i.sv && !isT3 i.sv

def atomicOk (i : Ins) (e : Dev) : Bool :=
  let n := if bitOf i.w 1 then 8 else 4
  decide (i.sv % n = 0 ∧ i.s.ops.length < 64 ∧ i.s.spec = none) && !isT3 i.sv && e.permits i.run.part i.run.ctx i.sv n false &&
    e.permits i.run.part i.run.ctx i.sv n true && !e.isProtected i.sv n && free e i [(i.sv, n)] [(i.sv, n)] && !isPeer i.sv

theorem witness_ArrayOperationsIssueAndComplete :
    (∀ u, u < 2 → ∃ i e, Issues (st (seqDev (word 0x20 4 1 2 3 (2 ^ 25 * u)) (stream0 regs0))) 0 0 0x20 i e ∧ mmaOk i e = true) ∧
    (∃ i e, Issues (st (seqDev (word 0x21 4 1 2 3 0) (stream0 regs0))) 0 0 0x21 i e ∧ accLdOk i e = true) ∧
    (∃ i e, Issues (st (seqDev (word 0x22 4 1 2 3 0) (stream0 regs0))) 0 0 0x22 i e ∧ accStOk i e = true) ∧
    (∀ op, op ∈ [0x30, 0x31, 0x32, 0x33, 0x34, 0x35, 0x36, 0x37] →
      ∃ i e, Issues (st (seqDev (word op 4 1 2 3 0) (stream0 regs0))) 0 0 op i e ∧ (e.vxuFits i && mayPush e i) = true) ∧
    (∃ i e, Issues (st (seqDev (word 0x40 4 1 2 3 0) (stream0 [0, 0x10009000, 0, 0]))) 0 0 0x40 i e ∧ moveOk i e = true) ∧
    (∃ i e, Issues (st (seqDev (word 0x48 4 1 2 3 63) (stream0 [0, 0x10000, 0x10002000]))) 0 0 0x48 i e ∧ putOk i e = true) ∧
    (∃ i e, Issues (st (seqDev (word 0x49 4 1 2 3 63) (stream0 [0, 0x10002000, 0x10000]))) 0 0 0x49 i e ∧ getOk i e = true) ∧
    (∀ op, op ∈ [0x4A, 0x4B] → ∃ i e, Issues (st (seqDev (word op 4 1 2 3 2) (stream0 [0, 0x10002000, 5]))) 0 0 op i e ∧ atomicOk i e = true) ∧
    (∃ r s o, ((seqDev 0 opS).opsOn 0 0)[0]? = some (r, s, o) ∧ o.tag = none ∧ iOp o.word ≠ 0x20 ∧ checkOk ⟨2, .vxu, 0⟩ = true ∧
      faultFits ⟨2, .vxu, 0⟩ o = true) := by
  refine ⟨fun u h => issuesOf ?_, issuesOf (by decide +kernel), issuesOf (by decide +kernel), fun op h => issuesOf ?_,
    issuesOf (by decide +kernel), issuesOf (by decide +kernel), issuesOf (by decide +kernel), fun op h => issuesOf ?_,
    ⟨runS opS, opS, ⟨word 0x30 4 1 2 3 0, 0, 0x10000, 0x20000, 0x30000, 0, none⟩, by decide +kernel, rfl, by decide +kernel, by decide, by decide +kernel⟩⟩
  · revert h; revert u; decide +kernel
  · revert h; revert op; decide +kernel
  · revert h; revert op; decide +kernel

theorem witness_StreamInstructionFrame : (ready.set R.PMC_CTRL.FREEZE 0 0 1).bit R.PMC_CTRL.FREEZE 0 0 = true ∧ 4 < (stream0 regs0).a.length ∧
    (5 : Nat) ≠ 4 := by decide +kernel

/-! ### Witnesses: the peer link and safety -/

/-- A ring of members 0 and 1, of which the device is 0; port 0 in state `n`; members `r` reached. -/
def ring (n r : Nat) : Dev :=
  ((((ready.set R.PLK_GROUP.TOPO 0 0 1).set R.PLK_GROUP.MEMBERS 0 0 3).set R.PLK_PORT_STAT.STATE 0 0 n).set R.PLK_GSTAT.REACH 0 0 r)

def ident1 : Identity := ⟨1, 0, 1, 1, 3, 0, false, false, 0, 4, 3⟩

theorem witness_PeerPortsAct :
    (ring 1 1).portState 0 = 1 ∧ ((ring 2 1).portState 0 = 2 ∧ (ring 2 1).mismatch 0 ident1 = none) ∧
    ((ring 3 1).portState 0 = 3 ∧ (ring 3 1).isMember ident1.devId = true ∧ ident1.devId ≠ (ring 3 1).devId) ∧
    (2 ≤ (ring 3 1).portState 0 ∧ (ring 3 1).laneActive 0 0 = true) ∧
    ((ring 3 1).topo ≠ 0 ∧ (ring 3 1).bit R.PLK_GSTAT.QUIET 0 0 = false) ∧
    ({ ring 0 1 with plk := { (ring 0 1).plk with healPend := true } } : Dev).healed = true := by decide +kernel

/-- Window 0 of the peer link: 64 KiB of T1 and flags 0 to 7, for member 1. -/
def granting : Dev :=
  (((((((ring 3 3).set R.PLK_PWIN_CFG.VALID 0 0 1).set R.PLK_PWIN_CFG.SIZE 0 0 1).set R.PLK_PWIN_BASE.DA 0 0 0x1000).set
    R.PLK_PWIN_PEERS.WR 0 0 2).set R.PLK_PWIN_PEERS.RD 0 0 2).set R.PLK_PWIN_FLAGS.COUNT 0 0 8)

def l4 : L4 := ⟨6, 1, 9, 0, 0, 4, none⟩

theorem witness_PeerOperationsAct :
    (granting.topo ≠ 0 ∧ granting.isMember 1 = true ∧ 1 ≠ granting.devId) ∧
    (∀ op, op ∈ [PeerOp.put [1, 2, 3], .get 64, .atomicAdd true 5, .atomicMax false true 5] → 0 < (opSpan op).1 ∧ (opSpan op).1 ≤ 65536 ∧
      granting.granted 1 0x10000000 (opSpan op).1 (opSpan op).2 = true) ∧ 0x10000000 % 8 = 0 ∧
    (granting.isMember 5 = false ∧ granting.granted 1 0x20000000 64 false = false) ∧
    (({ granting with plk := { granting.plk with ops := [l4] } } : Dev).plk.ops.find? (fun o => decide (o.tag = 6)) = some l4 ∧
      ({ granting with plk := { granting.plk with ops := [l4] } } : Dev).plk.ops.find? (fun x => decide (x.member = l4.member)) = some l4) ∧
    (granting.relayGranted 1 7 = true ∧ granting.relayGranted 1 8 = false) := by decide +kernel

/-- The group may sleep; one member alone is its own next one. -/
def calmDev (r lap : Nat) : Dev :=
  let d := ((ring 4 r).set R.PLK_SLEEP.EN 0 0 1)
  { d with now := 10 ^ 9, plk := { d.plk with quietSince := some 0, lap := lap, voted := true } }

/-- An entry whose job serves queries of the index for other devices. -/
def serveDev : Dev :=
  { withEntry entry3 0 with
    idxs := [idx0]
    wbs := [{ wb0 with jobs := [{ job 0 0 with searches := [[0, 1, 8, 0, 1, 0, 8, 0, 8, 0, 0, 0] ++ leBytes 4 9] }] }] }
def asking : RemoteQuery := ⟨9, 0, 1, 4, 0, 0, 1, 1, 1, 0, []⟩
def fanned : Search := { search0 true with shards := [1], tag := 4 }

theorem witness_GroupSleepsAndSearches :
    ((calmDev 3 0).topo ≠ 0 ∧ (calmDev 3 0).bit R.PLK_GSTAT.QUIET 0 0 = false ∧ (calmDev 3 0).leader = (calmDev 3 0).devId ∧
      (calmDev 3 0).plk.lap = 0 ∧ (calmDev 3 0).votesQuiet = true ∧ (calmDev 3 0).nextMember 0 ≠ 0 ∧ (calmDev 1 0).nextMember 0 = 0 ∧
      (calmDev 1 0).votesQuiet = true ∧ (calmDev 3 1).plk.lap = 1) ∧
    ((calmDev 3 0).portState 0 = 4 ∧ (ring 3 1).portState 0 = 3 ∧ (calmDev 3 0).plk.voted = true) ∧ ready.hostUp = true ∧
    (asking.requester < 16 ∧ serveDev.idxById asking.indexId.toNat = some idx0 ∧
      serveDev.mem.word (ixRoot idx0.blk + 36) 4 = asking.cbCrc.toNat ∧ idx0.remote.length < 1024 ∧ serveDev.serves idx0 asking = true) ∧
    ({ pseDev true with searches := [fanned] } : Dev).searches.find? (fun s => decide (1 ∈ s.shards ∧ s.tag ≤ 4 ∧ 4 < s.tag + s.queries.length)) =
      some fanned := by decide +kernel

/-- A safety channel 2 with the pose records of both copies, an entry of copy A; the safety partition 0 has gone OPERATIONAL. -/
def chan2 (a b : List Byte) (w : Option (Nat × Nat × List Byte)) : SafChan :=
  ⟨2, [2, 1, 0, 1] ++ List.replicate 60 0, 0, none, none, some (5, a), some (5, b), [], [], w, false, 0, []⟩

def safDev (c : SafChan) : Dev :=
  let d := (readySafe.set R.SAF_STATUS.OPER 0 0 1).set R.PLK_GROUP.TOPO 0 0 1
  let d := at_ d 10000000
  { d with saf := { d.saf with chans := [c], driving := true, nextEdge := 9960000 }
           cal := { d.cal with entries := [{ entry3 with channel := some (2, 0) }] } }

theorem witness_SafetyChannelsAct :
    ((safDev (chan2 [1] [1] none)).chan 2 = some (chan2 [1] [1] none) ∧ (safDev (chan2 [1] [1] none)).chanEntry (chan2 [1] [1] none) 0 =
        some { entry3 with channel := some (2, 0) } ∧ (safDev (chan2 [1] [1] none)).safeNow = false ∧
      slice [(1 : Byte)] 0 128 ≠ slice [2] 0 128 ∧ ({ chan2 [1] [1] none with blk := [2, 0] } : SafChan).xcmp = false) ∧
    (((safDev (chan2 [1] [1] none)).set R.SAF_STATUS.SAFE 0 0 1).safeNow = true) ∧
    ((chan2 [1] [1] (some (5, 6, []))).waiting = some (5, 6, []) ∧ 6 + 100000 ≤ (safDev (chan2 [1] [1] none)).schedNow 0) ∧
    ((safDev (chan2 [1] [1] none)).topo ≠ 0 ∧ (chan2 [1] [1] none).xcmp = true ∧ (chan2 [1] [1] none).peer = 1 ∧
      (chan2 [1] [1] none).waiting = none) ∧
    ((safDev (chan2 [1] [1] none)).pulsing = true ∧ (safDev (chan2 [1] [1] none)).saf.nextEdge ≤ (safDev (chan2 [1] [1] none)).now ∧
      (safDev (chan2 [1] [1] none)).saf.driving = true ∧
      (safDev (chan2 [1] [1] none)).saf.nextEdge ≤ (safDev (chan2 [1] [1] none)).now + 49000) := by decide +kernel

theorem witness_ClearanceAndDeviceCauses :
    (ready.pwr.porN = true ∧ ready.saf.clr.level = false ∧ ready.saf.clr.first = false) ∧
    (({ ready with now := 10000000, saf := { ready.saf with clr := ⟨true, some 0, none, false⟩ } } : Dev).lasted (some 0) 5 50 = true) ∧
    (ready.set R.SAF_STATUS.CLR_BUSY 0 0 1).bit R.SAF_STATUS.CLR_BUSY 0 0 = true ∧ ready.saf.testBad = false := by decide +kernel

/-! ### Witnesses: sparing, annals, power -/

/-- Column 3 of array 0 has read below its floor since 0. -/
def below0 (d : Dev) : State := st { d with now := 2000000, spr := { d.spr with below := [(⟨8, 3⟩, 0)] } }

theorem witness_WearIsWatched :
    islandOk ⟨8, 3⟩ = true ∧ ((below0 ready).dev.spr.below.lookup ⟨8, 3⟩ = some 0 ∧ 0 + 1000000 ≤ (below0 ready).dev.now ∧
      ((below0 ready).dev.islandParts ⟨8, 3⟩).any (below0 ready).dev.isSafe = false ∧
      ((below0 readySafe).dev.islandParts ⟨8, 3⟩).any (below0 readySafe).dev.isSafe = true) ∧
    ((100 : Nat) ≠ 0 ∧ ready.spr.drift.any (fun y => decide (y.1 = (⟨8, 3⟩ : Island))) = false) ∧
    ((⟨8, 3⟩ : Island).unit < 136 ∧ (⟨8, 3⟩ : Island) ∉ ready.spr.fenced ∧ ready.get R.TA_COL_STAT.ROLE 0 3 ≠ 3 ∧
      NonVol.reset.spareMap.any (fun r => r.spare.isNone && decide (fencedUnit r.pool r.inst r.unit = some (⟨8, 3⟩ : Island))) = false) := by
  decide +kernel

/-- An eclipse of column 3 whose turn it is; one whose pool is empty; one of many steps. -/
def eclipse (pool : Nat) (sp : Option Nat) : Eclipse := ⟨4, pool, 0, 3, true, 0, 0, sp⟩
def eclipseDev (e : Eclipse) : Dev := maint (.eclipse 4) { ready with spr := { ready.spr with queue := [e] } }
def usedUp : NonVol := { NonVol.reset with spareMap := [⟨1, 0, 5, some 0⟩, ⟨1, 0, 6, some 1⟩] }

theorem witness_EclipsesProceed :
    (0 < (eclipseDev (eclipse 1 none)).parts ∧ (eclipseDev (eclipse 1 none)).nextMaint 0 = some ⟨0, .eclipse 4, 0⟩ ∧
      (eclipseDev (eclipse 1 none)).spr.queue.find? (fun e => decide (e.id = 4)) = some (eclipse 1 none) ∧
      ((eclipseDev (eclipse 1 none)).takeSpare NonVol.reset 1 0 3).isSome = true ∧ eclipseSteps 1 ≤ 0 + 1) ∧
    ((eclipseDev (eclipse 4 (some 0))).nextMaint 0 = some ⟨0, .eclipse 4, 0⟩ ∧
      (eclipseDev (eclipse 4 (some 0))).spr.queue.find? (fun e => decide (e.id = 4)) = some (eclipse 4 (some 0)) ∧ 0 + 1 < eclipseSteps 4) ∧
    (eclipseDev (eclipse 1 none)).takeSpare usedUp 1 0 3 = none := by decide +kernel

theorem witness_TestsProceed :
    (0 < ready.parts ∧ nthGranule (ready.scrubRanges 0 1) (SMap.read 0 ready.scrub (scrubKey 0 1)) = some 0x400000 ∧
      (nthGranule (ready.scrubRanges 0 1) (SMap.read 0 ready.scrub (scrubKey 0 1) + 1)).isSome = true) ∧
    ([(⟨8, 3⟩ : Island)].all siteOk = true ∧ ({ ready with spr := { ready.spr with suspects := [⟨8, 3⟩] } } : Dev).islandPart ⟨8, 3⟩ = 0) ∧
    (0 < readySafe.parts ∧ readySafe.spr.suspects = [] ∧ readySafe.isSafe 0 = true) := by decide +kernel

def annRec : AnnRec := ⟨1, 2, 3, 4, 5, 6, []⟩

theorem witness_AnnalsAreWrittenAndRead :
    (({ ready with ann := { ready.ann with queue := [annRec] } } : Dev).ann.queue = [annRec] ∧ ready.ann.final = false) ∧
    (ready.pwr.porN = true ∧ ready.pwr.pwrFailN = true ∧ ({ ready with pwr := { ready.pwr with pwrFailN := false } } : Dev).pwr.pwrFailN = false) ∧
    (({ ready with ann := { ready.ann with closed := true } } : Dev).ann.closed = true ∧ ready.ann.queue = []) ∧
    (0x3FFFC00 % 64 = 0 ∧ 0x3FFFC00 + 64 * 16 ≤ 0x4000000) ∧ (0x3FFFC40 % 64 = 0 ∧ 0x4000000 < 0x3FFFC40 + 64 * 16) ∧
    ({ ready with pwr := { ready.pwr with cmc := true } } : Dev).pwr.cmc = true := by decide

def recorded : State := { st ready with nv := { NonVol.reset with annals := [(0x3FFFFC0, List.replicate 64 7)] } }

theorem witness_AnnalsReadWhole : recorded.dev.pwr.porN = true ∧ (17 : Nat) > 16 ∧
    (0x20000 ≤ 0x3FFFFC0 ∧ 0x3FFFFC0 % 64 = 0 ∧ 0x3FFFFC0 + 64 ≤ 0x4000000 ∧ SMap.read [] recorded.nv.annals 0x3FFFFC0 = List.replicate 64 7 ∧
      (List.replicate 64 (7 : Byte)).length = 64) := by decide +kernel

/-- A device waiting for supply `n`. -/
def awaiting (n : Nat) : Dev := { ready with now := 3000000, pwr := { ready.pwr with await := some (n, 5) } }

theorem witness_PowerStatesChange : Dev.reset.pwr.porN = false ∧ (awaiting 0).pwr.await = some (0, 5) ∧ (awaiting 4).pwr.await = some (4, 5) ∧
    ((awaiting 5).pwr.await = some (5, 5) ∧ (awaiting 5).pwr.halt = false ∧ 5 + 2000000 ≤ (awaiting 5).now) ∧
    (ready.hostUp = true ∧ ready.wakeIdle.cal.entries = [] ∧ ready.wakeIdle.reqs = [] ∧ ready.wakeIdle.ing.binds = [] ∧ ready.wakeIdle.topo = 0) ∧
    (readySafe.wakeIdle.wbs.all (fun w => readySafe.wakeIdle.isSafe w.part) = true ∧ readySafe.wakeIdle.ing.binds = [] ∧
      readySafe.wakeIdle.bit R.SAF_STATUS.OPER 0 0 = false) ∧
    ({ ready with pwr := { ready.pwr with state := .standby } } : Dev).pwr.state = .standby := by decide +kernel

theorem witness_DomainsAndThermalLimit :
    (({ ready with pwr := { ready.pwr with waking := [2, 47] } } : Dev).pwr.waking = [2, 47] ∧ ([] : List Island).all siteOk = true) ∧
    (ready.pwr.porN = true ∧ ((117 : Int) < 118 ∧ (118 : Int) ≤ 118 ∧ (125 : Int) ≤ 125 ∧ (125 : Int) < 126)) ∧
    ((ready.set R.PWR_THERM.TJ_MAX 0 0 120).thermHi ≤ (ready.set R.PWR_THERM.TJ_MAX 0 0 120).tjMax ∧
      (ready.set R.PWR_THERM.TJ_MAX 0 0 120).get R.PWR_CAP.HW 0 0 < 3 ∧
      (ready.set R.PWR_THERM.TJ_MAX 0 0 120).since (ready.set R.PWR_THERM.TJ_MAX 0 0 120).pwr.lastRaise 10000000 = true) ∧
    (0 + 1000000000 ≤ ({ ready with now := 10 ^ 10 } : Dev).now ∧ 0 < (ready.set R.PWR_CAP.HW 0 0 2).get R.PWR_CAP.HW 0 0 ∧
      ready.since ready.pwr.lastLower 1000000000 = true) := by decide +kernel

def fusing : Dev := { ready with pwr := { ready.pwr with fusing := true } }.set R.FUS_PROG_DATA.DATA 0 0 5
def programming : State := { st ready with dev := { ready with pwr := { ready.pwr with prog := some (40, 5) } } }

theorem witness_FusesAndDebugAct :
    (fusing.hostUp = true ∧ fusing.wakeIdle.pwr.prog = none ∧ fusing.wakeIdle.pwr.fusing = true ∧ ready.wakeIdle.pwr.fusing = false ∧
      ((fusing.set R.FUS_PROG_ADDR.WORD 0 0 64).wakeIdle.fuseLocked 64 5 = false) ∧ (0 : Nat) < 32) ∧
    (programming.dev.pwr.prog = some (40, 5) ∧ Nat.land (0xF5 : W32).toNat (Nat.lor (programming.nv.fuseNow 40) 5) = Nat.lor (programming.nv.fuseNow 40) 5) ∧
    ((ready.set R.FUS_WORD.VALUE 5 0 (2 ^ 31)).fuseLocked 0 5 = true ∧ 32 ≤ ({ NonVol.reset with fuseRows := 32 } : NonVol).fuseRows) ∧
    ((ready.set R.FUS_WORD.VALUE 3 0 (2 ^ 17)).debugMode = 1 ∧ ready.pwr.porN = true ∧ ready.bit R.SAF_STATUS.OPER 0 0 = false ∧
      (ready.set R.SAF_STATUS.OPER 0 0 1).bit R.SAF_STATUS.OPER 0 0 = true ∧ (ready.set R.SAF_STATUS.OPER 0 0 1).safeNow = false) ∧
    ({ ready with ctxs := [(1, { Ctx.reset with dump := some ⟨0x800000000000, 128, 10000, 0, 0, false, none⟩ })] } : Dev).ctxNow 1 = 0 := by
  decide +kernel

/-! ### Ill-formed commands (WellFormed.lean), one for each check -/

def ptp0 : PtpMsg := msg false

theorem test_wf_contexts_and_functions : [Instr.submissionDoorbell 2048 0 4 0, .submissionDoorbell 0 4096 4 0, .completionDoorbell 2048 4 4 0,
    .descriptorFetch 2048 .unsupported, .pcieCompletionTimeout none 2048, .msixModerationTimer 2048, .ctxAbort 2048, .abortDone 2048,
    .counterDumpTimer 2048, .functionLevelReset 32, .orphanQuiesceDone 32, .purgeDone (some 16), .ctxUpdate 2048 .pf0,
    .ctxUpdate 0 (.vf 0), .ctxUpdate 0 (.vf 32)].all (fun c => !c.wf) = true := by decide

theorem test_wf_registers : [Instr.blockStrobeApply 18, .registerWrite (.vf 0) 0 4 0, .annRdDataRead (.vf 32), .deviceIdRead (.ctx 2048 .pf0),
    .deviceIdRead (.ctx 0 (.vf 32)), .tbRead .glb 4, .tbSet .glb 4 0, .trigEdgeRead .glb 16, .trigWindowWrite .glb 16 0 0,
    .gmFilterWrite .glb 8 0 0, .i3cTransfer .glb 16 0 0 0, .i3cTransferDone 16 false [], .flagSnapshotRead .glb 32, .counterRead .glb 128,
    .counterWrite .glb 128 0, .mbRegisterRead .glb (2 ^ 31), .cfgParityScan 0x71].all (fun c => !c.wf) = true := by decide +kernel

theorem test_wf_units : [Instr.entryRelease 16384, .orbitBoundary 16, .rateMonitorBelowFloor ⟨8, 144⟩, .canarySample ⟨9, 17⟩ 0 1,
    .canaryStall ⟨5, 28⟩, .unitBelowFloor1ms ⟨6, 4⟩, .canaryStall ⟨10, 8⟩, .canaryStall ⟨7, 24⟩, .canaryStall ⟨0, 0⟩, .scrubStep 16 0 1,
    .scrubStep 0 4 1, .selfTestStep 16 false [], .selfTestStep 0 false [⟨9, 288⟩], .selfTestStep 0 false [⟨11, 12⟩], .moverStep 16, .nop 4 0,
    .nop 0 16, .barrierRelease 64, .seqOperationComplete 0 0 0 (some ⟨5, .vxu, 0⟩), .seqOperationComplete 0 0 0 (some ⟨1, .column 34, 0⟩),
    .rwuBand 8 false, .pyrBand 4 false, .renderLm 4 false, .slxWave 16 [] [], .slxWave 0 [] [(16, 1)], .slxWave 0 [] [(0, 3)],
    .pseWalkerStep 8 [] [], .indexEpochRetire 16, .propagationStep 32, .visualCorrection 0 0 32 0 [] false 0, .speculativeFrameStart 0 0 3,
    .poseOutput 0 32 0 [] false, .sourceExtrapTimeout 0 32].all (fun c => !c.wf) = true := by decide

theorem test_wf_ports : [Instr.trigPulse 16, .sgcGridOutput 24 [], .rxSync 8 ptp0, .rxPtpDropped 2, .syncTimeout 8, .csiLp11Detect 16,
    .csiFrameStart 0 16, .csiPacket 0 ⟨16, 0, false, false, []⟩, .streamLossTimeout 0x140, .slotCloseTimeout 0x208, .streamLossTimeout 0x218,
    .slotCloseTimeout 0x230, .streamLossTimeout 0x320, .ethStreamPacket { pkt with port := 2 }, .ethLinkDown 2, .spiDrdyEdge 8 true,
    .spiPollTimer 8, .encoderEdge 8 true true, .sdiClockLoss 16, .twinPoseCompare 16, .safetyFlit 16 (.outTime 0 0 0),
    .domainPowerUpDone 48 [], .domainPowerUpDone 0 [⟨0, 0⟩], .peerMemoryRequest 16 0 0 (.get 1), .peerMemoryRequest 0 (2 ^ 40) 0 (.get 1),
    .peerMemoryRequest 0 0 0 (.get 0), .peerMemoryRequest 0 0 0 (.get 65537), .flagRelay 0 4096, .searchQuery { asking with requester := 16 },
    .searchReply 0 16 (.refused false), .identityFrame 4 ident1, .laneLockLoss 0 3, .quietToken ⟨16, false, false⟩].all (fun c => !c.wf) = true := by
  decide

/-- An ill-formed command faults. -/
theorem test_ill_formed_faults : exec (.moverStep 16) State.reset = .fault .noSuchUnit := rfl

/-! ### The spec's worked examples -/

/-- Chapter 00, unwrapping a T32 value. -/
theorem test_unwrap_example : unwrap 0x1FFFFFF00 0x100 = 0x200000100 := by decide

/-- Chapter 07, convergent rounding of 5.5 and 4.5. -/
theorem test_convergent_rounding : convDiv 0x58 16 = 6 ∧ convDiv 0x48 16 = 4 := by decide

/-- Chapter 07, Table 07-4: lane 3 of Cell K4. -/
def lane3 : LaneCfg :=
  { lane := 3, custom := false, preset := 1, cic4 := false, fdec := 2, dec := 250, ntaps := 0, period := 250000, offset := 0, freq := 100, rate := 0,
    nch := 1 }

theorem test_lane_settling : lane3.support = 1075000 ∧ lane3.settle = 5 ∧ lane3.delay = 524850 := by decide +kernel

/-- Chapter 08, the depth of disparity code 1,800 with FB 672,000. -/
theorem test_depth_of_disparity : convDiv (672000 * 32) 1800 = 11947 := by decide

/-- Chapter 11, the NaN of a singular V of point 1,205. -/
theorem test_solver_nan : failNan 4 (2 ^ 18 + 2 ^ 17 + 3617) = 0x7FC60E21 := by decide

/-- Chapter 13, one INT8 chunk. -/
theorem test_int8_chunk : intChunk 0 [(100, -128), (-37, 64), (5, 127)] = (4294952763, false) := by decide

/-- Chapter 04, the diagonal move in T1: its footprints, and rows 7 down to 0. -/
def diagonal : List Byte :=
  [2, 0, 0, 0, 0, 0, 0, 0] ++ leBytes 8 0x10000000 ++ leBytes 8 0x10000170 ++ leBytes 4 64 ++ leBytes 2 8 ++ leBytes 2 1 ++ leBytes 4 128 ++
    leBytes 4 0 ++ leBytes 4 128 ++ leBytes 4 0 ++ List.replicate 16 0

theorem test_diagonal_move : footprint diagonal true = (0x10000000, 0x3C0) ∧ footprint diagonal false = (0x10000170, 0x3C0) ∧
    mvDesc diagonal = true ∧ (mvPiece diagonal 0 65536 64).dst = 0x10000170 + 7 * 128 := by decide

/-- Chapter 18, selectors of MEM_ERR_LOG and of TA_ERR_LOG of array 2. -/
theorem test_error_log_selectors : (regAt 0x70030).map (·.1.name) = some "MEM_ERR_LOG" ∧ R.TA_ERR_LOG.ADDR.off 2 0 = 0x88040 := by
  decide +kernel

/-! ### One step of a few commands -/

theorem test_aadd_wraps : does (word 0x11 4 1 2 0 0) 0x11 [0, 2 ^ 64 - 1, 2] (fun i e =>
    decide ((((e.goOn i (fun st => st.setReg (iD i.w) ((i.sv + i.tv) % 2 ^ 64))).run 9).bind (fun r => r.streams[0]?)).map (·.reg 4) = some 1)) = true := by
  decide +kernel

/-- R486: bits 0 and 17 of GLB_SWFLAG's write, of which only bit 0 is enabled. -/
theorem test_masked_write : maskedWrite 0x8002 0x00010001 = 0x8003 ∧ maskedWrite 0x8002 0x80020001 = 0 := by decide

/-- R87: a tail beyond the ring of 64. -/
theorem test_doorbell_beyond_ring : (match exec (.submissionDoorbell 1 0 4 64) (st ready) with
    | .next t => t.dev.bit R.CTX_ERR.DB_RANGE 1 0
    | _ => false) = true := by decide +kernel

end Sys2Proof.Tests
end

section
/-! PROOFS. Admission into the almanac (R58): where the first release lies, and what ADMIT answers. -/

namespace Sys2Proof.Machine

/-- R58: with orbits counted from instant 0, the boundary a partition reaches next is a multiple of its orbit that lies
after the instant, by no more than one orbit. -/
theorem PartCal.nextBoundary_first {c : PartCal} (h : 0 < c.orbit) (t : Nat) :
    ∃ n, t < n * c.orbit ∧ n * c.orbit ≤ t + c.orbit ∧ c.nextBoundary t = n * c.orbit := by
  have hmax : max 1 c.orbit = c.orbit := Nat.max_eq_right h
  have hafter : t < (t / c.orbit + 1) * c.orbit := Nat.lt_mul_of_div_lt (Nat.lt_succ_self _) h
  have hfirst : (t / c.orbit + 1) * c.orbit ≤ t + c.orbit := by
    rw [Nat.succ_mul]
    exact Nat.add_le_add_right (Nat.div_mul_le_self t c.orbit) _
  exact ⟨t / c.orbit + 1, hafter, hfirst, by rw [PartCal.nextBoundary, hmax]⟩

theorem Entry.prom_eq_relNom_add (e : Entry) (k : Nat) : e.prom k = e.relNom k + e.alm.deadline := rfl

theorem Dev.newEntry_rel0 (d : Dev) (w : Wb) (a : AlmRec) (slot : Nat) (ctx : Option Nat) (seq : Nat) (ch : Option (Nat × Nat)) :
    (d.newEntry w a slot ctx seq ch).rel0 =
      (d.pcal w.part).nextBoundary (d.schedNow w.part) + a.offset * (d.pcal w.part).phaseLen := rfl

/-- R45, R438: whether ADMIT proposes one entry or both copies of a channel, each is the new entry of a record of the
workbook's almanac. -/
theorem Dev.mem_candidates {d : Dev} {w : Wb} {ix seq : Nat} {ctx : Option Nat} {e : Entry} (h : e ∈ d.candidates w ix ctx seq) :
    ∃ a ∈ w.almanac, ∃ slot ch, e = d.newEntry w a slot ctx seq ch := by
  unfold Dev.candidates at h
  split at h
  case h_1 => cases h
  case h_2 a ha =>
    have hmem : a ∈ w.almanac := List.mem_of_getElem? ha
    split at h
    case h_1 => exact ⟨a, hmem, _, _, List.mem_singleton.mp h⟩
    case h_2 =>
      split at h
      case h_1 b hb =>
        obtain ⟨_, _, hcopy⟩ := Option.bind_eq_some_iff.mp hb
        obtain rfl | h := List.mem_cons.mp h
        · exact ⟨a, hmem, _, _, rfl⟩
        · exact ⟨b, List.mem_of_getElem? hcopy, _, _, List.mem_singleton.mp h⟩
      case h_2 => cases h

theorem exec_admitEntry_of_fetched {s : State} {req : Nat} {r : Req} (h : s.dev.fetched req 0x10 = some r) :
    Answers (.admitEntry req) s (s.dev.admitEntry r) := by
  show execAdmit req s = _
  rw [execAdmit, onDev_ok rfl, h]

/-- R51, R58: an ADMIT that names a record of a loaded workbook of the partition's orbit, and whose candidates pass the
tests, places them and completes with the promise of its first run. -/
theorem Dev.admitEntry_of_passes {d : Dev} {r : Req} {w : Wb} {e : Entry} (hw : d.wb (dHandle r.desc % 256) = some w)
    (hix : dArg1 r.desc % 65536 < w.almanac.length) (hch : (d.channelOf w.slot (dArg1 r.desc % 65536)).map (·.2) ≠ some 1)
    (horb : w.orbit = 0 ∨ w.orbit = (d.pcal w.part).orbit ∧ w.phases = (d.pcal w.part).phases)
    (hpass : d.admitFails w.part (d.candidates w (dArg1 r.desc % 65536) (some r.ctx) (dSeq r.desc)) = none)
    (he : (d.candidates w (dArg1 r.desc % 65536) (some r.ctx) (dSeq r.desc)).head? = some e) {p : Dev}
    (hp : p = d.placeEntries w (d.candidates w (dArg1 r.desc % 65536) (some r.ctx) (dSeq r.desc)) (d.ctx r.ctx).tb) :
    d.admitEntry r = p.finishReq r 0 0 (some (p.toCtx r.ctx w.part (e.prom 0))) 0 (leBytes 2 e.slot ++ leBytes 4 (p.entryStale e)) := by
  have hnamed : ¬(w.almanac.length ≤ dArg1 r.desc % 65536 ∨ (d.channelOf w.slot (dArg1 r.desc % 65536)).map (·.2) = some 1) :=
    not_or.mpr ⟨Nat.not_le.mpr hix, hch⟩
  have hfits : ¬(w.orbit ≠ 0 ∧ (w.orbit ≠ (d.pcal w.part).orbit ∨ w.phases ≠ (d.pcal w.part).phases)) := by
    rintro ⟨hne, hdiff⟩
    obtain h0 | ⟨ho, hph⟩ := horb
    · exact hne h0
    · exact hdiff.elim (· ho) (· hph)
  subst hp
  simp only [Dev.admitEntry, hw, if_neg hnamed, if_neg hfits, hpass, he]

/-- Settles O16: the answer is that of an ADMIT that passes its tests, and each entry placed is the new entry of an almanac
record, first released at its phase of the orbit that begins next. -/
theorem entriesReleaseOnTheirPhase : Obligations.EntriesReleaseOnTheirPhase := by
  rintro s req r w es e0 c hreq hw hix hch rfl horbit hfit rfl hpass hhead
  refine ⟨_, rfl, ?_, ?_⟩
  · rw [← Dev.admitEntry_of_passes hw hix hch hfit hpass hhead rfl]
    exact exec_admitEntry_of_fetched hreq
  · intro e he
    obtain ⟨a, ha, slot, ch, rfl⟩ := Dev.mem_candidates he
    obtain ⟨n, hafter, hfirst, hn⟩ := PartCal.nextBoundary_first horbit (s.dev.schedNow w.part)
    exact ⟨ha, rfl, rfl, rfl, ⟨n, hafter, hfirst, by rw [Dev.newEntry_rel0, hn]; rfl⟩,
      fun k => ⟨rfl, Entry.prom_eq_relNom_add _ k⟩⟩

end Sys2Proof.Machine
end

section
/-! PROOFS. The zero mark of a purged block of T2 (R120): what it makes of a read, and what the first write makes of it. -/

namespace Sys2Proof.Machine

/-- The mark stands for the whole block: it is the same for any two addresses of one. -/
theorem Mem.isZero_of_same_block (m : Mem) {x y : Nat} (h : y / 65536 = x / 65536) : m.isZero y = m.isZero x := by
  rw [Mem.isZero, Mem.isZero, h]

theorem Mem.byte_of_isZero {m : Mem} {x : Nat} (h : m.isZero x = true) : m.byte x = 0 := by
  rw [Mem.byte, if_pos h]

/-- Once touched, no byte of the block is marked. -/
theorem Mem.touch_isZero_same_block {m : Mem} {x y : Nat} (h : m.isZero x = true) (hy : y / 65536 = x / 65536) :
    (m.touch x).isZero y = false := by
  simp [Mem.touch_isZero m x y h, hy]

/-- What stays within a granule stays within its block, since 64 divides 65,536. -/
theorem same_block_of_same_granule {x n i : Nat} (hn : x % 64 + n ≤ 64) (hi : i < n) : (x + i) / 65536 = x / 65536 := by
  omega

/-- R120: a write to a marked block is answered whatever the channel's state and marks of the granule are. -/
theorem Dev.writeGranule_of_isZero {d : Dev} {x : Nat} (h : d.mem.isZero x = true) (w : Who) (bs : List Byte) :
    d.writeGranule w x bs = ({ d with mem := (d.mem.touch x).put x bs }, none) := by
  simp only [Dev.writeGranule, h, if_true]

/-- Settles O30: the write is a touch, which takes the mark and leaves every byte as it read, followed by a put, which
changes only the bytes written, all of them in the block. -/
theorem markedBlockReadsZeroUntilWritten : Obligations.MarkedBlockReadsZeroUntilWritten := by
  intro d w x bs hmark hgran
  have hblock : ∀ y, y / 65536 = x / 65536 → d.mem.byte y = 0 := fun y hy =>
    Mem.byte_of_isZero ((d.mem.isZero_of_same_block hy).trans hmark)
  have hkeep : ∀ y, y < x ∨ x + bs.length ≤ y → ((d.mem.touch x).put x bs).byte y = d.mem.byte y := fun y hy =>
    (Mem.put_byte_ne _ bs hy).trans (Mem.touch_byte _ _ _)
  refine ⟨_, Dev.writeGranule_of_isZero hmark w bs, hblock, ?_, ?_, ?_, ?_⟩
  · rw [Mem.put_isZero, Mem.touch_isZero_same_block hmark rfl]
  · exact Mem.put_bytes _ _ _ fun i hi => Mem.touch_isZero_same_block hmark (same_block_of_same_granule hgran hi)
  · exact fun y hy hout => (hkeep y hout).trans (hblock y hy)
  · intro y hy
    have hout : y < x ∨ x + bs.length ≤ y := by omega
    exact hkeep y hout

end Sys2Proof.Machine
end

section
/-! PROOFS. Recovering a T32 value against its reference (R155), and the window of a descriptor (R156). -/

namespace Sys2Proof.Machine

theorem toSigned_of_lt_half {w v : Nat} (h : 2 * v < 2 ^ w) : toSigned w v = v := by
  have hv : v % 2 ^ w = v := Nat.mod_eq_of_lt (by omega)
  rw [toSigned, hv, if_pos h]

theorem toSigned_of_half_le {w v : Nat} (hv : v < 2 ^ w) (h : 2 ^ w ≤ 2 * v) : toSigned w v = (v : Int) - (2 ^ w : Nat) := by
  rw [toSigned, Nat.mod_eq_of_lt hv, if_neg (Nat.not_lt.mpr h)]

/-- The difference modulo 2^32 of a reference and the low bits of a value `d` after it is `d`. -/
theorem low_add_sub_low {d : Nat} (hd : d < 2 ^ 32) (ref : Nat) :
    ((ref + d) % 2 ^ 32 + 2 ^ 32 - ref % 2 ^ 32) % 2 ^ 32 = d := by
  omega

/-- R155: the signed difference is added to the reference, and a sum before the start of the base is taken as 0. -/
theorem unwrap_low_add {d : Nat} (hd : d < 2 ^ 32) (ref : Nat) :
    unwrap ref ((ref + d) % 2 ^ 32) = ((ref : Int) + toSigned 32 d).toNat := by
  rw [unwrap, low_add_sub_low hd]
  split
  case isTrue hneg => exact (Int.toNat_of_nonpos (Int.le_of_lt hneg)).symm
  case isFalse => rfl

theorem unwrap_low_add_of_ahead {d : Nat} (h : d < 2 ^ 31) (ref : Nat) :
    unwrap ref ((ref + d) % 2 ^ 32) = ref + d := by
  rw [unwrap_low_add (by omega), toSigned_of_lt_half (by omega), ← Int.natCast_add, Int.toNat_natCast]

theorem unwrap_low_add_of_behind {d : Nat} (hd : d < 2 ^ 32) (h : 2 ^ 31 ≤ d) (ref : Nat) :
    unwrap ref ((ref + d) % 2 ^ 32) = ref + d - 2 ^ 32 := by
  rw [unwrap_low_add hd, toSigned_of_half_le hd (by omega)]
  omega

/-- R155: the result lies in [max(0, ref − 2^31), ref + 2^31 − 1]. -/
theorem unwrap_low_add_bounds {d : Nat} (hd : d < 2 ^ 32) (ref : Nat) :
    ref - 2 ^ 31 ≤ unwrap ref ((ref + d) % 2 ^ 32) ∧ unwrap ref ((ref + d) % 2 ^ 32) ≤ ref + 2 ^ 31 - 1 := by
  obtain hahead | hbehind := Nat.lt_or_ge d (2 ^ 31)
  · rw [unwrap_low_add_of_ahead hahead]
    omega
  · rw [unwrap_low_add_of_behind hd hbehind]
    omega

/-- R156: START is recovered against the context's time base, and STOP against the recovered START. -/
theorem Dev.windowOf_of_flag {b : List Byte} (h : bitOf (dFlags b) 1 = true) (d : Dev) (c : Nat) :
    d.windowOf c b = some (unwrap (d.ctxNow c) (dStart b), unwrap (unwrap (d.ctxNow c) (dStart b)) (dStop b)) := by
  rw [Dev.windowOf, if_pos h]

/-- Settles O8: a T32 value is the low bits of its reference plus a difference below 2^32; less than 2^31 puts it ahead
of the reference, and 2^31 or more behind. -/
theorem unwrapRecovers : Obligations.UnwrapRecovers := by
  refine ⟨?_, fun s c b hflag => Dev.windowOf_of_flag hflag s.dev c⟩
  rintro ref _ d - hd rfl
  exact ⟨fun hahead => unwrap_low_add_of_ahead hahead ref, fun hbehind => unwrap_low_add_of_behind hd hbehind ref,
    unwrap_low_add_bounds hd ref⟩

end Sys2Proof.Machine
end

section
/-! PROOFS. A read selector of the mailbox (R490 to R492): what it leaves in the data words, what it refuses, and the flag
snapshot of R408. -/

namespace Sys2Proof.Machine

/-! ### Bits -/

theorem bitOf_eq_testBit (v i : Nat) : bitOf v i = v.testBit i := Nat.testBit_eq_decide_div_mod_eq.symm

/-- Bit `i` of a number stands at bit i mod 32 of its 32-bit word i / 32. -/
theorem bitOf_word (v i : Nat) : bitOf (v / 2 ^ (32 * (i / 32)) % 2 ^ 32) (i % 32) = bitOf v i := by
  have hlt : i % 32 < 32 := Nat.mod_lt i (by decide)
  rw [bitOf_eq_testBit, bitOf_eq_testBit, Nat.testBit_mod_two_pow, Nat.testBit_div_two_pow, Nat.mod_add_div]
  simp [hlt]

/-- The number whose bits below `n` are given by `p`, as the sum of the powers of two that `p` picks. -/
def packBits (p : Nat → Bool) (n : Nat) : Nat := sumBy (fun i => if p i then 2 ^ i else 0) (List.range n)

theorem packBits_succ (p : Nat → Bool) (n : Nat) : packBits p (n + 1) = packBits p n + if p n then 2 ^ n else 0 := by
  simp [packBits, sumBy, List.range_succ]

theorem packBits_lt (p : Nat → Bool) (n : Nat) : packBits p n < 2 ^ n := by
  induction n with
  | zero => exact Nat.one_pos
  | succ n ih =>
    rw [packBits_succ, Nat.pow_succ]
    split <;> omega

theorem testBit_packBits (p : Nat → Bool) {n i : Nat} (h : i < n) : (packBits p n).testBit i = p i := by
  induction n with
  | zero => cases h
  | succ n ih =>
    rw [packBits_succ]
    obtain hi | rfl := Nat.lt_succ_iff_lt_or_eq.mp h
    · split
      case isTrue => rw [Nat.add_comm, Nat.testBit_two_pow_add_gt hi, ih hi]
      case isFalse => exact ih hi
    · have htop : (packBits p i).testBit i = false := Nat.testBit_lt_two_pow (packBits_lt p i)
      split
      case isTrue hp => rw [Nat.add_comm, Nat.testBit_two_pow_add_eq, htop, hp]; rfl
      case isFalse hp => rw [Nat.add_zero, htop, Bool.eq_false_of_not_eq_true hp]

/-! ### Flags -/

theorem Dev.flagWord_eq_packBits (d : Dev) (n : Nat) : d.flagWord n = packBits (fun i => d.flag (128 * n + i)) 128 := rfl

theorem Dev.bitOf_flagWord (d : Dev) (n : Nat) {i : Nat} (h : i < 128) : bitOf (d.flagWord n) i = d.flag (128 * n + i) := by
  rw [bitOf_eq_testBit, Dev.flagWord_eq_packBits, testBit_packBits _ h]

@[simp] theorem Dev.putReg_flagWord (d : Dev) (off v n : Nat) : (d.putReg off v).flagWord n = d.flagWord n := rfl

@[simp] theorem Dev.wakeIdle_flag (d : Dev) (i : Nat) : d.wakeIdle.flag i = d.flag i := by
  rw [Dev.flag, Dev.wakeIdle_flags, Dev.flag]

/-! ### The data words -/

/-- A register write on top of what changed only registers changes only registers. -/
theorem Dev.putReg_sameButRegs {d e : Dev} (h : e = { d with regs := e.regs }) (off v : Nat) :
    e.putReg off v = { d with regs := (e.putReg off v).regs } :=
  congrArg (fun x : Dev => { x with regs := putCell e.regs off v }) h

theorem Dev.foldl_putReg_sameButRegs (a w : Nat → Nat) (ks : List Nat) {d e : Dev} (h : e = { d with regs := e.regs }) :
    ks.foldl (fun e k => e.putReg (a k) (w k)) e = { d with regs := (ks.foldl (fun e k => e.putReg (a k) (w k)) e).regs } := by
  induction ks generalizing e with
  | nil => exact h
  | cons x ks ih => exact ih (Dev.putReg_sameButRegs h _ _)

theorem Dev.putWords_eq (d : Dev) (b v : Nat) :
    d.putWords b v = (List.range 4).foldl (fun e k => e.putReg (b + 4 + 4 * k) (v / 2 ^ (32 * k) % 2 ^ 32)) d := rfl

/-- Writing the registers at `a k`, for `k` in a list, reaches no other register. -/
theorem cellOf_foldl_putReg_of_ne (a w : Nat → Nat) {ks : List Nat} (d : Dev) {off : Nat} (h : ∀ k ∈ ks, off ≠ a k) :
    cellOf (ks.foldl (fun e k => e.putReg (a k) (w k)) d).regs off = cellOf d.regs off := by
  induction ks generalizing d with
  | nil => rfl
  | cons x ks ih =>
    obtain ⟨hx, hks⟩ := List.forall_mem_cons.mp h
    rw [List.foldl_cons, ih _ hks, cellOf_putReg_ne _ _ hx]

/-- Writing distinct registers at `a k`, for `k` in a list, leaves in each the value written to it. -/
theorem cellOf_foldl_putReg_of_mem {a : Nat → Nat} (ha : Function.Injective a) (w : Nat → Nat) {ks : List Nat}
    (d : Dev) {k : Nat} (h : k ∈ ks) : cellOf (ks.foldl (fun e k => e.putReg (a k) (w k)) d).regs (a k) = w k % 2 ^ 128 := by
  induction ks generalizing d with
  | nil => cases h
  | cons x ks ih =>
    rw [List.foldl_cons]
    by_cases hk : k ∈ ks
    · exact ih _ hk
    · obtain rfl : k = x := (List.mem_cons.mp h).resolve_right hk
      rw [cellOf_foldl_putReg_of_ne, cellOf_putReg_self]
      exact fun j hj heq => hk (ha heq ▸ hj)

theorem Dev.cellOf_putWords (d : Dev) (b v : Nat) {k : Nat} (h : k < 4) :
    cellOf (d.putWords b v).regs (b + 4 + 4 * k) = v / 2 ^ (32 * k) % 2 ^ 32 := by
  have hinj : Function.Injective (fun k => b + 4 + 4 * k) := fun x y hxy => by dsimp only at hxy; omega
  rw [Dev.putWords_eq, cellOf_foldl_putReg_of_mem hinj _ _ (List.mem_range.mpr h)]
  exact Nat.mod_eq_of_lt (lt_trans (Nat.mod_lt _ (by decide)) (by decide))

/-! ### A write to MBX_SEL -/

/-- Whatever is selected, only registers change. -/
theorem Dev.mbxSel_frame (nv : NonVol) (d : Dev) (box : Option Nat) (pf0 : Bool) (sel : Nat) :
    d.mbxSel nv box pf0 sel = { d with regs := (d.mbxSel nv box pf0 sel).regs } := by
  have hsel : d.putReg (mbxBase box) sel = { d with regs := (d.putReg (mbxBase box) sel).regs } := rfl
  unfold Dev.mbxSel
  dsimp only
  cases selDir sel with
  | none => exact Dev.putReg_sameButRegs hsel _ _
  | some w =>
    dsimp only
    split
    case isTrue => exact Dev.putReg_sameButRegs hsel _ _
    case isFalse =>
      split
      case isTrue => exact Dev.putReg_sameButRegs hsel _ _
      case isFalse => exact Dev.putReg_sameButRegs (Dev.foldl_putReg_sameButRegs _ _ _ hsel) _ _

/-- Table 18-3: a VF's window is refused a selector that is not for VFs. -/
theorem Dev.mbxSel_refused (nv : NonVol) (d : Dev) (box : Option Nat) {sel : Nat} {w : Bool} (h : selDir sel = some w)
    (hvf : (d.putReg (mbxBase box) sel).vfMay (box.getD 0) sel = false) :
    d.mbxSel nv box false sel = (d.putReg (mbxBase box) sel).putReg (mbxBase box + 20) 0x20 := by
  simp [Dev.mbxSel, h, hvf]

/-- R492: the four data words hold what the selector reads, least significant word first. -/
theorem Dev.cellOf_mbxSel_read_word (nv : NonVol) (d : Dev) (box : Option Nat) {sel k : Nat} (h : selDir sel = some false)
    (hk : k < 4) : cellOf (d.mbxSel nv box true sel).regs (mbxBase box + 4 + 4 * k) =
      (d.putReg (mbxBase box) sel).selValue nv sel / 2 ^ (32 * k) % 2 ^ 32 := by
  rw [Dev.mbxSel_read nv d box sel h, cellOf_putReg_ne _ _ (by omega), Dev.cellOf_putWords _ _ _ hk]

/-- R490: VALID 1, BUSY 0 and ERR 0 after a read selector. -/
theorem Dev.cellOf_mbxSel_read_valid (nv : NonVol) (d : Dev) (box : Option Nat) {sel : Nat} (h : selDir sel = some false) :
    cellOf (d.mbxSel nv box true sel).regs (mbxBase box + 20) = 1 := by
  rw [Dev.mbxSel_read nv d box sel h, cellOf_putReg_self]
  rfl

/-- A mailbox read by a function that reaches the mailbox is its write to MBX_SEL. -/
theorem mbxReadRow_of_reaches {s : State} {m : Mbx} {ok : Bool} (sel : Nat) (hok : ok = true) (hbox : boxOk m = true)
    (hup : s.dev.hostUp = true) (hreach : s.dev.reachesBox m = true) :
    mbxReadRow m ok sel s = .next { s with dev := s.dev.wakeIdle.mbxSel s.nv (boxOf m) (viaPf0 (boxVia m)) sel } := by
  rw [mbxReadRow, mbxRow, onDev_ok (by rw [hok, hbox]; rfl), hup, hreach]
  rfl

/-! ### The flag snapshot (R408) -/

theorem selDir_flags {n : Nat} (h : n < 32) : selDir (0x400 + n) = some false :=
  if_pos (by omega)

theorem Dev.selValue_flags (nv : NonVol) (d : Dev) {n : Nat} (h : n < 32) : d.selValue nv (0x400 + n) = d.flagWord n := by
  unfold Dev.selValue
  dsimp only
  rw [if_neg (by omega), if_neg (by omega), if_neg (by omega), if_neg (by omega), if_neg (by omega), if_neg (by omega),
    if_pos (by omega), Nat.add_sub_cancel_left]

theorem Dev.vfMay_flags (d : Dev) (c : Nat) {n : Nat} (h : n < 32) : d.vfMay c (0x400 + n) = false := by
  have hid : ¬(0x400 + n = 0x100 ∨ (0x200 ≤ 0x400 + n ∧ 0x400 + n < 0x204)) := by omega
  have hctr : ¬(0x800 ≤ 0x400 + n ∧ 0x400 + n < 0x880) := by omega
  rw [Dev.vfMay, decide_eq_false hid, decide_eq_false hctr]
  rfl

/-- Through PF0, bit i mod 32 of data word i / 32 is flag 128n + i. -/
theorem Dev.mbxSel_flags_bit (nv : NonVol) (d : Dev) (box : Option Nat) {n i : Nat} (hn : n < 32) (hi : i < 128) :
    bitOf (cellOf (d.mbxSel nv box true (0x400 + n)).regs (mbxBase box + 4 + 4 * (i / 32))) (i % 32) = d.flag (128 * n + i) := by
  rw [Dev.cellOf_mbxSel_read_word nv d box (selDir_flags hn) (by omega), bitOf_word, Dev.selValue_flags nv _ hn,
    Dev.putReg_flagWord, Dev.bitOf_flagWord d n hi]

theorem Dev.mbxSel_flags_refused (nv : NonVol) (d : Dev) (box : Option Nat) {n : Nat} (h : n < 32) :
    d.mbxSel nv box false (0x400 + n) = (d.putReg (mbxBase box) (0x400 + n)).putReg (mbxBase box + 20) 0x20 :=
  Dev.mbxSel_refused nv d box (selDir_flags h) (Dev.vfMay_flags _ _ h)

/-- Settles O27: the command is the write to MBX_SEL of an awake device, which latches the flag word through PF0, and
through a VF writes the selector and ERR 2 alone. -/
theorem flagSnapshotReadsFlags : Obligations.FlagSnapshotReadsFlags := by
  intro s m n hn hbox hup hreach
  refine ⟨_, mbxReadRow_of_reaches (0x400 + n) (decide_eq_true hn) hbox hup hreach, Dev.mbxSel_frame _ _ _ _ _, ?_, ?_⟩
  · intro hpf
    rw [hpf]
    refine ⟨fun i hi => ?_, Dev.cellOf_mbxSel_read_valid _ _ _ (selDir_flags hn)⟩
    rw [Dev.mbxSel_flags_bit _ _ _ hn hi, Dev.wakeIdle_flag]
  · intro hvf
    rw [hvf, Dev.mbxSel_flags_refused _ _ _ hn]
    refine ⟨cellOf_putReg_self _ _ _, fun k hk => ?_⟩
    rw [cellOf_putReg_ne _ _ (by omega), cellOf_putReg_ne _ _ (by omega)]

end Sys2Proof.Machine
end

section
/-! PROOFS. A write to the WM register GLB_SWFLAG (R486): the masked bits it takes from the value written, what it leaves,
and writers of disjoint bits. -/

namespace Sys2Proof.Machine

/-! ### Bits of a field -/

/-- Bit `i` of a field of a number is the number's bit `lo + i`. -/
theorem bitOf_bitsOf {hi lo i : Nat} (h : lo + i ≤ hi) (v : Nat) : bitOf (bitsOf v hi lo) i = bitOf v (lo + i) := by
  have hlt : i < hi + 1 - lo := by omega
  rw [bitOf_eq_testBit, bitOf_eq_testBit, bitsOf, Nat.testBit_mod_two_pow, Nat.testBit_div_two_pow, decide_eq_true hlt,
    Bool.true_and, Nat.add_comm]

/-- A bit is a field of its own. -/
theorem bitOf_eq_bitsOf (v i : Nat) : bitOf v i = decide (bitsOf v i i = 1) := by
  rw [bitOf, bitsOf, Nat.add_sub_cancel_left, Nat.pow_one]

/-- Bit `i` of a number with a field put in it, where the field holds that bit, is the bit of what was put. -/
theorem bitOf_putBits_field {hi lo i : Nat} (hl : lo ≤ i) (hh : i ≤ hi) (v x : Nat) :
    bitOf (putBits v hi lo x) i = bitOf x (i - lo) := by
  have hbit : lo + (i - lo) = i := Nat.add_sub_cancel' hl
  have hlt : i - lo < hi + 1 - lo := by omega
  calc bitOf (putBits v hi lo x) i
      = bitOf (bitsOf (putBits v hi lo x) hi lo) (i - lo) := by rw [bitOf_bitsOf (hbit.trans_le hh), hbit]
    _ = bitOf x (i - lo) := by
        rw [bitsOf_putBits_self, bitOf_eq_testBit, bitOf_eq_testBit, Nat.testBit_mod_two_pow, decide_eq_true hlt,
          Bool.true_and]

theorem bitOf_putBits_above {hi lo i : Nat} (hl : lo ≤ hi) (h : hi < i) (v x : Nat) : bitOf (putBits v hi lo x) i = bitOf v i := by
  rw [bitOf_eq_bitsOf, bitsOf_putBits_above h hl, ← bitOf_eq_bitsOf]

/-- A register takes the whole value of a field put in it: a field that lies in it is not cut off. -/
theorem Dev.cellOf_set_self (d : Dev) (f : Fld) (i j v : Nat) (h : f.hi < 128) (hl : f.lo ≤ f.hi) :
    cellOf (d.set f i j v).regs (f.off i j) = putBits (cellOf d.regs (f.off i j)) f.hi f.lo v :=
  (cellOf_putCell_self _ _ _).trans (Nat.mod_eq_of_lt (putBits_lt (cellOf_lt _ _) h hl))

/-- Waking from IDLE writes PWR_STAT alone. -/
theorem Dev.cellOf_wakeIdle (d : Dev) {off : Nat} (h : off ≠ R.PWR_STAT.STATE.off 0 0) :
    cellOf d.wakeIdle.regs off = cellOf d.regs off := by
  unfold Dev.wakeIdle
  split
  case isTrue => exact cellOf_putCell_ne _ _ h
  case isFalse => rfl

/-! ### The write -/

theorem maskedWrite_eq_packBits (old v : Nat) :
    maskedWrite old v = packBits (fun i => if bitOf v (16 + i) then bitOf v i else bitOf old i) 16 := rfl

theorem bitOf_maskedWrite {i : Nat} (h : i < 16) (old v : Nat) :
    bitOf (maskedWrite old v) i = if bitOf v (16 + i) then bitOf v i else bitOf old i := by
  rw [bitOf_eq_testBit, maskedWrite_eq_packBits, testBit_packBits _ h]

/-- What a write of `v` makes of the software flags. -/
def Dev.maskSwflag (d : Dev) (v : Nat) : Dev :=
  d.set R.GLB_SWFLAG.FLAGS 0 0 (maskedWrite (d.get R.GLB_SWFLAG.FLAGS 0 0) v)

theorem Dev.maskSwflag_hostUp (d : Dev) (v : Nat) : (d.maskSwflag v).hostUp = d.hostUp := rfl

theorem Dev.cellOf_maskSwflag (d : Dev) (v : Nat) : cellOf (d.maskSwflag v).regs 0x70 =
    putBits (cellOf d.regs 0x70) 15 0 (maskedWrite (bitsOf (cellOf d.regs 0x70) 15 0) v) :=
  Dev.cellOf_set_self d R.GLB_SWFLAG.FLAGS 0 0 _ (by decide) (by decide)

theorem Dev.bitOf_maskSwflag {i : Nat} (h : i < 16) (d : Dev) (v : Nat) :
    bitOf (cellOf (d.maskSwflag v).regs 0x70) i = if bitOf v (16 + i) then bitOf v i else bitOf (cellOf d.regs 0x70) i := by
  have hfield : 0 + i ≤ 15 := by omega
  rw [Dev.cellOf_maskSwflag, bitOf_putBits_field (Nat.zero_le i) (Nat.le_of_lt_succ h), Nat.sub_zero, bitOf_maskedWrite h,
    bitOf_bitsOf hfield, Nat.zero_add]

theorem Dev.bitOf_maskSwflag_above {i : Nat} (h : 16 ≤ i) (d : Dev) (v : Nat) :
    bitOf (cellOf (d.maskSwflag v).regs 0x70) i = bitOf (cellOf d.regs 0x70) i := by
  rw [Dev.cellOf_maskSwflag, bitOf_putBits_above (Nat.zero_le 15) h]

theorem Dev.cellOf_maskSwflag_ne (d : Dev) (v : Nat) {off : Nat} (h : off ≠ 0x70) :
    cellOf (d.maskSwflag v).regs off = cellOf d.regs off := cellOf_putCell_ne _ _ h

/-! ### The command -/

theorem regAt_swflag : regAt 0x70 = some (⟨"GLB_SWFLAG", 0x70, 0, 1, 0, 1, [⟨31, 16, .wm, 0⟩, ⟨15, 0, .wm, 0⟩]⟩, 0, 0) := by
  decide +kernel

/-- GLB answers in a boot halt too, and GLB_SWFLAG has no bits that a written 1 clears. -/
theorem Dev.writeReg_swflag (nv : NonVol) (d : Dev) (v : Nat) (pf0 : Bool) : d.writeReg nv 0x70 v pf0 = d.maskSwflag v := by
  have hanswers : d.answers (blockOf 0x70) = true := Bool.or_true _
  simp only [Dev.writeReg, regAt_swflag, hanswers, if_true]
  rfl

theorem answers_registerWrite_swflag {s : State} (hup : s.dev.hostUp = true) (v : W32) :
    Answers (.registerWrite .pf0 0x70 4 v) s (s.dev.wakeIdle.maskSwflag v.toNat) := by
  show execRegisterWrite .pf0 0x70 4 v s = _
  rw [execRegisterWrite, onDev_ok (show viaOk .pf0 = true from rfl), hup, ← Dev.writeReg_swflag s.nv _ _ true]
  rfl

/-- A command answers a state in one way. -/
theorem Answers.unique {c : Instr} {s : State} {d e : Dev} (hd : Answers c s d) (he : Answers c s e) : d = e := by
  have h : Host.Outcome.next { s with dev := d } = .next { s with dev := e } := hd.symm.trans he
  injection h with h
  exact congrArg State.dev h

/-- However the write is reached, the host still reaches the device after it and each flag is the value's bit or the old
one, as the mask says; a wake from IDLE does not touch the flags. -/
theorem Answers.swflag {s : State} {v : W32} {d : Dev} (h : Answers (.registerWrite .pf0 0x70 4 v) s d)
    (hup : s.dev.hostUp = true) : d.hostUp = true ∧ ∀ i, i < 16 → bitOf (cellOf d.regs 0x70) i =
      if bitOf v.toNat (16 + i) then bitOf v.toNat i else bitOf (cellOf s.dev.regs 0x70) i := by
  obtain rfl := h.unique (answers_registerWrite_swflag hup v)
  refine ⟨by rw [Dev.maskSwflag_hostUp, Dev.wakeIdle_hostUp, hup], fun i hi => ?_⟩
  rw [Dev.bitOf_maskSwflag hi, Dev.cellOf_wakeIdle _ (by decide)]

/-- R486: writes whose masks share no bit leave the same flags in either order. -/
theorem Answers.swflag_comm {q : List Instr} {nv : NonVol} {d a b x y : Dev} {v w : W32} (hup : d.hostUp = true)
    (hdisj : ∀ i, i < 16 → ¬(bitOf v.toNat (16 + i) = true ∧ bitOf w.toNat (16 + i) = true))
    (ha : Answers (.registerWrite .pf0 0x70 4 v) ⟨q, nv, d⟩ a) (hb : Answers (.registerWrite .pf0 0x70 4 w) ⟨q, nv, a⟩ b)
    (hx : Answers (.registerWrite .pf0 0x70 4 w) ⟨q, nv, d⟩ x) (hy : Answers (.registerWrite .pf0 0x70 4 v) ⟨q, nv, x⟩ y)
    {i : Nat} (hi : i < 16) : bitOf (cellOf b.regs 0x70) i = bitOf (cellOf y.regs 0x70) i := by
  obtain ⟨haup, hav⟩ := ha.swflag hup
  obtain ⟨hxup, hxw⟩ := hx.swflag hup
  rw [(hb.swflag haup).2 i hi, (hy.swflag hxup).2 i hi, hav i hi, hxw i hi]
  by_cases hv : bitOf v.toNat (16 + i) = true
  · have hw : ¬bitOf w.toNat (16 + i) = true := fun hw => hdisj i hi ⟨hv, hw⟩
    rw [if_neg hw, if_pos hv, if_pos hv]
  · rw [if_neg hv, if_neg hv]

/-- Settles O22: the command is the masked write of an awake device, and of two writers of disjoint bits at most one names
a bit. -/
theorem maskedWritesChangeMaskedBits : Obligations.MaskedWritesChangeMaskedBits := by
  intro s v hup
  exact ⟨_, answers_registerWrite_swflag hup v, rfl, fun i hi => Dev.bitOf_maskSwflag hi _ _,
    fun i hi => Dev.bitOf_maskSwflag_above hi _ _, fun off hoff => Dev.cellOf_maskSwflag_ne _ _ hoff,
    fun w a b x y q nv hdisj ha hb hx hy i hi => Answers.swflag_comm hup hdisj ha hb hx hy hi⟩

end Sys2Proof.Machine
end

section
/-! PROOFS. The two forms of a meaning: which of them each command has, and under which operands it answers. What a step
does to the queue and to what survives POR_N follows (log entry 1, R468, R474, R527). -/

namespace Sys2Proof.Machine

/-! ### The operands -/

/-- Table 06-1: the stream numbers in use are those of a source. -/
theorem srcOf_ne_bad (x : Nat) : decide (srcOf x ≠ .bad) = streamWf x := by
  rw [streamWf, decide_eq_decide, srcOf]
  split_ifs <;> simp <;> omega

theorem opSpan_bytes (op : PeerOp) : (opSpan op).1 = op.bytes := by
  cases op <;> rfl

theorem boxOk_eq_wf (m : Mbx) : boxOk m = m.wf := by
  cases m <;> rfl

/-! ### The forms -/

/-- The meaning `row` answers where `ok` holds, and only for the device. -/
def RowOnDev (ok : Bool) (row : State → Host.Outcome State Fault Refusal) : Prop := ∃ f, ∀ s, row s = onDev ok f s

theorem RowOnDev.of_ok_eq {ok ok' : Bool} {row : State → Host.Outcome State Fault Refusal} (h : RowOnDev ok row)
    (hok : ok = ok') : RowOnDev ok' row := hok ▸ h

theorem rowOnDev_onDev (ok : Bool) (f : NonVol → Dev → Dev) : RowOnDev ok (onDev ok f) := ⟨f, fun _ => rfl⟩

theorem rowOnDev_seqRow (a q op : Nat) (f : Ins → Dev → Dev) : RowOnDev (streamOk a q) (seqRow a q op f) :=
  ⟨_, fun _ => rfl⟩

theorem rowOnDev_seqSet (a q op : Nat) (v : Ins → Int) : RowOnDev (streamOk a q) (seqSet a q op v) :=
  rowOnDev_seqRow a q op _

theorem rowOnDev_mbxRow (m : Mbx) (ok : Bool) (f : NonVol → Dev → Dev) : RowOnDev (ok && m.wf) (mbxRow m ok f) :=
  .of_ok_eq ⟨_, fun _ => rfl⟩ (congrArg (ok && ·) (boxOk_eq_wf m))

theorem rowOnDev_mbxReadRow (m : Mbx) (ok : Bool) (sel : Nat) : RowOnDev (ok && m.wf) (mbxReadRow m ok sel) :=
  rowOnDev_mbxRow m ok _

theorem rowOnDev_mbxWriteRow (m : Mbx) (ok : Bool) (sel lo hi : Nat) : RowOnDev (ok && m.wf) (mbxWriteRow m ok sel lo hi) :=
  rowOnDev_mbxRow m ok _

/-- Every command but ten answers for the device alone, when its operands are those of its row. -/
theorem rowOnDev_exec {c : Instr} (h : c.changesNonVol = false) : RowOnDev c.wf (exec c) := by
  unfold exec
  cases c
  case annalsRecordWrite | powerFailFinalRecord | porNAssert | porNRelease | domainPowerUpDone | fuseProgramDone | eclipseStep
    | unitBelowFloor1ms | canaryStall | selfTestStep => cases h
  case streamLossTimeout x => exact (rowOnDev_onDev ..).of_ok_eq (srcOf_ne_bad x)
  case slotCloseTimeout x => exact (rowOnDev_onDev ..).of_ok_eq (srcOf_ne_bad x)
  case peerMemoryRequest op => exact (rowOnDev_onDev ..).of_ok_eq (by rw [opSpan_bytes]; rfl)
  case deviceIdRead m => exact rowOnDev_mbxReadRow m true _
  case tbRead | syncInStampRead | tbOffsetRead | trigEdgeRead | i3cResultRead | flagSnapshotRead | counterRead | mbRegisterRead =>
    exact rowOnDev_mbxReadRow ..
  case tbSet | tbStep | tbPreset | trigWindowWrite | gmFilterWrite | i3cTransfer | counterWrite => exact rowOnDev_mbxWriteRow ..
  case aset | aadd | asub | aaddi | amuli | aand | aor | ashift | alc => exact rowOnDev_seqSet ..
  case nop | endRun | yield | br | brFlag | brAcmp | loop | checkpoint | rollback | stamp | event | fence | ald | ast | flagRead
    | mma | accLd | accSt | vfp | vint | vcmp | vsel | vcvt | vreq | vred | vmov | move | put | get | atomicAdd | atomicMax
    | flagSet | waitFlag | waitFlags | barrier => exact rowOnDev_seqRow ..
  all_goals exact rowOnDev_onDev ..

/-- The meaning `row` answers where `ok` holds, and makes of what survives POR_N only what it may become. -/
def RowOnBoth (ok : Bool) (row : State → Host.Outcome State Fault Refusal) : Prop :=
  ∃ f : NonVol × Dev → NonVol × Dev, (∀ x : NonVol × Dev, x.1.Grows (f x).1) ∧ ∀ s, row s = onBoth ok f s

theorem rowOnBoth_onBoth (ok : Bool) {f : NonVol × Dev → NonVol × Dev} (h : ∀ x : NonVol × Dev, x.1.Grows (f x).1) :
    RowOnBoth ok (onBoth ok f) :=
  ⟨f, h, fun _ => rfl⟩

/-- A meaning that acts under a condition grows what survives POR_N if what it does then grows it. -/
theorem grows_ite {p : Prop} [Decidable p] {x y : NonVol × Dev} (h : x.1.Grows y.1) : x.1.Grows (if p then y else x).1 := by
  split
  case isTrue => exact h
  case isFalse => exact .rfl

theorem rowOnBoth_exec {c : Instr} (h : c.changesNonVol = true) : RowOnBoth c.wf (exec c) := by
  unfold exec
  cases c
  case annalsRecordWrite => exact rowOnBoth_onBoth _ fun x => grows_next ..
  case powerFailFinalRecord => exact rowOnBoth_onBoth _ fun x => grows_final ..
  case porNAssert => exact rowOnBoth_onBoth _ fun x => grows_reset ..
  case porNRelease =>
    refine rowOnBoth_onBoth _ fun x => ?_
    split
    case isTrue => exact .rfl
    case isFalse => exact grows_release ..
  case domainPowerUpDone => exact rowOnBoth_onBoth _ fun x => grows_domain ..
  case fuseProgramDone => exact rowOnBoth_onBoth _ fun x => grows_prog ..
  case eclipseStep => exact rowOnBoth_onBoth _ fun x => grows_ite (grows_eclipse ..)
  case unitBelowFloor1ms => exact rowOnBoth_onBoth _ fun x => grows_below ..
  case canaryStall => exact rowOnBoth_onBoth _ fun x => grows_hard ..
  case selfTestStep => exact rowOnBoth_onBoth _ fun x => grows_ite (grows_test ..)
  all_goals cases h

/-! ### What a command and a step do -/

theorem exec_of_wf {c : Instr} (h : c.wf = true) (s : State) : ∃ t, exec c s = .next t := by
  cases hnv : c.changesNonVol
  case false =>
    obtain ⟨f, hf⟩ := rowOnDev_exec hnv
    exact ⟨_, (hf s).trans (onDev_ok h)⟩
  case true =>
    obtain ⟨f, -, hf⟩ := rowOnBoth_exec hnv
    exact ⟨_, (hf s).trans (onBoth_ok h)⟩

/-- What a command that answers has done. -/
theorem exec_next {c : Instr} {s t : State} (h : exec c s = .next t) :
    c.wf = true ∧ t.pending = s.pending ∧ s.nv.Grows t.nv ∧ (c.changesNonVol = false → t.nv = s.nv) := by
  cases hnv : c.changesNonVol
  case false =>
    obtain ⟨f, hf⟩ := rowOnDev_exec hnv
    obtain ⟨hwf, rfl⟩ := onDev_next ((hf s).symm.trans h)
    exact ⟨hwf, rfl, .rfl, fun _ => rfl⟩
  case true =>
    obtain ⟨f, hgrows, hf⟩ := rowOnBoth_exec hnv
    obtain ⟨hwf, rfl⟩ := onBoth_next ((hf s).symm.trans h)
    exact ⟨hwf, rfl, hgrows (s.nv, s.dev), fun hno => nomatch hno⟩

theorem step_of_pending_nil {s : State} (h : s.pending = []) : step s = .next { s with dev := s.dev.tick } := by
  rw [step, h]

theorem step_of_pending_cons {s : State} {c : Instr} {q : List Instr} (h : s.pending = c :: q) :
    step s = exec c { s with pending := q } := by
  rw [step, h]

/-- R468, R474, R527: a step makes of what survives POR_N only what it may become. -/
theorem step_grows {s t : State} (h : step s = .next t) : s.nv.Grows t.nv := by
  cases hp : s.pending with
  | nil =>
    rw [step_of_pending_nil hp] at h
    cases h
    exact .rfl
  | cons c q =>
    rw [step_of_pending_cons hp] at h
    obtain ⟨-, -, hgrows, -⟩ := exec_next h
    exact hgrows

/-! ### The tick -/

/-- What every step of a fold leaves alone, the fold leaves alone. -/
theorem foldl_keeps {α β γ : Type} (g : β → γ) {f : β → α → β} (h : ∀ b a, g (f b a) = g b) (l : List α) (b : β) :
    g (l.foldl f b) = g b := by
  induction l generalizing b with
  | nil => rfl
  | cons a l ih => exact (ih _).trans (h b a)

theorem Dev.advanceBases_now (d : Dev) : d.advanceBases.now = d.now :=
  foldl_keeps Dev.now (fun _ _ => by split <;> rfl) _ d

theorem Dev.noteCalm_now (d : Dev) : d.noteCalm.now = d.now := by
  unfold Dev.noteCalm
  split_ifs <;> rfl

theorem Dev.syncPower_now (d : Dev) : d.syncPower.now = d.now := by
  unfold Dev.syncPower
  dsimp only
  split <;> rfl

theorem Dev.setDomain_now (d : Dev) (n : Nat) (on : Bool) : (d.setDomain n on).now = d.now := by
  unfold Dev.setDomain
  split_ifs <;> rfl

theorem Dev.trimDomains_now (d : Dev) : d.trimDomains.now = d.now := by
  unfold Dev.trimDomains
  dsimp only
  split
  case isTrue => rfl
  case isFalse => rw [Dev.syncPower_now, foldl_keeps Dev.now fun d n => d.setDomain_now n false]

theorem Dev.slowTick_now (d : Dev) : d.slowTick.now = d.now := Dev.trimDomains_now _

theorem Dev.tick_now (d : Dev) : d.tick.now = d.now + 1 := by
  unfold Dev.tick
  dsimp only
  split_ifs
  · rw [Dev.slowTick_now, Dev.noteCalm_now, Dev.advanceBases_now]
  · rw [Dev.noteCalm_now, Dev.advanceBases_now]
  · rfl

theorem Dev.tick_of_porN_low {d : Dev} (h : d.pwr.porN = false) : d.tick = { d with now := d.now + 1 } := by
  simp only [Dev.tick, h, Bool.false_eq_true, if_false]

/-! ### The statements -/

/-- Settles O4: what the tables may become is canonical if they were. -/
theorem stepsKeepSurvivorsCanonical : Obligations.StepsKeepSurvivorsCanonical := by
  intro s t hcan hstep
  obtain ⟨hfuses, hannals, hseq, -⟩ := step_grows hstep
  simp only [NonVol.canonical, Bool.and_eq_true] at hcan ⊢
  obtain ⟨⟨hf, ha⟩, hs⟩ := hcan
  exact ⟨⟨hfuses hf, hannals ha⟩, hseq hs⟩

/-- Settles O6: these are the other parts of what the survivors may become. -/
theorem survivorsOnlyGrow : Obligations.SurvivorsOnlyGrow := by
  intro s t hstep
  obtain ⟨-, -, -, hgrow⟩ := step_grows hstep
  exact hgrow

/-- Settles O2: in either form a command answers exactly where its operands are those of its row. -/
theorem wellFormedCommandsAnswer : Obligations.WellFormedCommandsAnswer := fun _ s =>
  ⟨fun ⟨_, h⟩ => (exec_next h).1, fun h => exec_of_wf h s⟩

/-- Settles O3: `exec_next` already bounds a command's effect by its row, the queue and the survivors among it. -/
theorem commandsKeepQueueAndSurvivors : Obligations.CommandsKeepQueueAndSurvivors := by
  intro c s t h
  obtain ⟨-, hpending, -, hnv⟩ := exec_next h
  exact ⟨hpending, hnv⟩

/-- Settles O1: nothing that a tick runs beside the reference clock touches that clock. -/
theorem stepTakesFrontCommand : Obligations.StepTakesFrontCommand :=
  ⟨fun _ _ => step_of_pending_cons rfl, fun _ => step_of_pending_nil, fun d => ⟨d.tick_now, Dev.tick_of_porN_low⟩⟩

/-- Settles O5: the tables and the memory are empty at reset. -/
theorem resetIsCanonical : Obligations.ResetIsCanonical := ⟨rfl, rfl⟩

end Sys2Proof.Machine
end

section
/-! PROOFS. Small units of the model: contexts and partitions (R30), bytes in memory, the annals as they are read (R479),
an integer chunk (R357), reset (R519). -/

namespace Sys2Proof.Machine

/-! ### How a meaning answers -/

/-- A meaning of the device answers with what its operation makes of it. -/
theorem onDev_answers {ok : Bool} {f : NonVol → Dev → Dev} {s : State} {d : Dev} (hok : ok = true) (hd : f s.nv s.dev = d) :
    onDev ok f s = .next { s with dev := d } := by
  rw [onDev_ok hok, hd]

theorem onBoth_answers {ok : Bool} {f : NonVol × Dev → NonVol × Dev} {s : State} {x : NonVol × Dev} (hok : ok = true)
    (hx : f (s.nv, s.dev) = x) : onBoth ok f s = .next { s with nv := x.1, dev := x.2 } := by
  rw [onBoth_ok hok, hx]

/-! ### The contexts of a partition (R30) -/

/-- The partition count divides the 2048 contexts. -/
theorem Dev.parts_dvd (d : Dev) : d.parts ∣ 2048 :=
  Nat.pow_dvd_pow 2 (Nat.le_trans (Nat.min_le_left 4 _) (by decide) : d.plog2 ≤ 11)

/-- Settles O9: a context's partition is its number divided by the contexts of one partition. -/
theorem contextsOfPartitions : Obligations.ContextsOfPartitions := by
  intro d c k
  obtain ⟨n, hn⟩ := d.parts_dvd
  have hpos : 0 < d.parts := Nat.two_pow_pos _
  have hn0 : 0 < n := Nat.pos_of_ne_zero (by rintro rfl; cases hn)
  have hdiv : c * d.parts / 2048 = c / n := by rw [hn, Nat.mul_comm c, Nat.mul_div_mul_left _ _ hpos]
  rw [Dev.ctxPart, hdiv, hn, Nat.mul_div_cancel_left n hpos]
  by_cases hc : c = 0
  · simp [hc]
  · rw [if_neg hc, Option.some.injEq, Nat.div_eq_iff hn0]
    constructor
    · rintro ⟨h1, h2⟩
      exact ⟨hc, h1, by rw [Nat.succ_mul]; omega⟩
    · rintro ⟨-, h1, h2⟩
      rw [Nat.succ_mul] at h2
      exact ⟨h1, by omega⟩

/-! ### Memory -/

/-- Settles O29: `Mem.put` read at an address inside what it writes, at one outside, and in its form. -/
theorem storedBytesReadBack : Obligations.StoredBytesReadBack := fun m x bs hmark =>
  ⟨m.put_bytes x bs hmark, fun _ hy => m.put_byte_ne bs hy, Mem.put_wf x bs⟩

/-! ### The annals (R479) -/

theorem execRead_answers {s : State} (hpor : s.dev.pwr.porN = true) (off n : Nat) :
    Answers (.read off n) s (s.dev.annRead s.nv off n) :=
  show execRead off n s = _ from onDev_answers rfl (if_pos hpor)

theorem Dev.annRead_refused (nv : NonVol) (d : Dev) {off n : Nat}
    (h : off % 64 ≠ 0 ∨ n = 0 ∨ 16 < n ∨ 0x4000000 < off + 64 * n) : d.annRead nv off n = d.emit (.mctp [2]) :=
  if_neg (by omega)

theorem Dev.annRead_served (nv : NonVol) (d : Dev) {off n : Nat} (ha : off % 64 = 0) (h1 : 1 ≤ n) (h16 : n ≤ 16)
    (hend : off + 64 * n ≤ 0x4000000) :
    d.annRead nv off n = (readAnnals nv d off (64 * n)).2.emit (.mctp (0 :: (readAnnals nv d off (64 * n)).1)) :=
  if_pos ⟨ha, h1, h16, hend⟩

/-- Past the header, an aligned record is read as it lies in the annals, and no free value is drawn. -/
theorem readAnnals_record (nv : NonVol) (d : Dev) {off : Nat} {b : List Byte} (hoff : 0x20000 ≤ off) (ha : off % 64 = 0)
    (hb : SMap.read [] nv.annals off = b) (hlen : b.length = 64) : readAnnals nv d off 64 = (b, d) := by
  have hbytes : (List.range 64).map (fun i => if off + i < 0x20000 then (((List.range 64).map fun i =>
      Config.headerByte (d.freeIx + i))[i]?).getD 0 else ((SMap.read [] nv.annals ((off + i) / 64 * 64))[(off + i) % 64]?).getD 0) = b := by
    apply List.ext_getElem
    · simp [hlen]
    · intro i hi _
      have hi : i < 64 := by simpa using hi
      have hrow : (off + i) / 64 * 64 = off := by omega
      have hcol : (off + i) % 64 = i := by omega
      simp [show ¬off + i < 0x20000 by omega, hrow, hcol, hb, List.getElem?_eq_getElem (hlen.symm ▸ hi)]
  exact Prod.ext hbytes (if_neg (by omega))

/-- Settles O57: both answers are `annRead` on one side of its test, and one record is a read of 64 bytes. -/
theorem annalsReadWhole : Obligations.AnnalsReadWhole := by
  constructor
  · intro s off n hpor hbad
    rw [← Dev.annRead_refused s.nv s.dev (.inr hbad)]
    exact execRead_answers hpor off n
  · intro s off b hpor hoff ha hend hb hlen
    have hrec := readAnnals_record s.nv s.dev hoff ha hb hlen
    have h := execRead_answers hpor off 1
    rwa [Dev.annRead_served s.nv s.dev ha (Nat.le_refl 1) (by decide) hend, hrec] at h

/-! ### An integer chunk (R357) -/

theorem toSigned_toNat_eq_toInt {w : Nat} (x : BitVec w) : toSigned w x.toNat = x.toInt := by
  rw [toSigned, Nat.mod_eq_of_lt x.isLt, BitVec.toInt]

theorem ofNat_ofSigned (w : Nat) (x : Int) : BitVec.ofNat w (ofSigned w x) = BitVec.ofInt w x := by
  apply BitVec.eq_of_toNat_eq
  have hlt : (x % (2 ^ w : Nat)).toNat < 2 ^ w := by
    have := Int.emod_lt_of_pos x (Int.natCast_pos.mpr (Nat.two_pow_pos w))
    omega
  rw [BitVec.toNat_ofNat, BitVec.toNat_ofInt, ofSigned, Nat.mod_eq_of_lt hlt]

theorem satSigned_eq_clamp (w : Nat) (x : Int) :
    satSigned w x = max (-((2 ^ (w - 1) : Nat) : Int)) (min (((2 ^ (w - 1) : Nat) : Int) - 1) x) := by
  have hpos : 0 < 2 ^ (w - 1) := Nat.two_pow_pos _
  unfold satSigned
  dsimp only
  split_ifs <;> omega

theorem foldl_products (ab : List (Int × Int)) (x : Int) :
    ab.foldl (fun a p => a + p.1 * p.2) x = x + (ab.map (fun p => p.1 * p.2)).sum := by
  induction ab generalizing x with
  | nil => simp
  | cons p ab ih => simp [ih, add_assoc]

/-- Settles O42: the exact sum, clamped, is an INT32 and so survives the accumulator's 32 bits. -/
theorem integerChunkSaturates : Obligations.IntegerChunkSaturates := by
  rintro acc ab x rfl
  have hsum : toSigned 32 acc.toNat + ab.foldl (fun a p => a + p.1 * p.2) 0 =
      acc.toInt + (ab.map (fun p => p.1 * p.2)).sum := by
    rw [toSigned_toNat_eq_toInt, foldl_products, zero_add]
  unfold intChunk
  dsimp only
  rw [hsum, satSigned_eq_clamp, ofNat_ofSigned, decide_eq_true_eq]
  generalize acc.toInt + (ab.map (fun p => p.1 * p.2)).sum = x
  norm_num
  refine ⟨?_, by omega⟩
  exact Int.bmod_eq_of_le_mul_two (by omega) (by omega)

/-! ### Reset (R519) -/

theorem foldl_emit {α : Type} (f : α → Output) (l : List α) (d : Dev) :
    l.foldl (fun d n => d.emit (f n)) d = { d with outbox := d.outbox ++ l.map f } := by
  induction l generalizing d with
  | nil => simp
  | cons a l ih =>
    rw [List.foldl_cons, ih, List.map_cons, Dev.emit, List.append_assoc]
    rfl

/-- Settles O7: reset lists no register and no byte, so each reads its reset value; POR_N falling clears the device to
that, then disables the safe pins and the supplies. -/
theorem resetLeavesResetValues : Obligations.ResetLeavesResetValues := by
  refine ⟨fun _ => rfl, fun _ => rfl, rfl, rfl, rfl, fun s hprog => ?_⟩
  refine ⟨(resetAll s.nv s.dev).2, ?_, ?_, ?_⟩
  · have hnv : (resetAll s.nv s.dev).1 = s.nv := by simp only [resetAll, hprog]
    show execPorNAssert s = _
    rw [execPorNAssert, onBoth_ok rfl, hnv]
  · simp only [resetAll, hprog, foldl_emit]
    rfl
  · simp only [resetAll, hprog, foldl_emit]
    simp [Dev.emit, Dev.cleared]

end Sys2Proof.Machine
end

section
/-! PROOFS. Register writes: written ones that clear (R488), and buffered writes (R483). -/

namespace Sys2Proof.Machine

/-! ### Clearing bits -/

/-- A number is its bits in a mask and its bits outside it. -/
theorem land_add_ldiff (a m : Nat) : (a &&& m) + Nat.ldiff a m = a := by
  induction a using Nat.binaryRec generalizing m with
  | zero => simp [Nat.ldiff]
  | bit x a ih =>
    cases m using Nat.bitCasesOn with
    | bit y m =>
      rw [Nat.land_bit, Nat.ldiff_bit]
      have h := ih m
      cases x <;> cases y <;> simp only [Nat.bit_val] <;> simp <;> omega

theorem bitOf_sub_land (a m i : Nat) : bitOf (a - Nat.land a m) i = (bitOf a i && !bitOf m i) := by
  have h : a - Nat.land a m = Nat.ldiff a m := Nat.sub_eq_of_eq_add' (land_add_ldiff a m).symm
  rw [h, bitOf_eq_testBit, bitOf_eq_testBit, bitOf_eq_testBit, Nat.testBit_ldiff]

/-! ### The command -/

/-- A register write by a function that is served is a write to its BAR0 by an awake device. -/
theorem answers_registerWrite {s : State} {via : Via} (hup : s.dev.hostUp = true) (hvia : viaOk via = true)
    (hears : s.dev.hears via = true) (off size : Nat) (v : W32) :
    Answers (.registerWrite via off size v) s (s.dev.wakeIdle.writeBar s.nv via off size v.toNat) :=
  show execRegisterWrite via off size v s = _ from onDev_answers hvia (if_pos (by rw [hup, hears]; rfl))

theorem Dev.writeBar_pf0 (nv : NonVol) (d : Dev) {off : Nat} (h : off % 4 = 0) (v : Nat) :
    d.writeBar nv .pf0 off 4 v = d.writeReg nv off v true :=
  if_neg (by omega)

theorem answers_registerWrite_pf0 {s : State} (hup : s.dev.hostUp = true) {off : Nat} (h : off % 4 = 0) (v : W32) :
    Answers (.registerWrite .pf0 off 4 v) s (s.dev.wakeIdle.writeReg s.nv off v.toNat true) := by
  rw [← Dev.writeBar_pf0 s.nv s.dev.wakeIdle h]
  exact answers_registerWrite hup rfl rfl off 4 v

/-- A register without W1C fields is not cleared by a write. -/
theorem Dev.clearW1c_of_none {r : RegRow} (h : r.has .w1c = false) (d : Dev) (off v : Nat) : d.clearW1c r off v = d := by
  have hnone : r.flds.filter (fun f => decide (f.acc = .w1c)) = [] := by
    simpa [RegRow.has] using h
  simp [Dev.clearW1c, hnone]

/-- Putting bits of `v`, each in a field of its own, takes from `v` the bits so named. -/
theorem bitOf_foldl_putBits {fs : List FldRow} (h : ∀ f ∈ fs, f.hi = f.lo) (v m i : Nat) :
    bitOf (fs.foldl (fun m f => putBits m f.hi f.lo (bitsOf v f.hi f.lo)) m) i =
      if i ∈ fs.map (·.lo) then bitOf v i else bitOf m i := by
  induction fs generalizing m with
  | nil => rfl
  | cons f fs ih =>
    obtain ⟨hf, hfs⟩ := List.forall_mem_cons.mp h
    have hput : bitOf (putBits m f.hi f.lo (bitsOf v f.hi f.lo)) i = if i = f.lo then bitOf v i else bitOf m i := by
      rw [hf]
      split
      case isTrue hi =>
        subst hi
        rw [bitOf_putBits_field (Nat.le_refl _) (Nat.le_refl _), Nat.sub_self, bitOf_bitsOf (i := 0) (Nat.le_refl f.lo), Nat.add_zero]
      case isFalse hi =>
        obtain hlt | hgt := Nat.lt_or_gt_of_ne hi
        · rw [bitOf_eq_bitsOf, bitsOf_putBits_below hlt (Nat.le_refl _), ← bitOf_eq_bitsOf]
        · exact bitOf_putBits_above (Nat.le_refl _) hgt m _
    rw [List.foldl_cons, ih hfs, hput, List.map_cons]
    by_cases hi : i = f.lo <;> simp [hi]

/-- A register whose W1C fields are bits keeps those that are not written with 1 (R488). -/
theorem Dev.bitOf_clearW1c {r : RegRow} (h : ∀ f ∈ r.flds.filter (fun f => decide (f.acc = .w1c)), f.hi = f.lo) (d : Dev)
    (off v : Nat) {i : Nat} (hi : i ∈ (r.flds.filter (fun f => decide (f.acc = .w1c))).map (·.lo)) :
    bitOf (cellOf (d.clearW1c r off v).regs off) i = (bitOf (cellOf d.regs off) i && !bitOf v i) := by
  have hhit := bitOf_foldl_putBits h v 0 i
  rw [if_pos hi] at hhit
  unfold Dev.clearW1c
  dsimp only
  split
  case isTrue hzero =>
    rw [hzero] at hhit
    have hv : bitOf v i = false := hhit.symm.trans (by simp [bitOf])
    rw [hv, Bool.not_false, Bool.and_true]
  case isFalse =>
    rw [cellOf_putReg_self, Nat.mod_eq_of_lt ((Nat.sub_le _ _).trans_lt (cellOf_lt d.regs off)), bitOf_sub_land, hhit]

theorem Dev.clearW1c_frame (d : Dev) (r : RegRow) (off v : Nat) : d.clearW1c r off v = { d with regs := (d.clearW1c r off v).regs } := by
  unfold Dev.clearW1c
  dsimp only
  split <;> rfl

theorem Dev.cellOf_clearW1c_ne (d : Dev) (r : RegRow) {off off' : Nat} (v : Nat) (h : off' ≠ off) :
    cellOf (d.clearW1c r off v).regs off' = cellOf d.regs off' := by
  unfold Dev.clearW1c
  dsimp only
  split
  case isTrue => rfl
  case isFalse => exact cellOf_putReg_ne _ _ h

/-! ### MEM_STATUS (R488) -/

/-- The row of MEM_STATUS in the register map. -/
def memStatusRow : RegRow := ⟨"MEM_STATUS", 0x70000, 0, 1, 0, 1,
  [⟨5, 5, .w1c, 0⟩, ⟨4, 4, .w1c, 0⟩, ⟨3, 3, .w1c, 0⟩, ⟨2, 2, .w1c, 0⟩, ⟨1, 1, .w1c, 0⟩, ⟨0, 0, .w1c, 0⟩]⟩

theorem regAt_memStatus : regAt 0x70000 = some (memStatusRow, 0, 0) := by
  decide +kernel

theorem Dev.guarded_lt {d : Dev} {p : Nat} (h : d.guarded = some p) : p < 16 := by
  unfold Dev.guarded Dev.safePart at h
  split at h
  case h_1 q hq =>
    split at hq
    · cases hq
      split at h
      · cases h
        exact bitsOf_lt _ 7 4
      · cases h
    · cases hq
  case h_2 => cases h

theorem Dev.denies_memStatus (d : Dev) : d.denies 0x70000 = false := by
  unfold Dev.denies
  split
  case h_1 p hp =>
    have hlt := Dev.guarded_lt hp
    have hpcfg : 0x70000 ≠ R.CAL_PCFG.reg.off p 0 := by simp only [R.CAL_PCFG.reg, Fld.off]; omega
    have henergy : 0x70000 ≠ R.CAL_PENERGY.reg.off p 0 := by simp only [R.CAL_PENERGY.reg, Fld.off]; omega
    have htau : 0x70000 ≠ R.SLX_TAU.reg.off p 0 := by simp only [R.SLX_TAU.reg, Fld.off]; omega
    simp [hpcfg, henergy, htau]
  case h_2 => rfl

/-- MEM_STATUS has no field that takes the value written. -/
theorem Dev.writeBlock_memStatus (nv : NonVol) (d : Dev) (v : Nat) : d.writeBlock nv memStatusRow 0 0x70000 v = d := by
  simp only [Dev.writeBlock, Dev.denies_memStatus]
  rfl

theorem Dev.writeReg_memStatus (nv : NonVol) {d : Dev} (h : d.pwr.halt = false) (v : Nat) (pf0 : Bool) :
    d.writeReg nv 0x70000 v pf0 = d.clearW1c memStatusRow 0x70000 v := by
  have hanswers : d.answers (blockOf 0x70000) = true := by simp [Dev.answers, h]
  simp only [Dev.writeReg, regAt_memStatus, hanswers, if_true]
  exact Dev.writeBlock_memStatus ..

/-- A one-bit field that was written with 1 is set. -/
theorem Dev.bit_set_one (d : Dev) {f : Fld} (i j : Nat) (h : f.hi < 128) (hl : f.lo = f.hi) : (d.set f i j 1).bit f i j = true := by
  rw [Dev.bit, Dev.get_set_self d f i j 1 h hl.le, hl, Nat.add_sub_cancel_left]
  rfl

theorem Dev.poisonGranule_sets (d : Dev) (g : Nat) : (d.poisonGranule g).bit R.MEM_STATUS.UE_SEEN 0 0 = true :=
  show ((d.addSat (eccReg (tierOf (g * 64))).2 0 0 1).set R.MEM_STATUS.UE_SEEN 0 0 1).bit R.MEM_STATUS.UE_SEEN 0 0 = true from
    Dev.bit_set_one _ 0 0 (by decide) rfl

/-- Settles O23: the write clears the bits of the one register, and poisoning a granule sets its bit again. -/
theorem writtenOnesClear : Obligations.WrittenOnesClear := by
  intro s v hup hhalt
  have h := answers_registerWrite_pf0 hup (off := 0x70000) rfl v
  rw [Dev.writeReg_memStatus s.nv (s.dev.wakeIdle_halt.trans hhalt)] at h
  refine ⟨_, h, Dev.clearW1c_frame .., fun b hb => ?_, fun off hoff => Dev.cellOf_clearW1c_ne _ _ _ hoff,
    fun g => Dev.poisonGranule_sets _ g⟩
  refine Dev.bitOf_clearW1c (by decide) _ _ _ ?_
  interval_cases b <;> decide

/-! ### Buffered writes (R483) -/

theorem Dev.syncPend_frame (d : Dev) : d.syncPend = { d with regs := d.syncPend.regs } := rfl

theorem Dev.cellOf_syncPend (d : Dev) {off : Nat} (hp : off ≠ R.GLB_PEND.reg.base) (hb : off ≠ R.GLB_UPD_STAT.reg.base) :
    cellOf d.syncPend.regs off = cellOf d.regs off :=
  (cellOf_putCell_ne _ _ hb).trans (cellOf_putCell_ne _ _ hp)

theorem Dev.buffer_frame (d : Dev) (r : RegRow) (off v : Nat) (keep : FldRow → Bool) :
    d.buffer r off v keep = { d with regs := (d.buffer r off v keep).regs, buf := (d.buffer r off v keep).buf } := rfl

theorem Dev.lookup_buffer_self (d : Dev) (r : RegRow) (off v : Nat) (keep : FldRow → Bool) :
    ((d.buffer r off v keep).buf.lookup off).isSome = true := by
  have h := lookup_put_self d.buf off (BitVec.ofNat 128 (r.merge (fun f => decide (f.acc = .rw) && keep f)
    ((d.written off).getD (cellOf d.regs off)) v))
  exact h ▸ rfl

theorem Dev.lookup_buffer_ne (d : Dev) (r : RegRow) {off x : Nat} (v : Nat) (keep : FldRow → Bool) (h : x ≠ off) :
    (d.buffer r off v keep).buf.lookup x = d.buf.lookup x := lookup_put_ne _ _ h

theorem Dev.cellOf_buffer (d : Dev) (r : RegRow) (off v : Nat) (keep : FldRow → Bool) {x : Nat}
    (hp : x ≠ R.GLB_PEND.reg.base) (hb : x ≠ R.GLB_UPD_STAT.reg.base) :
    cellOf (d.buffer r off v keep).regs x = cellOf d.regs x := Dev.cellOf_syncPend _ hp hb

/-- A register outside GLB and the windows that does not act at the write is buffered. -/
theorem Dev.writeBlock_buffers (nv : NonVol) {d : Dev} {r : RegRow} {off : Nat} (hacts : r.base ∉ atOnce)
    (hden : d.denies off = false) (hrw : r.has .rw = true) (i v : Nat) : d.writeBlock nv r i off v = d.buffer r off v (fun _ => true) := by
  simp only [atOnce, List.mem_cons, List.not_mem_nil, or_false, not_or] at hacts
  obtain ⟨h1, h2, h3, h4, h5, h6, h7, h8, h9, h10, h11⟩ := hacts
  simp only [Dev.writeBlock, if_neg h1, if_neg h2, if_neg h3, if_neg h4, if_neg h5, if_neg h6, if_neg h7, if_neg h8, if_neg h9,
    if_neg h10, if_neg h11, hden, hrw, Bool.false_eq_true, if_false, if_true]

/-- A register of a context window that does not act at the write is buffered by PF0. -/
theorem Dev.writeWindow_buffers (nv : NonVol) {d : Dev} {r : RegRow} {c x : Nat} (h4 : x % 4 = 0)
    (hacts : x ∉ [0xC, 0x3C, 0x100, 0x104, 0x108, 0x10C, 0x110, 0x114]) (hden : d.denies (0x200000 + 0x400 * c + x) = false)
    (hrw : r.has .rw = true) (v : Nat) :
    d.writeWindow nv r c x v true = d.buffer r (0x200000 + 0x400 * c + x) v (fun _ => true) := by
  have hrw' : r.flds.any (fun f => decide (f.acc = .rw)) = true := hrw
  simp only [List.mem_cons, List.not_mem_nil, or_false, not_or] at hacts
  obtain ⟨h1, h2, h3, h5, h6, h7, h8, h9⟩ := hacts
  simp only [Dev.writeWindow, if_neg h1, if_neg h2, if_neg h3, if_neg (show ¬(0x104 ≤ x ∧ x ≤ 0x110) by omega), if_neg h9, hden,
    Bool.false_eq_true, if_false, Bool.true_or, Bool.and_true, hrw', if_true]

/-- R483: what PF0's write to a register does, when no field of it acts at the write. -/
theorem Dev.writeReg_buffers (nv : NonVol) {d : Dev} {r : RegRow} {off i j : Nat} (hr : regAt off = some (r, i, j))
    (hlo : 0x10000 ≤ off) (hhi : off < 0x120000 ∨ 0x200000 ≤ off) (h4 : off % 4 = 0)
    (hwin : 0x200000 ≤ off → off % 0x400 ∉ [0xC, 0x3C, 0x100, 0x104, 0x108, 0x10C, 0x110, 0x114])
    (hhalt : d.pwr.halt = false ∨ blockOf off ∈ [14, 16, 17, 18]) (hden : d.denies off = false) (hw1c : r.has .w1c = false)
    (hrw : r.has .rw = true) (hacts : off < 0x200000 → r.base ∉ atOnce) (v : Nat) :
    d.writeReg nv off v true = d.buffer r off v (fun _ => true) := by
  have hanswers : d.answers (blockOf off) = true := by
    rw [Dev.answers, Bool.or_eq_true]
    exact hhalt.imp (by simp [·]) (fun h => decide_eq_true (List.mem_cons_of_mem 0 h))
  simp only [Dev.writeReg, hr, hanswers, if_true, Dev.clearW1c_of_none hw1c]
  split
  case h_1 h0 => unfold blockOf at h0; split at h0 <;> omega
  case h_2 h18 =>
    have hge : 0x200000 ≤ off := by unfold blockOf at h18; split at h18 <;> omega
    have hoff : 0x200000 + 0x400 * windowCtx off + (off - 0x200000) % 0x400 = off := by unfold windowCtx; omega
    have hx : (off - 0x200000) % 0x400 = off % 0x400 := by omega
    have h := Dev.writeWindow_buffers nv (d := d) (r := r) (c := windowCtx off) (x := (off - 0x200000) % 0x400) (by omega)
      (by rw [hx]; exact hwin hge) (by rw [hoff]; exact hden) hrw v
    rwa [hoff] at h
  case h_3 _ h18 =>
    have hlt : off < 0x200000 := by
      by_contra hge
      exact h18 (if_neg hge)
    exact Dev.writeBlock_buffers nv (hacts hlt) hden hrw i v

/-- Settles O24: the write reaches `Dev.buffer` past every test of `writeReg`, and `buffer` touches nothing in force. -/
theorem bufferedWritesWait : Obligations.BufferedWritesWait := by
  intro s off i j v r hup h4 hr hlo hhi hwin hhalt hden hw1c hrw hacts
  have h := answers_registerWrite_pf0 hup h4 v
  rw [Dev.writeReg_buffers s.nv hr hlo hhi h4 hwin (by rwa [Dev.wakeIdle_halt]) hden hw1c hrw hacts] at h
  exact ⟨_, h, Dev.buffer_frame .., fun x hp hb => Dev.cellOf_buffer _ _ _ _ _ hp hb, Dev.lookup_buffer_self ..,
    fun x hx => Dev.lookup_buffer_ne _ _ _ _ hx⟩

end Sys2Proof.Machine
end

section
/-! PROOFS. The queue front end: doorbells and moderation (R86, R87, R90, R91), descriptor fetch (R88, R95, R99), and what
posting a record leaves of the registers. -/

namespace Sys2Proof.Machine

/-! ### Registers that a record leaves alone -/

/-- Two fields of context registers that share no bit. -/
def Fld.apart (f g : Fld) : Bool :=
  decide (f.s1 = 0x400 ∧ g.s1 = 0x400 ∧ f.hi < 128 ∧ f.lo ≤ f.hi ∧ g.lo ≤ g.hi) &&
    decide (f.base % 0x400 ≠ g.base % 0x400 ∨ g.hi < f.lo ∨ f.hi < g.lo)

theorem Dev.get_set_apart {f g : Fld} (h : f.apart g = true) (d : Dev) (c k v : Nat) :
    (d.set f c 0 v).get g k 0 = d.get g k 0 := by
  simp only [Fld.apart, Bool.and_eq_true, decide_eq_true_eq] at h
  obtain ⟨⟨hf, hg, hhi, hlo, hglo⟩, hapart⟩ := h
  by_cases heq : g.off k 0 = f.off c 0
  · refine Dev.get_set_other d f g c 0 k 0 v hhi hlo hglo (hapart.resolve_left ?_) heq
    simp only [Fld.off, hf, hg, Nat.mul_zero, Nat.add_zero] at heq
    omega
  · exact Dev.get_set_ne d f g c 0 k 0 v heq

/-- The fields that posting a record writes (R89, R91). -/
def postFlds : List Fld :=
  [R.CTX_STATUS.INFLIGHT, R.CTX_STATUS.CQ_FULL, R.CTX_STATUS.ENABLED, R.CTX_STATUS.CQ_OVF, R.SQ_HEAD.HEAD, R.CQ_TAIL.TAIL,
   R.CQ_TAIL.PHASE, R.CTX_CQ_LOST.LOST]

/-- No record changes the field. -/
def Fld.unposted (g : Fld) : Bool := postFlds.all (fun f => f.apart g)

/-- `e` holds field `g` of every context as `d` does. -/
def Dev.Holds (g : Fld) (d e : Dev) : Prop := ∀ k, e.get g k 0 = d.get g k 0

theorem Dev.Holds.trans {g : Fld} {a b c : Dev} (h : a.Holds g b) (h' : b.Holds g c) : a.Holds g c := fun k => (h' k).trans (h k)

theorem Dev.Holds.ite {g : Fld} {d a b : Dev} {p : Prop} [Decidable p] (ha : d.Holds g a) (hb : d.Holds g b) :
    d.Holds g (if p then a else b) := by
  split
  · exact ha
  · exact hb

theorem Dev.Holds.bit {g : Fld} {d e : Dev} (h : d.Holds g e) (k : Nat) : e.bit g k 0 = d.bit g k 0 := by
  rw [Dev.bit, Dev.bit, h]

theorem Dev.holds_emit (g : Fld) (d : Dev) (o : Output) : d.Holds g (d.emit o) := fun _ => rfl

section
variable {g : Fld} (hg : g.unposted = true) (d : Dev) (c : Nat)
include hg

theorem Dev.holds_set {f : Fld} (hf : f ∈ postFlds) (v : Nat) : d.Holds g (d.set f c 0 v) := fun k =>
  Dev.get_set_apart (List.all_eq_true.mp hg f hf) d c k v

theorem Dev.holds_setCtx (f : Ctx → Ctx) : d.Holds g (d.setCtx c f) := by
  unfold Dev.setCtx Dev.syncCtx
  refine .trans (b := { d with ctxs := SMap.write Ctx.reset d.ctxs c (f (d.ctx c)) }) (fun _ => rfl) ?_
  exact (((((Dev.holds_set hg _ c (by decide) _).trans (Dev.holds_set hg _ c (by decide) _)).trans
    (Dev.holds_set hg _ c (by decide) _)).trans (Dev.holds_set hg _ c (by decide) _)).trans
    (Dev.holds_set hg _ c (by decide) _)).trans (Dev.holds_set hg _ c (by decide) _)

theorem Dev.holds_interrupt : d.Holds g (d.interrupt c) := by
  unfold Dev.interrupt
  dsimp only
  split
  · exact (Dev.holds_setCtx hg d c _).trans (Dev.holds_emit g _ _)
  · exact Dev.holds_setCtx hg d c _

theorem Dev.holds_putRecord (h : Held) : d.Holds g (d.putRecord c h) := by
  unfold Dev.putRecord
  exact .ite (((Dev.holds_emit g d _).trans (Dev.holds_setCtx hg _ c _)).trans (Dev.holds_interrupt hg _ c))
    ((Dev.holds_emit g d _).trans (Dev.holds_setCtx hg _ c _))

theorem Dev.holds_lostRecord : d.Holds g (d.lostRecord c).1 :=
  (Dev.holds_set hg d c (f := R.CTX_CQ_LOST.LOST) (by decide) _).trans (Dev.holds_set hg _ c (by decide) _)

theorem Dev.holds_hold (h : Held) : d.Holds g (d.hold c h).1 := by
  have hkeep (f : Ctx → Ctx) : d.Holds g (d.setCtx c f, false).1 := Dev.holds_setCtx hg d c f
  unfold Dev.hold
  dsimp only
  split
  · exact hkeep _
  · split
    · exact (Dev.holds_setCtx hg d c _).trans (Dev.holds_lostRecord hg _ c)
    · exact hkeep _
  · split
    · exact Dev.holds_lostRecord hg d c
    · exact hkeep _

theorem Dev.holds_deliver (h : Held) : d.Holds g (d.deliver c h).1 := by
  have hput : d.Holds g (d.putRecord c h, false).1 := Dev.holds_putRecord hg d c h
  have hlost : d.Holds g (d.addSat R.CTX_CQ_LOST.LOST c 0 1, false).1 :=
    Dev.holds_set hg d c (f := R.CTX_CQ_LOST.LOST) (by decide) _
  unfold Dev.deliver
  dsimp only
  split
  · exact hlost
  · split
    · exact hput
    · exact Dev.holds_hold hg d c h

theorem Dev.holds_post (h : Held) : d.Holds g (d.post c h) := by
  unfold Dev.post
  dsimp only
  split
  · split
    · exact ((Dev.holds_deliver hg d c _).trans (Dev.holds_deliver hg _ 0 _)).trans (Dev.holds_deliver hg _ 0 _)
    · exact (Dev.holds_deliver hg d c _).trans (Dev.holds_deliver hg _ 0 _)
  · exact Dev.holds_deliver hg d c h

theorem Dev.holds_event (code status sub : Nat) (info : List Byte) (resDa : Nat) :
    d.Holds g (d.event c code status sub info resDa) := Dev.holds_post hg d c _

end

/-! ### A PCIe error of a fetch (R99) -/

theorem Dev.fetchTurn_of_stopped {d : Dev} {c : Nat} (h : d.bit R.CTX_STATUS.FETCH_STOP c 0 = true) : d.fetchTurn c = false := by
  simp [Dev.fetchTurn, Dev.canFetch, h]

/-- The device with FETCH_ERR and FETCH_STOP of a context set. -/
def Dev.stopFetch (d : Dev) (c : Nat) : Dev := (d.set R.CTX_ERR.FETCH_ERR c 0 1).set R.CTX_STATUS.FETCH_STOP c 0 1

theorem Dev.stopFetch_sets_err (d : Dev) (c : Nat) : (d.stopFetch c).bit R.CTX_ERR.FETCH_ERR c 0 = true := by
  have h := (d.set R.CTX_ERR.FETCH_ERR c 0 1).get_set_apart (f := R.CTX_STATUS.FETCH_STOP) (g := R.CTX_ERR.FETCH_ERR) (by decide) c c 1
  rw [Dev.bit, Dev.stopFetch, h]
  exact Dev.bit_set_one d c 0 (by decide) rfl

theorem Dev.stopFetch_sets_stop (d : Dev) (c : Nat) : (d.stopFetch c).bit R.CTX_STATUS.FETCH_STOP c 0 = true :=
  Dev.bit_set_one (d.set R.CTX_ERR.FETCH_ERR c 0 1) c 0 (by decide) rfl

/-- The event of a failed fetch writes neither bit. -/
theorem Dev.bit_fetchError {g : Fld} (hg : g.unposted = true) (d : Dev) (c k : Nat) :
    (d.fetchError c).bit g k 0 = (d.stopFetch c).bit g k 0 :=
  Dev.Holds.bit (Dev.holds_event hg (d.stopFetch c) c 0x0B 0 0 (leBytes 2 (d.ctx c).sqHead) 0) k

/-- Of the answers of the host, all but data are errors. -/
theorem answers_descriptorFetch_error {s : State} {c : Nat} {r : PcieReply} (hc : c < 2048) (hturn : s.dev.fetchTurn c = true)
    (hr : r = .unsupported ∨ r = .aborted ∨ r = .poisoned ∨ r = .timeout) : Answers (.descriptorFetch c r) s (s.dev.fetchError c) := by
  show execDescriptorFetch c r s = _
  refine onDev_answers (decide_eq_true hc) ?_
  rw [if_pos hturn]
  obtain rfl | rfl | rfl | rfl := hr <;> rfl

/-- Settles O10: the event that follows writes neither bit, and a stopped context has no turn. -/
theorem fetchErrorStopsFetching : Obligations.FetchErrorStopsFetching := by
  intro s c r hc hturn hr
  have hstop : (s.dev.fetchError c).bit R.CTX_STATUS.FETCH_STOP c 0 = true :=
    (Dev.bit_fetchError (by decide) _ c c).trans (Dev.stopFetch_sets_stop ..)
  have herr : (s.dev.fetchError c).bit R.CTX_ERR.FETCH_ERR c 0 = true :=
    (Dev.bit_fetchError (by decide) _ c c).trans (Dev.stopFetch_sets_err ..)
  have htells := (s.dev.stopFetch c).tells_event c 0x0B 0 0 (leBytes 2 (s.dev.ctx c).sqHead) 0
  exact ⟨_, s.dev.stopFetch c, answers_descriptorFetch_error hc hturn hr, rfl, Dev.stopFetch_sets_err .., herr, hstop,
    Dev.fetchTurn_of_stopped hstop, htells.reqs, htells.runs⟩

/-! ### Descriptor fetch (R88, R94, R95) -/

theorem answers_descriptorFetch_data {s : State} {c : Nat} (hc : c < 2048) (hturn : s.dev.fetchTurn c = true) (bs : List Byte) :
    Answers (.descriptorFetch c (.data bs)) s (s.dev.accept c (slice bs 0 64)) :=
  show execDescriptorFetch c (.data bs) s = _ from onDev_answers (decide_eq_true hc) (if_pos hturn)

/-- Settles O12: `accept` splits on the first failure of R95, then on the safe state. -/
theorem fetchTakesDescriptor : Obligations.FetchTakesDescriptor := by
  constructor
  · rintro s c bs b r e hc hturn rfl rfl rfl
    have h := answers_descriptorFetch_data hc hturn bs
    refine ⟨fun hv hs => ?_, fun hv hs => ?_, fun v hv => ?_⟩
    all_goals simp only [Dev.accept, hv] at h
    · rwa [if_neg (by rw [hs]; exact Bool.false_ne_true)] at h
    · rwa [if_pos hs] at h
    · exact h
  · rintro s c hc hturn _ rfl _ rfl
    refine ⟨fun r hr => answers_descriptorFetch_error hc hturn hr, ?_⟩
    show execPcieCompletionTimeout none c s = _
    exact onDev_answers (decide_eq_true hc) (if_pos hturn)

/-! ### Doorbells (R86, R87, R91) and moderation (R90) -/

section
variable {s : State} {c off : Nat} (hc : c < 2048) (hoff : off < 4096) (hup : s.dev.hostUp = true)
include hc hoff hup

theorem answers_submissionDoorbell (size : Nat) (v : W32) :
    Answers (.submissionDoorbell c off size v) s (s.dev.doorbell c off size v.toNat) :=
  show execSubmissionDoorbell c off size v s = _ from onDev_answers (decide_eq_true ⟨hc, hoff⟩) (if_pos hup)

theorem answers_completionDoorbell (size : Nat) (v : W32) :
    Answers (.completionDoorbell c off size v) s (s.dev.doorbell c off size v.toNat) :=
  show execCompletionDoorbell c off size v s = _ from onDev_answers (decide_eq_true ⟨hc, hoff⟩) (if_pos hup)

end

section
variable (d : Dev) (c v : Nat) {off size : Nat}

theorem Dev.doorbell_wrong_size (h : size ≠ 4 ∨ off ≠ 0 ∧ off ≠ 4) :
    d.doorbell c off size v = d.wakeIdle.set R.CTX_ERR.DB_SIZE c 0 1 := if_pos h

theorem Dev.doorbell_disabled (ho : off = 0 ∨ off = 4) (h : (d.ctx c).enabled = false ∨ (d.ctx c).aborting ≠ none) :
    d.doorbell c off 4 v = d.wakeIdle.set R.CTX_ERR.DB_DISABLED c 0 1 := by
  have hoff : ¬((4 : Nat) ≠ 4 ∨ off ≠ 0 ∧ off ≠ 4) := by omega
  have hx : (!(d.ctx c).enabled || (d.ctx c).aborting.isSome) = true := by
    simpa [Option.isSome_iff_ne_none] using h
  simp only [Dev.doorbell, if_neg hoff, if_pos hx]

theorem Dev.doorbell_enabled (ho : off = 0 ∨ off = 4) (he : (d.ctx c).enabled = true) (ha : (d.ctx c).aborting = none) :
    d.doorbell c off 4 v = if 2 ^ (if off = 0 then (d.ctx c).sqLog else (d.ctx c).cqLog) ≤ v then d.wakeIdle.set R.CTX_ERR.DB_RANGE c 0 1
      else if off = 0 then d.wakeIdle.submitTail c v else d.wakeIdle.completeHead c v := by
  have hoff : ¬((4 : Nat) ≠ 4 ∨ off ≠ 0 ∧ off ≠ 4) := by omega
  have hx : ¬(!(d.ctx c).enabled || (d.ctx c).aborting.isSome) = true := by simp [he, ha]
  simp only [Dev.doorbell, if_neg hoff, if_neg hx]

end

/-- Settles O11: the branches of a doorbell write, and the moderation timer that is due. -/
theorem queueDoorbellsAct : Obligations.QueueDoorbellsAct := by
  constructor
  · rintro s c v x d hc hup rfl rfl
    have hsub := answers_submissionDoorbell (off := 0) hc (by decide) hup 4 v
    have hcmp := answers_completionDoorbell (off := 4) hc (by decide) hup 4 v
    refine ⟨fun he ha hv => ?_, fun he ha hv => ⟨_, rfl, ?_⟩, fun off size hoff h => ?_, fun h => ?_, fun he ha => ⟨fun hv => ?_, fun hv => ?_⟩⟩
    · rwa [Dev.doorbell_enabled _ _ _ (.inl rfl) he ha, if_pos rfl, if_neg (Nat.not_le.mpr hv)] at hsub
    · rwa [Dev.doorbell_enabled _ _ _ (.inr rfl) he ha, if_neg (show ¬(4 : Nat) = 0 by decide),
        if_neg (Nat.not_le.mpr hv), if_neg (by decide)] at hcmp
    · rw [← Dev.doorbell_wrong_size s.dev c v.toNat h]
      exact ⟨answers_submissionDoorbell hc hoff hup size v, answers_completionDoorbell hc hoff hup size v⟩
    · rw [Dev.doorbell_disabled _ _ _ (.inl rfl) h] at hsub
      rw [Dev.doorbell_disabled _ _ _ (.inr rfl) h] at hcmp
      exact ⟨hsub, hcmp⟩
    · rwa [Dev.doorbell_enabled _ _ _ (.inl rfl) he ha, if_pos rfl, if_pos hv] at hsub
    · rwa [Dev.doorbell_enabled _ _ _ (.inr rfl) he ha, if_neg (show ¬(4 : Nat) = 0 by decide), if_pos hv] at hcmp
  · intro s c hc hen ht hs hdue
    show execMsixModerationTimer c s = _
    refine onDev_answers (decide_eq_true hc) (if_pos ?_)
    rw [hen, decide_eq_true ⟨ht, hs, hdue⟩]
    rfl

end Sys2Proof.Machine
end

section
/-! PROOFS. Aborts and purges (R105, R107 to R109), host resets and the link (R110 to R113, R522). -/

namespace Sys2Proof.Machine

/-! ### Aborts -/

theorem Dev.ctxPart_any_safe {d : Dev} {c : Nat} : (d.ctxPart c).any (fun p => d.isSafe p) = false ↔
    ∀ p, d.ctxPart c = some p → d.isSafe p = false := by
  cases d.ctxPart c <;> simp

theorem Dev.abortWrite_begins {d : Dev} {c : Nat} (h : ∀ p, d.ctxPart c = some p → d.isSafe p = false) :
    d.abortWrite c = d.beginAbort c 1 :=
  if_neg (by rw [Dev.ctxPart_any_safe.mpr h]; exact Bool.false_ne_true)

theorem Dev.abortWrite_denied {d : Dev} {c p : Nat} (hp : d.ctxPart c = some p) (hs : d.isSafe p = true) :
    d.abortWrite c = d.set R.CTX_ERR.ABORT_DENIED c 0 1 :=
  if_pos (by rw [hp]; exact hs)

theorem answers_ctxAbort {s : State} {c : Nat} (hc : c < 2048) (hup : s.dev.hostUp = true) :
    Answers (.ctxAbort c) s (s.dev.wakeIdle.abortWrite c) :=
  show execCtxAbort c s = _ from onDev_answers (decide_eq_true hc) (if_pos hup)

/-- The end of an abort that is no orphan's. -/
theorem Dev.endAbort_of_aborting {d : Dev} {c sub : Nat} (h : (d.ctx c).aborting = some sub) (h5 : sub ≠ 5) :
    d.endAbort c = ((((d.abortRecords c sub).setCtx c (fun x => { x with enabled := false, aborting := none })).setBoth
      R.CTX_CTRL.EN c 0 0).set R.CTX_STATUS.ABORT_DONE c 0 1).set R.CTX_ABORT.ABORT c 0 0 := by
  simp only [Dev.endAbort, h, if_neg h5]

theorem Dev.orphaned_of_aborting {d : Dev} {c sub : Nat} (h : (d.ctx c).aborting = some sub) (h5 : sub ≠ 5) :
    d.orphaned c = false := by
  simp [Dev.orphaned, h, h5]

/-! ### Purges -/

/-- A mask with one bit names one partition. -/
theorem onesOf_one_hot {k : Nat} (h : k < 16) : onesOf (BitVec.ofNat 16 (2 ^ k)).toNat 16 = [k] := by
  decide +revert

theorem answers_partitionPurge {s : State} (hup : s.dev.hostUp = true) (ks : BitVec 16) :
    Answers (.partitionPurge ks) s (s.dev.wakeIdle.purgeParts ks.toNat) :=
  show execPartitionPurge ks s = _ from onDev_answers rfl (if_pos hup)

theorem Dev.purgeParts_one_hot {k : Nat} (h : k < 16) (d : Dev) : d.purgeParts (BitVec.ofNat 16 (2 ^ k)).toNat =
    if d.isSafe k then d.set R.GLB_PURGE_STAT.DENIED 0 0 1 else if k < d.parts then (d.setBusy k 1).beginPurge k 2 else d := by
  rw [Dev.purgeParts, onesOf_one_hot h]
  rfl

theorem answers_purgeDone {part : Option Nat} (h : part.all (fun k => decide (k < 16)) = true) (s : State) :
    Answers (.purgeDone part) s (s.dev.purgeEnds part) :=
  show execPurgeDone part s = _ from onDev_answers h rfl

/-- Settles O13: each command is its operation, and a mask of one bit purges that one partition. -/
theorem abortsAndPurgesAct : Obligations.AbortsAndPurgesAct := by
  refine ⟨⟨fun s c hc hup hopen => ?_, fun s c p hc hup hp hs => ?_, ?_⟩, fun s k hk hup hs hp => ?_, fun s k hk hup hs => ?_,
    fun s hup => ⟨_, rfl, ?_⟩, fun s k hk hbusy => ?_, fun s hbusy => ?_⟩
  · rw [← Dev.abortWrite_begins hopen]
    exact answers_ctxAbort hc hup
  · rw [← Dev.abortWrite_denied hp hs]
    exact answers_ctxAbort hc hup
  · rintro s c sub _ hc hab h5 rfl
    rw [← Dev.endAbort_of_aborting hab h5]
    show execAbortDone c s = _
    exact onDev_answers (decide_eq_true hc) (if_neg (by rw [Dev.orphaned_of_aborting hab h5]; exact Bool.false_ne_true))
  · have h := answers_partitionPurge hup (BitVec.ofNat 16 (2 ^ k))
    rwa [Dev.purgeParts_one_hot hk, if_neg (by rw [hs]; exact Bool.false_ne_true), if_pos hp] at h
  · have h := answers_partitionPurge hup (BitVec.ofNat 16 (2 ^ k))
    rwa [Dev.purgeParts_one_hot hk, if_pos hs] at h
  · show execDevicePurge s = _
    exact onDev_answers rfl (if_pos hup)
  · have h : s.dev.purgeEnds (some k) = (s.dev.endPurge k).setBusy k 0 := if_pos hbusy
    rw [← h]
    exact answers_purgeDone (part := some k) (decide_eq_true hk) s
  · have h : s.dev.purgeEnds none = (s.dev.purgeable.foldl (fun d k => d.endPurge k) s.dev).set R.GLB_PURGE_STAT.DEV_BUSY 0 0 0 :=
      if_pos hbusy
    rw [← h]
    exact answers_purgeDone rfl s

/-! ### Host resets -/

/-- Settles O14: each command is its operation, behind the test of the state that allows it. -/
theorem hostResetsAct : Obligations.HostResetsAct := by
  refine ⟨fun s fn hfn hup => ?_, fun s k hpor => ⟨_, rfl, ?_⟩, fun s fn hfn _ => ?_, fun s hready => ?_⟩
  · show execFunctionLevelReset fn s = _
    exact onDev_answers (decide_eq_true hfn) (if_pos hup)
  · show execHostReset k s = _
    exact onDev_answers rfl (if_pos hpor)
  · show execOrphanQuiesceDone fn s = _
    exact onDev_answers (decide_eq_true hfn) rfl
  · show execPcieLinkUp s = _
    exact onDev_answers rfl (if_pos hready)

end Sys2Proof.Machine
end

section
/-! PROOFS. Requests that load, unload and revoke (R102, R103, R405, R406), and changes that wait for their turn (R57,
R284, R334, R335, R337). Each operation has its lemma under the hypotheses that let the request pass. -/

namespace Sys2Proof.Machine

/-! ### LOAD_WB, UNLOAD_WB and REVOKE -/

/-- R406: an image that reads the same twice is installed. -/
theorem Dev.loadSecond_installs {d d2 : Dev} {r : Req} {w : Wb} {im im2 : List Byte} {h : HostView}
    (h2 : d.readImage r h = (d2, .ok im2)) (heq : sha384 im = sha384 im2) :
    d.loadSecond r w im h = (d2.install w im).finishReq r 0 0 none 0 (leBytes 4 w.handle) := by
  simp only [Dev.loadSecond, h2, if_pos heq]

/-- R405: an image that passes every check and needs no domain that is off is read a second time. -/
theorem Dev.loadWb_goesOn {d d1 : Dev} {r : Req} {w : Wb} {im : List Byte} {h1 h2 : HostView} (hfirst : d.loadFirst r = true)
    (hreach : d.imageReach r = true) (hhalt : d.pwr.halt = false) (hfuse : d.pwr.fusing = false)
    (hread : d.readImage r h1 = (d1, .ok im))
    (hcheck : d1.checkImage im (dLen r.desc) r.part (some r.ctx) (d1.bit R.CTX_CAL.SAFETY r.ctx 0) = .ok w)
    (hdom : (d1.needs w).filter (fun n => !d1.domainOn n) = []) : d.loadWb r h1 h2 = d1.loadSecond r w im h2 := by
  simp only [Dev.loadWb, hfirst, hreach, hhalt, hfuse, hread, hcheck, hdom, Bool.not_true, Bool.false_eq_true, if_false,
    Bool.or_self, List.isEmpty_nil, if_true]

/-- R102: an idle workbook is unloaded, a busy one with FORCE. -/
theorem Dev.unloadWb_waits (d : Dev) (r : Req) (h : d.wbBusy (dHandle r.desc % 256) = false ∨ bitOf (dArg1 r.desc) 0 = true) :
    ∀ e : Dev, e = ((d.setReq r.id (fun x => { x with st := .waiting })).cal.entries.filter
      (fun e => decide (e.wb = dHandle r.desc % 256))).foldl (fun d e => d.revokeOne e 0x5000)
        (d.setReq r.id (fun x => { x with st := .waiting })) →
    d.unloadWb r = e.settleWaits (e.reqs.length + 1) := by
  rintro e rfl
  have hno : (d.wbBusy (dHandle r.desc % 256) && !bitOf (dArg1 r.desc) 0) ≠ true := by
    rcases h with h | h <;> simp [h]
  exact if_neg hno

/-- R103: an entry of the request's own context is revoked. -/
theorem Dev.revoke_waits {d : Dev} {r : Req} {e : Entry} (he : d.entry (dArg1 r.desc % 65536) = some e)
    (hctx : e.ctx = some r.ctx) : ∀ d' : Dev, d' = d.setReq r.id (fun x => { x with st := .waiting }) →
    d.revoke r = (d'.revokeEntry e 0x5000).settleWaits (d'.reqs.length + 1) := by
  rintro d' rfl
  simp only [Dev.revoke, he, hctx, ne_eq, not_true_eq_false, if_false]

/-- Settles O15: the operation of each opcode, with the request that is fetched. -/
theorem workbooksComeAndGo : Obligations.WorkbooksComeAndGo := by
  refine ⟨?_, ?_, ?_⟩
  · intro s req h1 h2 r d1 d2 im im2 w hf hfirst hreach hhalt hfuse hr1 hcheck hdom hr2 heq
    show execLoadWb req h1 h2 s = _
    refine onDev_answers rfl ?_
    simp only [hf]
    rw [Dev.loadWb_goesOn hfirst hreach hhalt hfuse hr1 hcheck hdom, Dev.loadSecond_installs hr2 heq]
  · intro s req r hf hidle d hd
    show execUnloadWb req s = _
    refine onDev_answers rfl ?_
    simp only [hf]
    exact s.dev.unloadWb_waits r hidle d hd
  · intro s req r e hf he hctx d hd
    show execRevoke req s = _
    refine onDev_answers rfl ?_
    simp only [hf]
    exact Dev.revoke_waits he hctx d hd

/-! ### Changes of an index and of the map -/

/-- R57: a request whose single step fits its reserve joins the queue. -/
theorem Dev.takeMaint_of_fits {d : Dev} {r : Req} (h : d.stepFits r = true) : d.takeMaint r = d.queueMaint r := if_pos h

theorem Dev.queueChange_queues {d e : Dev} {r : Req} {x : Idx} {h : HostView} {ok : List Byte → List Byte → Bool} {bs : List Byte}
    (hx : d.idxOf r = .ok x) (hreach : d.inReach r.part (some r.ctx) (dArg0 r.desc) (dLen r.desc) false = true)
    (hread : d.read (r.who 10) h (dArg0 r.desc) (dLen r.desc) = (e, .ok bs)) (hok : ok x.blk bs = true)
    (hfit : e.stepFits r = true) : d.queueChange r h ok = e.queueMaint r := by
  simp only [Dev.queueChange, hx, hreach, hread, hok, Bool.not_true, Bool.false_eq_true, if_false, if_true,
    Dev.takeMaint_of_fits hfit]

theorem Dev.mapCommit_queues {d e : Dev} {r : Req} {m : MapSt} {bs : List Byte} {ops : List (List Byte)}
    (hm : d.map = some m) (hpart : m.part = r.part) (hshare : d.inShare r.part (dArg0 r.desc) (dLen r.desc) = true)
    (hread : d.readDev (r.who 6) (dArg0 r.desc) (dLen r.desc) = (e, .ok bs)) (hops : opsOf m.blk bs = some ops)
    (hfit : e.stepFits r = true) : d.mapCommit r = e.queueMaint r := by
  simp only [Dev.mapCommit, hm, hpart, hshare, hread, hops, Bool.not_true, Bool.false_eq_true, if_false, ne_eq,
    not_true_eq_false, Option.isNone_some, Dev.takeMaint_of_fits hfit]

theorem Dev.publishEpoch_waits {d : Dev} {r : Req} {x : Idx} (hx : d.idxOf r = .ok x) :
    d.publishEpoch r = (d.setReq r.id (fun r => { r with st := .publishing })).syncIdx x.slot := by
  simp only [Dev.publishEpoch, hx]

/-- Settles O18: the operation of each opcode, with the request that is fetched. -/
theorem changesAreQueued : Obligations.ChangesAreQueued := by
  refine ⟨?_, ?_, ?_⟩
  · intro s req h r x e bs hx hreach hread
    refine ⟨fun hf hok hfit => ?_, fun hf hok hfit => ?_⟩
    · show execInsert req h s = _
      refine onDev_answers rfl ?_
      simp only [hf]
      exact Dev.queueChange_queues hx hreach hread hok hfit
    · show execDelete req h s = _
      refine onDev_answers rfl ?_
      simp only [hf]
      exact Dev.queueChange_queues (ok := fun _ bs => idsOk bs) hx hreach hread hok hfit
  · intro s req r m e bs ops hf hm hpart hshare hread hops hfit
    show execMapCommit req s = _
    refine onDev_answers rfl ?_
    simp only [hf]
    exact Dev.mapCommit_queues hm hpart hshare hread hops hfit
  · intro s req r x hf hx
    show execPublishEpoch req s = _
    refine onDev_answers rfl ?_
    simp only [hf]
    exact Dev.publishEpoch_waits hx

end Sys2Proof.Machine
end

section
/-! PROOFS. The calendar: releases, completion, the watchdog, boundaries, the cap level (R44, R49, R58 to R65, R73, R517).
-/

namespace Sys2Proof.Machine

/-! ### Releases and completion -/

theorem Dev.entryRelease_due {d : Dev} {slot : Nat} {e : Entry} (he : d.entry slot = some e) (hrel : d.releasable e = true)
    (hnom : e.nominal = true) (hdue : e.relNom e.next ≤ d.schedNow e.part) :
    d.entryRelease slot = d.releaseRun e (e.relNom e.next) false := by
  simp only [Dev.entryRelease, he, hrel, hnom, hdue, decide_true, Bool.and_self, if_true]

/-- R61, R62: a late entry is released at Tmin with the leap, at T without it. -/
theorem Dev.leapRelease_due {d : Dev} {slot : Nat} {e : Entry} {g : Bool} (he : d.entry slot = some e)
    (hrel : d.releasable e = true) (hnom : e.nominal = false) (hg : d.leapGranted e = g)
    (hdue : e.relAfter (if g then e.alm.tmin else e.alm.period) ≤ d.schedNow e.part) :
    d.leapRelease slot = d.releaseRun e (e.relAfter (if g then e.alm.tmin else e.alm.period)) g := by
  simp only [Dev.leapRelease, he, hrel, hnom, hg, hdue, Bool.not_false, decide_true, Bool.and_self, if_true]

theorem Dev.runEligible_set {d : Dev} {id slot : Nat} {r : Run} {e : Entry} (hr : d.run id = some r) (hsrc : r.src = .entry slot)
    (he : d.entry slot = some e) (hel : r.eligible = false) (hin : d.inputsSet e.alm.inputs = true) :
    d.runEligible id = d.makeEligible r e.alm.inputs e.alm.clear (!e.alm.inputs.isEmpty) := by
  simp only [Dev.runEligible, hr, hsrc, he, hel, hin, Bool.not_false, Bool.and_self, if_true]

theorem Dev.runComplete_over {d : Dev} {id : Nat} {r : Run} (hr : d.run id = some r) (hover : d.runOver r = true) :
    d.runComplete id = (d.markStarted id).finishRun (((d.markStarted id).run id).getD r)
      (let x := ((d.markStarted id).run id).getD r
       (if x.status = 0 then (d.markStarted id).okStatus x else (x.status, x.sub)).1)
      (let x := ((d.markStarted id).run id).getD r
       (if x.status = 0 then (d.markStarted id).okStatus x else (x.status, x.sub)).2)
      ((d.markStarted id).resultDa (((d.markStarted id).run id).getD r)) (((d.markStarted id).run id).getD r).info := by
  simp only [Dev.runComplete, hr, hover, if_true]

/-! ### The watchdog (R63 to R65) -/

/-- The record that a late run leaves. -/
def Dev.lateRecord (d : Dev) (e : Entry) (r : Run) : Dev :=
  d.annal 4 1 1 (annUnit e.part 0) (leBytes 2 e.slot ++ leBytes 4 (r.k % 2 ^ 32))

section
variable {d : Dev} {id slot : Nat} {r : Run} {e : Entry}

/-- Past prom + LATE_TOL the run is recorded, then its entry's class decides. -/
theorem Dev.watchdog_late (hr : d.run id = some r) (hsrc : r.src = .entry slot) (he : d.entry slot = some e)
    (hlate : r.prom + e.alm.lateTol < d.schedNow r.part) (hsus : e.suspended = false) (hend : e.ending = none) :
    d.watchdog id =
      if e.alm.cls = 1 then (d.lateRecord e r).dangerous 2 ((e.channel.map (·.1)).getD 0) 0 false (some r.id)
      else (d.lateRecord e r).setEntry slot (fun x => { x with suspended := true }) := by
  simp only [Dev.watchdog, hr, hsrc, he, hsus, hend, Nat.not_le.mpr hlate, decide_false, Option.isSome_none, Bool.or_self,
    Bool.false_eq_true, if_false, Dev.lateRecord]
end

/-! ### Boundaries (R44) -/

theorem Dev.orbitBoundary_passed {d : Dev} {p : Nat} (h : (d.pcal p).boundary < d.lastBoundary p) :
    ∀ e : Dev, e = d.setPcal p (fun c => { c with orbits := c.orbits + 1, boundary := d.lastBoundary p }) →
    d.orbitBoundary p = (((e.publishIndices p).publishMap p).settleWaits (e.reqs.length + 1)).capBoundary p := by
  rintro e rfl
  exact if_pos h

/-- Settles O20: each command is due under its hypotheses, and does what its operation says. -/
theorem calendarProceeds : Obligations.CalendarProceeds := by
  refine ⟨⟨?_, ?_, ?_, ?_, ?_, ?_⟩, ?_, ?_, ?_, ?_, ?_⟩
  · intro s slot e hslot he hrel hnom hdue
    show execEntryRelease slot s = _
    exact onDev_answers (decide_eq_true hslot) (Dev.entryRelease_due he hrel hnom hdue)
  · intro s slot e hslot he hrel hnom hg hdue
    show execLeapRelease slot s = _
    exact onDev_answers (decide_eq_true hslot) (Dev.leapRelease_due he hrel hnom hg hdue)
  · intro s slot e hslot he hrel hnom hg hdue
    show execLeapRelease slot s = _
    exact onDev_answers (decide_eq_true hslot) (Dev.leapRelease_due he hrel hnom hg hdue)
  · intro s id slot r e hr hsrc he hel hin
    show execRunEligible id s = _
    exact onDev_answers rfl (Dev.runEligible_set hr hsrc he hel hin)
  · intro s id r hr hst hdue hstop
    show execAperiodicRelease id s = _
    refine onDev_answers rfl ?_
    simp only [hr, hst, hdue, hstop, and_self, decide_true, Bool.not_false, Bool.and_self, if_true]
  · intro s id r hr hover _ _
    show execRunComplete id s = _
    exact onDev_answers rfl (Dev.runComplete_over hr hover)
  · intro s id slot r e hr hsrc he hlate hsus hend
    have hrun := Dev.watchdog_late hr hsrc he hlate hsus hend
    refine ⟨fun hcls => ?_, fun hcls => ?_⟩
    · show execDeadlineWatchdogExpiry id s = _
      exact onDev_answers rfl (hrun.trans (if_pos hcls))
    · show execDeadlineWatchdogExpiry id s = _
      exact onDev_answers rfl (hrun.trans (if_neg hcls))
  · intro s p hp hparts hpass
    refine ⟨_, rfl, ?_⟩
    show execOrbitBoundary p s = _
    exact onDev_answers (decide_eq_true hp) ((if_pos hparts).trans (Dev.orbitBoundary_passed hpass _ rfl))
  · intro s h
    show execReadmissionDone s = _
    exact onDev_answers rfl (if_pos h)
  · intro s l h
    show execPwrCapHostWrite l s = _
    exact onDev_answers rfl (if_pos h)
  · intro s l h
    show execCmcCapRequest l s = _
    exact onDev_answers rfl (if_pos h)

end Sys2Proof.Machine
end

section
/-! PROOFS. Registers: strobes, the annals window and a register found upset (R478, R480, R484 to R486, R495); the mailbox:
its read selectors (R492) and its write selectors (R490). -/

namespace Sys2Proof.Machine

/-! ### Registers -/

/-- A word mask with one bit names one block. -/
theorem onesOf_block {b : Nat} (h : b < 18) : onesOf (BitVec.ofNat 18 (2 ^ b)).toNat 18 = [b] := by
  decide +revert

theorem Dev.takeWrites_strobes {b : Nat} (h : b < 18) (d : Dev) : (d.takeWrites (BitVec.ofNat 18 (2 ^ b)).toNat).strobes =
    d.strobes ++ [(b, d.buf.filter (fun c => decide (blockOf c.1 = b)), d.mbxPend.filter (fun x => decide (selBlock x.sel = b)))] := by
  unfold Dev.takeWrites
  rw [onesOf_block h]
  rfl

/-- R484: the front strobe is the oldest of its block. -/
theorem Dev.endStrobe_front {d : Dev} {b : Nat} {cs : Cells} {ms : List MbxWrite} {r : List (Nat × Cells × List MbxWrite)}
    (h : d.strobes = (b, cs, ms) :: r) : d.endStrobe b = (({ d with strobes := r } : Dev).applyBlock b cs ms).syncPend := by
  simp only [Dev.endStrobe, h, List.findIdx?_cons, decide_true, if_true, List.getElem?_cons_zero, List.eraseIdx_cons_zero]

theorem Dev.writeBar_unaligned (nv : NonVol) (d : Dev) (via : Via) {off size : Nat} (v : Nat) (h : size ≠ 4 ∨ off % 4 ≠ 0) :
    d.writeBar nv via off size v = d.set R.GLB_STATUS.ACC_ERR 0 0 1 := if_pos h

/-- Settles O21: a write through any function comes down to `writeReg` or its refusal, each strobe to its own operation. -/
theorem registersAnswer : Obligations.RegistersAnswer := by
  refine ⟨fun s v hup => answers_registerWrite_swflag hup v, ?_, ?_, ?_, ?_, ?_, ?_, ?_⟩
  · intro s off i j v r hup h4 hr hlo hhi hhalt hden hw1c hrw hacts
    have hhalt' : s.dev.wakeIdle.pwr.halt = false ∨ blockOf off ∈ [14, 16, 17, 18] := by
      rw [Dev.wakeIdle_halt]
      exact hhalt.imp_right (fun h => List.mem_append_left [18] h)
    have h := answers_registerWrite_pf0 hup h4 v
    rwa [Dev.writeReg_buffers s.nv hr hlo (.inl hhi) h4 (fun h => by omega) hhalt' hden hw1c hrw (fun _ => hacts)] at h
  · intro s via off size v hup hvia hears hbad
    have h := answers_registerWrite hup hvia hears off size v
    rwa [Dev.writeBar_unaligned s.nv _ via v.toNat hbad] at h
  · intro s c via hc hvia hup hreach
    show execCtxUpdate c via s = _
    exact onDev_answers (by rw [decide_eq_true hc, hvia]; rfl) (if_pos (by rw [hup, hreach]; rfl))
  · intro s b hb hup
    refine ⟨s.dev.wakeIdle.takeWrites (BitVec.ofNat 18 (2 ^ b)).toNat, ?_, ?_⟩
    · show execGlbUpdate (BitVec.ofNat 18 (2 ^ b)) s = _
      exact onDev_answers rfl (if_pos hup)
    · rw [Dev.takeWrites_strobes hb, Dev.wakeIdle_strobes, Dev.wakeIdle_buf, Dev.wakeIdle_mbxPend]
  · intro s b cs ms r hb hpor hst
    show execBlockStrobeApply b s = _
    exact onDev_answers (decide_eq_true hb) ((if_pos hpor).trans (Dev.endStrobe_front hst))
  · intro s hup
    show execAnnRdDataRead .pf0 s = _
    exact onDev_answers rfl (if_pos (by rw [hup]; rfl))
  · intro s off hcfg hpor
    show execCfgParityScan off s = _
    exact onDev_answers hcfg (if_pos hpor)

/-! ### The read selectors of the mailbox (Table 18-3) -/

theorem selDir_read {sel : Nat} (h : sel = 0x100 ∨ (0x200 ≤ sel ∧ sel < 0x20C) ∨ (0x210 ≤ sel ∧ sel < 0x220) ∨
    (0x310 ≤ sel ∧ sel < 0x320) ∨ (0x400 ≤ sel ∧ sel < 0x420) ∨ (0x800 ≤ sel ∧ sel < 0x880)) : selDir sel = some false :=
  if_pos h

theorem selDir_register {n i j : Nat} {r : RegRow} (hr : regAt n = some (r, i, j)) (hmb : r.has .mb = true) :
    selDir (0x80000000 + n) = some false := by
  unfold selDir
  rw [if_neg (by omega), if_neg (by omega), if_pos]
  simp only [Nat.add_sub_cancel_left, hr, hmb]
  exact ⟨Nat.le_add_right _ _, trivial⟩

section
variable (nv : NonVol) (d : Dev) {n : Nat}

theorem Dev.selValue_deviceId : d.selValue nv 0x100 = (d.fuse 0 + 2 ^ 32 * d.fuse 1) % 2 ^ 64 +
    2 ^ 64 * ((cellOf d.regs R.GLB_ID.reg.base + 2 ^ 32 * (nv.boots % 2 ^ 32)) % 2 ^ 64) := by
  unfold Dev.selValue
  dsimp only
  rw [if_pos rfl]

theorem Dev.selValue_tb (h : n < 4) : d.selValue nv (0x200 + n) = d.tbVal n % 2 ^ 64 +
    2 ^ 64 * (d.liveCell (R.TB_STATUS.reg.off n 0) % 2 ^ 64) := by
  unfold Dev.selValue
  dsimp only
  rw [if_neg (by omega), if_pos (by omega), Nat.add_sub_cancel_left]

theorem Dev.selValue_syncIn (h : n < 4) : d.selValue nv (0x204 + n) = (d.tb n).stamp % 2 ^ 64 +
    2 ^ 64 * (d.tim.syncEdges % 2 ^ 64) := by
  unfold Dev.selValue
  dsimp only
  rw [if_neg (by omega), if_neg (by omega), if_pos (by omega), Nat.add_sub_cancel_left]

theorem Dev.selValue_tbOffset (h : n < 4) : d.selValue nv (0x208 + n) = ofSigned 64 (d.tb n).offPri % 2 ^ 64 +
    2 ^ 64 * (ofSigned 64 (d.tb n).offShd % 2 ^ 64) := by
  unfold Dev.selValue
  dsimp only
  rw [if_neg (by omega), if_neg (by omega), if_neg (by omega), if_pos (by omega), Nat.add_sub_cancel_left]

theorem Dev.selValue_trig (h : n < 16) : d.selValue nv (0x210 + n) = (d.trig n).lastRise % 2 ^ 64 +
    2 ^ 64 * (((d.trig n).emitted + 2 ^ 32 * (d.trig n).skipped) % 2 ^ 64) := by
  unfold Dev.selValue
  dsimp only
  rw [if_neg (by omega), if_neg (by omega), if_neg (by omega), if_neg (by omega), if_pos (by omega), Nat.add_sub_cancel_left]

theorem Dev.selValue_i3c (h : n < 16) {k : Bool} {bs : List Byte} (hres : (d.csi n).result = some (k, bs)) :
    d.selValue nv (0x310 + n) = (1 + 2 * b2n k) % 2 ^ 64 + 2 ^ 64 * (fieldAt bs 0 8 % 2 ^ 64) := by
  unfold Dev.selValue
  dsimp only
  rw [if_neg (by omega), if_neg (by omega), if_neg (by omega), if_neg (by omega), if_neg (by omega), if_pos (by omega),
    Nat.add_sub_cancel_left, hres]

theorem Dev.selValue_counter (h : n < 128) : d.selValue nv (0x800 + n) = (d.ctr n).val % 2 ^ 64 +
    2 ^ 64 * (cellOf d.regs (R.PMC_CTR_CFG.reg.off n 0) % 2 ^ 64) := by
  unfold Dev.selValue
  dsimp only
  rw [if_neg (by omega), if_neg (by omega), if_neg (by omega), if_neg (by omega), if_neg (by omega), if_neg (by omega),
    if_neg (by omega), if_pos (by omega), Nat.add_sub_cancel_left]

theorem Dev.selValue_register (n : Nat) : d.selValue nv (0x80000000 + n) = cellOf d.regs n := by
  unfold Dev.selValue
  dsimp only
  rw [if_neg (by omega), if_neg (by omega), if_neg (by omega), if_neg (by omega), if_neg (by omega), if_neg (by omega),
    if_neg (by omega), if_neg (by omega), Nat.add_sub_cancel_left]

end

/-- A read selector latches what it reads of the device whose MBX_SEL has just been written. -/
theorem mbxReadRow_latched {s : State} {m : Mbx} {ok : Bool} {sel : Nat} (v : Dev → Nat) (hm : Reaches s m) (hok : ok = true)
    (hsel : selDir sel = some false) (hv : ∀ d : Dev, d.ing = s.dev.ing → d.selValue s.nv sel = v d) :
    mbxReadRow m ok sel s = .next { s with dev := latched m sel v s.dev } := by
  obtain ⟨hbox, hpf, hup, hreach⟩ := hm
  have hval := hv (s.dev.wakeIdle.putReg (mbxBase (boxOf m)) sel) (by rw [Dev.putReg_ing, Dev.wakeIdle_ing])
  rw [mbxReadRow_of_reaches sel hok hbox hup hreach, hpf, Dev.mbxSel_read s.nv _ _ sel hsel, hval]
  rfl

/-- Settles O25: for each selector, its direction and its value. -/
theorem mailboxReadsLatch : Obligations.MailboxReadsLatch := by
  intro s m n hm
  refine ⟨?_, fun hn => ?_, fun hn => ?_, fun hn => ?_, fun hn => ?_, fun hn k bs hres => ?_, fun hn => ?_, fun hn => ?_,
    fun r i j hn hr hmb => ?_⟩
  · exact mbxReadRow_latched _ hm rfl (selDir_read (.inl rfl)) (fun d _ => d.selValue_deviceId s.nv)
  · exact mbxReadRow_latched _ hm (decide_eq_true hn) (selDir_read (by omega)) (fun d _ => d.selValue_tb s.nv hn)
  · exact mbxReadRow_latched _ hm (decide_eq_true hn) (selDir_read (by omega)) (fun d _ => d.selValue_syncIn s.nv hn)
  · exact mbxReadRow_latched _ hm (decide_eq_true hn) (selDir_read (by omega)) (fun d _ => d.selValue_tbOffset s.nv hn)
  · exact mbxReadRow_latched _ hm (decide_eq_true hn) (selDir_read (by omega)) (fun d _ => d.selValue_trig s.nv hn)
  · refine mbxReadRow_latched _ hm (decide_eq_true hn) (selDir_read (by omega)) (fun d hd => d.selValue_i3c s.nv hn ?_)
    rw [Dev.csi, hd]
    exact hres
  · exact mbxReadRow_latched _ hm (decide_eq_true hn) (selDir_flags hn) (fun d _ => d.selValue_flags s.nv hn)
  · exact mbxReadRow_latched _ hm (decide_eq_true hn) (selDir_read (by omega)) (fun d _ => d.selValue_counter s.nv hn)
  · exact mbxReadRow_latched _ hm (decide_eq_true hn) (selDir_register hr hmb) (fun d _ => d.selValue_register s.nv n)

/-! ### The write selectors of the mailbox -/

theorem selDir_write {sel : Nat} (h : (0x280 ≤ sel ∧ sel < 0x28C) ∨ (0x290 ≤ sel ∧ sel < 0x2A8) ∨ (0x300 ≤ sel ∧ sel < 0x310) ∨
    (0xC00 ≤ sel ∧ sel < 0xC80)) : selDir sel = some true :=
  (if_neg (by omega)).trans (if_pos h)

theorem mbxWriteRow_of_reaches {s : State} {m : Mbx} {ok : Bool} (hm : Reaches s m) (hok : ok = true) (sel lo hi : Nat) :
    mbxWriteRow m ok sel lo hi s = .next { s with dev := s.dev.wakeIdle.mbxWrite s.nv (boxOf m) true sel lo hi } := by
  obtain ⟨hbox, hpf, hup, hreach⟩ := hm
  rw [mbxWriteRow, mbxRow, onDev_ok (by rw [hok, hbox]; rfl), hup, hreach, hpf]
  rfl

/-- R490: a row whose meaning is a mailbox write of a selector other than I3C posts it. -/
theorem posts_of_mbxWriteRow {c : Instr} {s : State} {m : Mbx} {ok : Bool} {sel lo hi : Nat}
    (hc : exec c s = mbxWriteRow m ok sel lo hi s) (hm : Reaches s m) (hok : ok = true) (hsel : selDir sel = some true)
    (hs : sel < 2 ^ 32) (h3 : ¬(0x300 ≤ sel ∧ sel < 0x310)) (hlo : lo < 2 ^ 64) (hhi : hi < 2 ^ 64) : Posts c s m sel lo hi := by
  have h := mbxWriteRow_of_reaches hm hok sel lo hi
  rw [Dev.mbxWrite_waits s.nv _ _ sel lo hi hsel hs h3 hlo hhi] at h
  refine ⟨_, hc.trans h, ?_, ?_, ?_, ?_, ?_, ?_⟩ <;>
    simp [Dev.syncPend, Dev.mbxFilled]

/-! ### I3C transfers (R189) -/

/-- A register apart from a mailbox reads after a write through the mailbox as before. -/
theorem Dev.cellOf_mbxFilled_ne (d : Dev) (box : Option Nat) (sel lo hi : Nat) {off : Nat}
    (h : off < mbxBase box ∨ mbxBase box + 20 < off) : cellOf (d.mbxFilled box sel lo hi).regs off = cellOf d.regs off := by
  unfold Dev.mbxFilled
  rw [cellOf_putReg_ne _ _ (by omega), cellOf_putReg_ne _ _ (by omega), cellOf_putReg_ne _ _ (by omega),
    cellOf_putReg_ne _ _ (by omega), cellOf_putReg_ne _ _ (by omega), cellOf_putReg_ne _ _ (by omega)]

theorem mbxBase_apart_csi (box : Option Nat) {p : Nat} (h : p < 16) :
    R.CSI_CFG.I3C_MODE.off p 0 < mbxBase box ∨ mbxBase box + 20 < R.CSI_CFG.I3C_MODE.off p 0 := by
  cases box <;> simp only [mbxBase, R.CSI_CFG.I3C_MODE, Fld.off] <;> omega

/-- A write of the selector of an I3C port hands the words to the port. -/
theorem Dev.mbxWrite_i3c (nv : NonVol) (d : Dev) (box : Option Nat) {p lo hi : Nat} (hp : p < 16) :
    d.mbxWrite nv box true (0x300 + p) lo hi = (d.mbxFilled box (0x300 + p) lo hi).takeI3c box p (lo % 2 ^ 32) (hi % 2 ^ 32)
      (hi / 2 ^ 32 % 2 ^ 32) := by
  have hsel : selDir (0x300 + p) = some true := selDir_write (by omega)
  obtain ⟨csel, cst, c0, -, c2, c3⟩ := d.mbxFilled_cells box (0x300 + p) lo hi (by omega)
  have hopen : (d.mbxFilled box (0x300 + p) lo hi).mbxClosed box = false := by rw [Dev.mbxClosed, cst]; rfl
  have hrange : 0x300 ≤ 0x300 + p ∧ 0x300 + p < 0x310 := by omega
  rw [Dev.mbxWrite_filled nv d box _ lo hi hsel]
  simp only [Dev.mbxValid, hopen, Bool.false_eq_true, if_false, csel, hsel, if_pos hrange, Nat.add_sub_cancel_left, Nat.mul_zero,
    Nat.add_zero, c0, Nat.reduceMul, Nat.add_assoc, Nat.reduceAdd, c2, c3]

theorem getElem?_modifyAt_self {α : Type} {l : List α} {i : Nat} (h : i < l.length) (f : α → α) :
    (modifyAt l i f)[i]? = some (f l[i]) := by
  induction l generalizing i with
  | nil => exact absurd h (Nat.not_lt_zero i)
  | cons x r ih =>
    cases i with
    | zero => rfl
    | succ n => exact ih (Nat.lt_of_succ_lt_succ h)

theorem Dev.csi_setCsi {d : Dev} {p : Nat} (h : p < d.ing.csi.length) (f : CsiPort → CsiPort) :
    (d.setCsi p f).csi p = f (d.csi p) := by
  simp only [Dev.csi, Dev.setCsi, getElem?_modifyAt_self h, List.getElem?_eq_getElem h, Option.getD_some]

/-- Starting a transfer touches no port. -/
theorem Dev.startI3c_ing (d : Dev) (p : Nat) : (d.startI3c p).ing = d.ing := by
  unfold Dev.startI3c
  split
  · split <;> rfl
  · rfl

/-- R189: a transfer of 1 to 8 bytes on a port with I3C joins the port's queue. -/
theorem Dev.takeI3c_queues {d : Dev} {box : Option Nat} {p d0 d2 d3 : Nat} (hp : p < d.ing.csi.length) (h1 : 1 ≤ bitsOf d0 11 8)
    (h8 : bitsOf d0 11 8 ≤ 8) (hmode : d.get R.CSI_CFG.I3C_MODE p 0 ≠ 3) :
    ((d.takeI3c box p d0 d2 d3).csi p).xfers = (d.csi p).xfers ++ [[d0, d2, d3]] := by
  have hset := Dev.csi_setCsi (d := d.putReg (mbxBase box + 20) 1) (by rw [Dev.putReg_ing]; exact hp)
    (fun c => { c with xfers := c.xfers ++ [[d0, d2, d3]], result := none })
  have hok : ¬(bitsOf d0 11 8 = 0 ∨ 8 < bitsOf d0 11 8 ∨ d.get R.CSI_CFG.I3C_MODE p 0 = 3) := by omega
  simp only [Dev.takeI3c, if_neg hok]
  split
  · rw [Dev.csi, Dev.startI3c_ing, ← Dev.csi, hset]
    rfl
  · rw [hset]
    rfl

theorem Dev.endI3c_front {d : Dev} {p : Nat} {x : List Nat} {r : List (List Nat)} (hx : (d.csi p).xfers = x :: r)
    (hdisc : (d.csi p).discovering = false) (nack : Bool) (bs : List Byte) :
    d.endI3c p nack bs = (d.setCsi p (fun c => { c with
      xfers := r
      result := some (nack, if bitOf (x.getD 0 0) 7 && !nack then slice bs 0 (bitsOf (x.getD 0 0) 11 8) else []) })).startI3c p := by
  simp only [Dev.endI3c, hx, hdisc, Bool.false_eq_true, if_false]

/-- Settles O26: one lemma over the write selectors takes each to its post; I3C is the one that joins a queue of its port. -/
theorem mailboxWritesWait : Obligations.MailboxWritesWait := by
  refine ⟨fun s m n v w hm => ⟨fun hn => ⟨?_, ?_, ?_⟩, fun hn => ?_, fun hn p => ?_, fun hn => ?_⟩, ?_, ?_⟩
  · exact posts_of_mbxWriteRow rfl hm (decide_eq_true hn) (selDir_write (by omega)) (by omega) (by omega) v.isLt (by decide)
  · exact posts_of_mbxWriteRow rfl hm (decide_eq_true hn) (selDir_write (by omega)) (by omega) (by omega) v.isLt (by decide)
  · exact posts_of_mbxWriteRow rfl hm (decide_eq_true hn) (selDir_write (by omega)) (by omega) (by omega) v.isLt (by decide)
  · exact posts_of_mbxWriteRow rfl hm (decide_eq_true hn) (selDir_write (by omega)) (by omega) (by omega) v.isLt w.isLt
  · exact posts_of_mbxWriteRow rfl hm (decide_eq_true hn) (selDir_write (by omega)) (by omega) (by omega) v.isLt
      (p.isLt.trans (by decide))
  · exact posts_of_mbxWriteRow rfl hm (decide_eq_true hn) (selDir_write (by omega)) (by omega) (by omega) v.isLt (by decide)
  · intro s m p d0 d2 d3 hm hp hlen h1 h8 hmode
    have h := mbxWriteRow_of_reaches hm (decide_eq_true hp) (0x300 + p) d0.toNat (d2.toNat + 2 ^ 32 * d3.toNat)
    have e0 : d0.toNat % 2 ^ 32 = d0.toNat := Nat.mod_eq_of_lt d0.isLt
    have e2 : (d2.toNat + 2 ^ 32 * d3.toNat) % 2 ^ 32 = d2.toNat := by have := d2.isLt; omega
    have e3 : (d2.toNat + 2 ^ 32 * d3.toNat) / 2 ^ 32 % 2 ^ 32 = d3.toNat := by have := d2.isLt; have := d3.isLt; omega
    rw [Dev.mbxWrite_i3c _ _ _ hp, e0, e2, e3] at h
    have hing : (s.dev.wakeIdle.mbxFilled (boxOf m) (0x300 + p) d0.toNat (d2.toNat + 2 ^ 32 * d3.toNat)).ing = s.dev.ing := by
      simp [Dev.mbxFilled]
    have hget : (s.dev.wakeIdle.mbxFilled (boxOf m) (0x300 + p) d0.toNat (d2.toNat + 2 ^ 32 * d3.toNat)).get R.CSI_CFG.I3C_MODE p 0 =
        s.dev.get R.CSI_CFG.I3C_MODE p 0 := by
      rw [Dev.get, Dev.cellOf_mbxFilled_ne _ _ _ _ _ (mbxBase_apart_csi _ hp), Dev.cellOf_wakeIdle, ← Dev.get]
      simp only [R.CSI_CFG.I3C_MODE, R.PWR_STAT.STATE, Fld.off]
      omega
    refine ⟨_, h, ?_⟩
    rw [Dev.takeI3c_queues (by rw [hing]; exact hlen) h1 h8 (by rw [hget]; exact hmode), Dev.csi, hing, ← Dev.csi]
  · intro s p x r nack bs hp hx hdisc
    show execI3cTransferDone p nack bs s = _
    exact onDev_answers (decide_eq_true hp) (Dev.endI3c_front hx hdisc nack bs)

end Sys2Proof.Machine
end

section
/-! PROOFS. Movers and accesses past their budget (R126, R138, R141 to R143); triggers and SYNC_IN (R171, R173, R174);
PTP (R160 to R167). -/

namespace Sys2Proof.Machine

/-! ### Movers and accesses -/

/-- R49, R126: an unfenced mover steps the copy whose turn it is. -/
theorem Dev.stepMover_turn {d : Dev} {t : Nat} {c : Copy} {r : Run}
    (hturn : minBy (fun (x y : Copy × Run) => edf x.2 y.2) (d.moverReady t) = some (c, r)) (hfence : d.isFenced 7 t = false) :
    d.stepMover t = d.stepCopy t c r := by
  simp only [Dev.stepMover, hturn, Dev.unlessFenced, hfence, Bool.false_eq_true, if_false]

theorem Dev.stepCopy_same {c : Copy} (h : mvSame c.desc = true) (d : Dev) (t : Nat) (r : Run) :
    d.stepCopy t c r = ((d.markStarted r.id).setCopy t c.id (fun x => { x with started := true })).endCopy t c := if_pos h

/-- A step of a copy whose source and destination are this device's. -/
theorem Dev.stepCopy_pieces {d e : Dev} {t done : Nat} {c : Copy} {r : Run} (hsame : mvSame c.desc = false)
    (hdst : isPeer (mvDst c.desc) = false)
    (hsrc : mvZero c.desc = true ∨ isPeer (mvSrc c.desc) = false ∧ isT3 (mvSrc c.desc) = false)
    (hmove : ((d.markStarted r.id).setCopy t c.id (fun x => { x with started := true })).movePieces (c.who r t) c.desc c.done
      (min 65536 (mvTotal c.desc - c.done)) 65536 = (e, done, none)) :
    d.stepCopy t c r = e.advanceCopy t c (done - c.done) := by
  have hpeer : (!mvZero c.desc && isPeer (mvSrc c.desc)) = false := by
    rcases hsrc with h | ⟨h, -⟩ <;> simp [h]
  have ht3 : (!mvZero c.desc && isT3 (mvSrc c.desc)) = false := by
    rcases hsrc with h | ⟨-, h⟩ <;> simp [h]
  simp only [Dev.stepCopy, hsame, hdst, hpeer, ht3, hmove, Bool.or_self, Bool.false_eq_true, if_false]

theorem Dev.t2Late_fails {d e : Dev} {run addr : Nat} {r : Run} {err : AccErr} (hr : d.run run = some r)
    (hst : r.started.isSome = true) (ht : tierOf addr = 2) (herr : d.tierErr false 2 addr = (e, some err)) :
    d.t2Late run addr = e.failAcc r err := by
  simp only [Dev.t2Late, hr, hst, ht, herr, decide_true, Bool.and_self, if_true]

theorem answers_t3ReadCompletion (s : State) (tag : Nat) (r : PcieReply) :
    Answers (.t3ReadCompletion tag r) s (s.dev.t3Complete tag r) :=
  show execT3ReadCompletion tag r s = _ from onDev_answers rfl rfl

section
variable {d : Dev} {tag : Nat} {t : T3Read} (ht : d.t3Of tag = some t)
include ht

theorem Dev.t3Complete_data (bs : List Byte) : d.t3Complete tag (.data bs) = d.t3Land t bs := by
  simp only [Dev.t3Complete, ht]

theorem Dev.t3Complete_poisoned : d.t3Complete tag .poisoned = d.t3Fail t (.poison 3 (t.da / 64 * 64)) := by
  simp only [Dev.t3Complete, ht]

theorem Dev.t3Complete_error {r : PcieReply} (hr : r = .unsupported ∨ r = .aborted ∨ r = .timeout) :
    d.t3Complete tag r = d.t3Fail t (.tier true 3 t.da) := by
  rcases hr with rfl | rfl | rfl <;> simp only [Dev.t3Complete, ht]

end

/-- Settles O31: a mover's turn picks the copy and its next piece; a late access ends the run that its tag names. -/
theorem copiesAndAccessesEnd : Obligations.CopiesAndAccessesEnd := by
  refine ⟨?_, ?_, ?_, fun s tag t ht => ⟨fun hdue => ?_, fun bs => ?_, ?_, fun r hr => ?_, fun c hc => ?_⟩⟩
  · intro s t c r e done ht hturn hfence hsame hdst hsrc hmove
    show execMoverStep t s = _
    exact onDev_answers (decide_eq_true ht)
      ((Dev.stepMover_turn hturn hfence).trans (Dev.stepCopy_pieces hsame hdst hsrc hmove))
  · intro s t c r ht hturn hfence hsame
    show execMoverStep t s = _
    exact onDev_answers (decide_eq_true ht) ((Dev.stepMover_turn hturn hfence).trans (Dev.stepCopy_same hsame _ t r))
  · intro s run addr r e err hr hst htier herr
    show execT2BudgetExpiry run addr s = _
    exact onDev_answers rfl (Dev.t2Late_fails hr hst htier herr)
  · show execT3BudgetExpiry tag s = _
    refine onDev_answers rfl ?_
    simp only [Dev.t3Expire, ht, if_pos hdue]
  · rw [← Dev.t3Complete_data ht]
    exact answers_t3ReadCompletion s tag _
  · rw [← Dev.t3Complete_poisoned ht]
    exact answers_t3ReadCompletion s tag _
  · rw [← Dev.t3Complete_error ht hr]
    exact answers_t3ReadCompletion s tag r
  · show execPcieCompletionTimeout (some tag) c s = _
    refine onDev_answers (decide_eq_true hc) ?_
    simp only [ht]

/-! ### Triggers and SYNC_IN -/

/-- No pulse follows the one at `edge` (R171). -/
def Trig.lastAt (x : Trig) (edge : Nat) : Bool :=
  decide (x.period = 0) || (decide (x.stop ≠ 0) && decide (x.stop ≤ edge + x.period))

/-- A due pulse: skipped within 1 µs of its strobe (R173), else emitted. -/
theorem Dev.pulse_due {d : Dev} {t : Nat} {x : Trig} (hx : x = d.trig t) (harm : x.armed = true) {edge : Nat}
    (hedge : edge = x.start + x.next * x.period) (hdue : edge ≤ d.tbVal x.base) :
    d.pulse t = (if edge < x.strobeAt + 1000 then
        (d.set R.TRIG_STAT.SKIPPED t 0 1).setTrig t (fun y => { y with skipped := (y.skipped + 1) % 2 ^ 32 })
      else ((d.emit (.trig t (!x.pol))).emit (.trig t x.pol)).setTrig t (fun y => { y with
        emitted := (y.emitted + 1) % 2 ^ 32, lastEdge := edge })).setTrig t
      (fun y => { y with next := y.next + 1, armed := !x.lastAt edge }) := by
  subst hx hedge
  have hnot : ¬ d.tbVal (d.trig t).base < (d.trig t).start + (d.trig t).next * (d.trig t).period := Nat.not_lt.mpr hdue
  simp only [Dev.pulse, Trig.lastAt, harm, hnot, Bool.not_true, decide_false, Bool.or_self, Bool.false_eq_true, if_false,
    decide_eq_true_eq]

/-- Settles O32: a due pulse splits on its lateness, and an edge of SYNC_IN is the one that the configuration watches. -/
theorem triggersAndSync : Obligations.TriggersAndSync := by
  refine ⟨?_, fun s rising hen hedge => ?_, fun s hup => ?_⟩
  · rintro s t x ht hx harm hdue _ rfl
    have hp := Dev.pulse_due hx harm rfl hdue
    refine ⟨fun hlate => ?_, fun hsoon => ?_⟩
    · show execTrigPulse t s = _
      rw [if_neg (Nat.not_lt.mpr hlate)] at hp
      exact onDev_answers (decide_eq_true ht) hp
    · show execTrigPulse t s = _
      rw [if_pos hsoon] at hp
      exact onDev_answers (decide_eq_true ht) hp
  · have hon : (s.dev.bit R.SYNC_CFG.EN 0 0 && (rising != s.dev.bit R.SYNC_CFG.EDGE 0 0)) = true := by
      rw [hen, Bool.true_and, bne_iff_ne]
      exact hedge
    refine ⟨fun hkeep => ?_, fun hreset => ?_⟩
    · show execSyncInEdge rising s = _
      exact onDev_answers rfl ((if_pos hon).trans (if_neg (by rw [hkeep]; exact Bool.false_ne_true)))
    · show execSyncInEdge rising s = _
      exact onDev_answers rfl ((if_pos hon).trans (if_pos hreset))
  · show execSgcSync s = _
    exact onDev_answers rfl (if_pos hup)

/-! ### PTP -/

/-- Settles O33: each message's row under the test that lets it through. -/
theorem ptpReceives : Obligations.PtpReceives := by
  refine ⟨fun s n m hn hrx hacc => ⟨fun h1 => ?_, fun h2 => ?_, fun recv c hp => ?_, fun hgm => ?_, fun t3 a b hex hid => ?_⟩,
    fun s n m hn hrx => ⟨fun t1 a b hex hid h1 => ?_, fun t1 a b hex hid h2 => ?_, fun t1 t4 t2 hex h4 hid => ?_⟩,
    fun s n m hn htx => ⟨?_, fun hone => ⟨_, rfl, ?_⟩⟩, fun s e he => ?_⟩
  · show execRxSync n m s = _
    refine onDev_answers (decide_eq_true hn) ?_
    simp only [hrx, hacc, h1, Bool.and_self, if_true, Bool.false_eq_true, if_false]
  · show execRxSync n m s = _
    refine onDev_answers (decide_eq_true hn) ?_
    simp only [hrx, hacc, h2, Bool.and_self, if_true]
  · show execRxFollowUp n m s = _
    refine onDev_answers (decide_eq_true hn) ?_
    simp only [hrx, hacc, hp, Bool.and_self, if_true]
  · show execRxAnnounce n m s = _
    have hkeep : ¬((s.dev.slot n).filtId ≠ 0 ∧ m.gmId.toNat ≠ (s.dev.slot n).filtId) := by tauto
    refine onDev_answers (decide_eq_true hn) ?_
    simp only [hrx, hacc, Bool.and_self, if_true, if_neg hkeep]
  · show execRxDelayResp n m s = _
    refine onDev_answers (decide_eq_true hn) ?_
    simp only [hex, hrx, hacc, hid, and_self, decide_true, Bool.and_self, if_true]
  · show execRxPdelayResp n m s = _
    refine onDev_answers (decide_eq_true hn) ?_
    simp only [hex, hrx, hid, h1, and_self, decide_true, Bool.and_self, if_true, Bool.false_eq_true, if_false]
  · show execRxPdelayResp n m s = _
    refine onDev_answers (decide_eq_true hn) ?_
    simp only [hex, hrx, hid, h2, and_self, decide_true, Bool.and_self, if_true]
  · show execRxPdelayRespFollowUp n m s = _
    refine onDev_answers (decide_eq_true hn) ?_
    simp only [hex, hrx, h4, hid, ne_eq, not_false_eq_true, and_self, decide_true, Bool.and_self, if_true]
  · show execRxDelayReq n m s = _
    exact onDev_answers (decide_eq_true hn) (if_pos htx)
  · show execRxPdelayReq n m s = _
    exact onDev_answers (decide_eq_true hn) ((if_pos htx).trans (if_pos hone))
  · show execRxPtpDropped e s = _
    exact onDev_answers (decide_eq_true he) rfl

/-- An interval that began at `t` has passed. -/
theorem Dev.passed_some {d : Dev} {t n : Nat} (h : t + n ≤ d.now) : d.passed (some t) n = true := decide_eq_true h

/-- Settles O34: each timer sends behind the test of its slot's role, and a time limit is past or not. -/
theorem ptpTimersAct : Obligations.PtpTimersAct := by
  refine ⟨fun s n hn htx hpass => ⟨_, rfl, fun hone => ?_, fun htwo => ⟨_, rfl, ?_⟩⟩, fun s n hn htx hpass => ?_,
    fun s n hn hrx hpass => ⟨_, rfl, ?_⟩, fun s n t hn hrx hok => ⟨fun hlast hlate => ?_, fun hlast hlate => ?_⟩⟩
  · show execPtpSyncTxTimer n s = _
    exact onDev_answers (decide_eq_true hn) ((if_pos (by rw [htx, hpass]; rfl)).trans (if_pos hone))
  · show execPtpSyncTxTimer n s = _
    exact onDev_answers (decide_eq_true hn) ((if_pos (by rw [htx, hpass]; rfl)).trans
      (if_neg (by rw [htwo]; exact Bool.false_ne_true)))
  · show execPtpAnnounceTxTimer n s = _
    exact onDev_answers (decide_eq_true hn) (if_pos (by rw [htx, hpass]; rfl))
  · show execPtpDelayReqTxTimer n s = _
    exact onDev_answers (decide_eq_true hn) (if_pos (by rw [hrx, hpass]; rfl))
  · show execSyncTimeout n s = _
    exact onDev_answers (decide_eq_true hn) (if_pos (by rw [hrx, hok, hlast, Dev.passed_some hlate]; rfl))
  · show execAnnounceTimeout n s = _
    exact onDev_answers (decide_eq_true hn) (if_pos (by rw [hrx, hok, hlast, Dev.passed_some hlate]; rfl))

end Sys2Proof.Machine
end

section
/-! PROOFS. Ingest: camera ports (R181 to R187), streams and their loss (R180, R190 to R193, R204), sampled inputs and the
signal chain (R195 to R199, R206, R212, R220). -/

namespace Sys2Proof.Machine

/-- An edge that is the one a register selects. -/
theorem bne_eq_true_of_ne {a b : Bool} (h : a ≠ b) : (a != b) = true := bne_iff_ne.mpr h

/-! ### Camera ports -/

section
variable {s : State} {p : Nat} (hp : p < 16) (hen : s.dev.bit R.CSI_CFG.EN p 0 = true)
include hp hen

theorem answers_csiLp11Detect (hlink : s.dev.bit R.CSI_STAT.LINK p 0 = false) : Answers (.csiLp11Detect p) s
    ((((s.dev.wakeIdle.set R.CSI_STAT.LINK p 0 1).set R.CSI_STAT.IDENT p 0 0).set R.CSI_STAT.I2C_ONLY p 0 0).setCsi p
      (fun c => { c with discovering := true, vcs := 0, ident := 0, bcr := 0, dcr := 0 })) :=
  show execCsiLp11Detect p s = _ from onDev_answers (decide_eq_true hp) (if_pos (by rw [hen, hlink]; rfl))

theorem answers_csiStrobeEdge {rising : Bool} (hstb : s.dev.bit R.CSI_CFG.STB_EN p 0 = true)
    (hedge : rising ≠ s.dev.bit R.CSI_CFG.STB_EDGE p 0) :
    Answers (.csiStrobeEdge p rising) s (s.dev.setCsi p (fun c => { c with strobe := some ((List.range 4).map s.dev.tbVal) })) :=
  show execCsiStrobeEdge p rising s = _ from
    onDev_answers (decide_eq_true hp) (if_pos (by rw [hen, hstb, bne_eq_true_of_ne hedge]; rfl))

variable (hlink : s.dev.bit R.CSI_STAT.LINK p 0 = true)
include hlink

theorem answers_csiFrameEnd {vc : Nat} (hvc : vc < 16) : Answers (.csiFrameEnd p vc) s (s.dev.endFrame (16 * p + vc)) :=
  show execCsiFrameEnd p vc s = _ from onDev_answers (decide_eq_true ⟨hp, hvc⟩) (if_pos (by rw [hen, hlink]; rfl))

/-- A frame of virtual channel 0, which needs no new attachment. -/
theorem answers_csiFrameStart {b : Bind} (hb : s.dev.bind (16 * p + 0) = some b) (hid : s.dev.idWrong p b = false) :
    Answers (.csiFrameStart p 0) s (s.dev.startFrame b.stream (s.dev.csiStamp p b) 0 0) := by
  have hvc : ¬(1 ≤ 0 ∧ bitOf (s.dev.csi p).vcs 0 = false) := by omega
  show execCsiFrameStart p 0 s = _
  refine onDev_answers (decide_eq_true ⟨hp, by decide⟩) ?_
  simp only [hen, hlink, Bool.and_self, if_true, if_neg hvc, hb, hid, Bool.false_eq_true, if_false]

/-- A packet of the bound data type with a sound header is a line of the stream, once its CRC error is counted. -/
theorem answers_csiPacket {k : CsiPacket} {b : Bind} (hvc : k.vc < 16) (hhead : k.headerBad = false) (hdt : k.dt = dtOf b.ld)
    (hb : s.dev.bind (16 * p + k.vc) = some b) {d : Dev}
    (hd : d = if k.crcBad then s.dev.addSat R.CSI_STAT.CRC_ERR p 0 1 else s.dev) (hdb : d.bind (16 * p + k.vc) = some b) :
    Answers (.csiPacket p k) s (d.csiLine (16 * p + k.vc) k) := by
  show execCsiPacket p k s = _
  refine onDev_answers (decide_eq_true ⟨hp, hvc⟩) ?_
  simp only [hen, hlink, Bool.and_self, if_true, hhead, Bool.false_eq_true, if_false, hb, ← hd, hdt, hdb, Option.isSome_some,
    and_self]

end

/-- Settles O35: each port event is its operation, once the port is enabled and its link is up. -/
theorem cameraPortsAct : Obligations.CameraPortsAct := by
  refine ⟨fun s p hp hen => ⟨answers_csiLp11Detect hp hen, fun rising => answers_csiStrobeEdge hp hen,
    fun vc hvc hlink => ⟨answers_csiFrameEnd hp hen hlink hvc, ?_, ?_, ?_⟩⟩, fun s p i b c hp hdisc hmode => ⟨_, rfl, _, rfl, ?_⟩,
    fun s p hp => ⟨_, rfl, ?_⟩⟩
  · rintro b hb rfl hid
    exact answers_csiFrameStart hp hen hlink hb hid
  · rintro k b rfl hhead hcrc hb hdt
    exact answers_csiPacket hp hen hlink hvc hhead hdt hb (by rw [hcrc]; rfl) hb
  · rintro k b rfl hhead hcrc hb hdt hb'
    exact answers_csiPacket hp hen hlink hvc hhead hdt hb (by rw [hcrc]; rfl) hb'
  · show execCsiDiscoveryDone p (some (i, b, c)) s = _
    refine onDev_answers (decide_eq_true hp) ?_
    simp only [hdisc, hmode, if_true]
    rfl
  · show execCsiLinkLossTimeout p s = _
    exact onDev_answers (decide_eq_true hp) rfl

/-! ### Streams -/

/-- Settles O36: each event finds its entry, and what is left is the one branch that its hypotheses select. -/
theorem streamsAct : Obligations.StreamsAct := by
  refine ⟨fun s x b hb hlost hmir hsrc => ?_, fun s x b o hsrc hb ho hfmt hold => ?_, fun s k hk => ⟨_, rfl, fun n hn => ?_⟩,
    fun s e he => ⟨_, rfl, ?_⟩, fun s e he => ?_⟩
  · have hlose : execStreamLossTimeout x s = .next { s with dev := s.dev.loseStream x 2 } := by
      obtain ⟨p, v, h⟩ | ⟨n, h⟩ | ⟨i, h⟩ := hsrc
      all_goals
        refine onDev_answers (by simp [h]) ?_
        simp only [hb, if_pos hlost, hmir, h, Bool.false_eq_true, if_false]
    exact hlose
  · have hclose : (!isImage (ldFormat b.ld) && decide (o.since + (s.dev.pcal b.part).orbit < s.dev.tbVal b.tb)) = true := by
      rw [hfmt, decide_eq_true hold]
      rfl
    show execSlotCloseTimeout x s = _
    refine onDev_answers (decide_eq_true hsrc) ?_
    simp only [hb, ho, if_pos hclose]
  · show execEthStreamPacket k s = _
    refine onDev_answers (decide_eq_true hk) ?_
    simp only [hn]
  · show execEthLinkDown e s = _
    exact onDev_answers (decide_eq_true he) rfl
  · show execEthFrameDropped e s = _
    exact onDev_answers (decide_eq_true he) rfl

/-! ### Sampled inputs -/

/-- Settles O37: each input's event is accepted by its configuration, and then acts on the entry it is bound to. -/
theorem sampledInputsAct : Obligations.SampledInputsAct := by
  refine ⟨?_, ?_, ?_, ?_, ?_, ?_, ?_⟩
  · refine fun s i rising b hi hb hen hpoll hedge => ⟨_, rfl, fun hidle => ?_⟩
    have hon : (s.dev.bit R.SPI_CFG.EN i 0 && !s.dev.bit R.SPI_CFG.POLLED i 0 && (rising != s.dev.bit R.SPI_CFG.DRDY_EDGE i 0)) = true := by
      rw [hen, hpoll, bne_eq_true_of_ne hedge]
      rfl
    show execSpiDrdyEdge i rising s = _
    refine onDev_answers (decide_eq_true hi) ?_
    simp only [hb, if_pos hon, hidle]
  · refine fun s i b hi hb hen hpoll hdue => ⟨_, rfl, fun hidle => ?_⟩
    show execSpiPollTimer i s = _
    refine onDev_answers (decide_eq_true hi) ?_
    simp only [hb, hen, hpoll, decide_eq_true hdue, Bool.and_self, if_true, hidle]
  · refine fun s i t bs b hi hrun hb hfmt => ⟨_, rfl, fun hwait => ?_⟩
    show execSpiTransactionDone i bs s = _
    refine onDev_answers (decide_eq_true hi) ?_
    simp only [hrun, hb, if_pos hfmt, hwait, Option.isSome_none, Bool.false_eq_true, if_false]
  · rintro s i a b x hi hen hmoved hquiet hx _ rfl _ rfl
    have hstill : (a == (s.dev.enc i).a && b == (s.dev.enc i).b) = false := by
      rcases hmoved with h | h <;> simp [h]
    show execEncoderEdge i a b s = _
    refine onDev_answers (decide_eq_true hi) ?_
    cases hlast : (s.dev.enc i).lastEdgeNow with
    | none => simp only [hlast, hen, hstill, hx, Bool.not_true, Bool.or_self, Bool.false_eq_true, if_false]
    | some t =>
      have hlate : ¬ s.dev.now < t + 40 + 10 * s.dev.get R.ENC_CFG.FILTER i 0 := Nat.not_lt.mpr (hquiet t hlast)
      simp only [hlast, hen, hstill, hx, hlate, decide_false, Bool.not_true, Bool.or_self, Bool.false_eq_true, if_false]
  · refine fun s i hi hen => ⟨fun hidx => ?_, ?_, fun b hb hdue hok => ?_⟩
    · show execEncoderIndex i s = _
      exact onDev_answers (decide_eq_true hi) (if_pos (by rw [hen, hidx]; rfl))
    · show execEncoderFault i s = _
      exact onDev_answers (decide_eq_true hi) (if_pos hen)
    · show execEncoderLatchTimer i s = _
      refine onDev_answers (decide_eq_true hi) ?_
      simp only [hb, hen, decide_eq_true hdue, Bool.and_self, if_true, hok, Bool.false_eq_true, if_false]
  · refine fun s c hc => ⟨fun hen => ⟨?_, ?_⟩, fun hbroken => ⟨_, rfl, fun hoff => ?_, fun hon => ?_⟩⟩
    · show execSdiClockLoss c s = _
      exact onDev_answers (decide_eq_true hc) (if_pos hen)
    · show execSdiDataStuck c s = _
      exact onDev_answers (decide_eq_true hc) (if_pos hen)
    · show execSdiRecovery c s = _
      exact onDev_answers (decide_eq_true hc) ((if_pos hbroken).trans (if_neg (by rw [hoff]; exact Bool.false_ne_true)))
    · show execSdiRecovery c s = _
      exact onDev_answers (decide_eq_true hc) ((if_pos hbroken).trans (if_pos hon))
  · intro s l bits b hl _ _ _ _
    show execSgcGridOutput l bits s = _
    exact onDev_answers (decide_eq_true hl) rfl

end Sys2Proof.Machine
end

section
/-! PROOFS. The engines' bands (R231, R234), the solver lattice and place search (R315, R332, R336 to R339, R345), the
Orrery's steps (R252 to R269). -/

namespace Sys2Proof.Machine

/-! ### Engines -/

/-- Every engine's command steps the unit that it names. -/
theorem answers_unitRows (u : Nat) (ue : Bool) (s : State) :
    ∀ x ∈ unitRows u ue, u < x.2.2.1 → Answers x.2.2.2 s (s.dev.unitStep x.2.1 x.1 u ue) := by
  simp only [unitRows, List.forall_mem_cons]
  exact ⟨fun h => show execRwuBand u ue s = _ from onDev_answers (decide_eq_true h) rfl,
    fun h => show execPyrBand u ue s = _ from onDev_answers (decide_eq_true h) rfl,
    fun h => show execFduBand u ue s = _ from onDev_answers (decide_eq_true h) rfl,
    fun h => show execSduBand u ue s = _ from onDev_answers (decide_eq_true h) rfl,
    fun h => show execOfuBand u ue s = _ from onDev_answers (decide_eq_true h) rfl,
    fun h => show execRenderLm u ue s = _ from onDev_answers (decide_eq_true h) rfl,
    fun h => show execRenderVox u ue s = _ from onDev_answers (decide_eq_true h) rfl,
    fun h => show execLiftVox u ue s = _ from onDev_answers (decide_eq_true h) rfl,
    fun h => show execLiftFeat u ue s = _ from onDev_answers (decide_eq_true h) rfl,
    fun _ h => absurd h List.not_mem_nil⟩

/-- An unfenced unit takes one step of the task whose turn it is. -/
theorem Dev.unitStep_turn {s : State} {kind u k : Nat} {r : Run} {t : Task} (h : UnitTurn s kind u r k t) (eng : Engine) (ue : Bool) :
    s.dev.unitStep eng kind u ue = (s.dev.noteWaits kind u).taskStep eng r k t ue := by
  obtain ⟨hrun, hready, htask, hfence⟩ := h
  simp only [Dev.unitStep, hrun, hready, htask, Dev.unlessFenced, hfence, Bool.false_eq_true, if_false]

theorem Dev.taskStep_made {d e : Dev} {eng : Engine} {r : Run} {k : Nat} {t : Task} (h : BandMade d eng r k t e) :
    d.taskStep eng r k t false = e := by
  obtain ⟨w, cal, ins, rs, d1, d2, d3, d4, tops, rfl, rfl, hcal, hins, heng, hput, he⟩ := h
  simp only [Dev.taskStep, hcal, hins, heng, hput, Bool.false_eq_true, if_false]
  exact he.symm

/-- Settles O38: one lemma over the rows of the units; the turn picks the task, and its store makes or ends the band. -/
theorem enginesMakeBands : Obligations.EnginesMakeBands := by
  refine fun s u r k t => ⟨fun kind eng n c hrow hu hturn e hmade => ?_, fun kind eng n c hrow hu hturn => ?_⟩
  · have h := answers_unitRows u false s _ hrow hu
    rwa [Dev.unitStep_turn hturn, Dev.taskStep_made hmade] at h
  · have h := answers_unitRows u true s _ hrow hu
    rwa [Dev.unitStep_turn hturn] at h

/-! ### The solver lattice and place search -/

/-- A group goes on with a task whose first wave is behind it. -/
theorem Dev.wave_goesOn {d : Dev} {lost : List Nat} {g k : Nat} {h : HostView} {r : Run} {t : Task}
    (hrun : minBy edf (d.runs.filter (fun r => r.eligible && (d.slxReady r g).isSome)) = some r) (hready : d.slxReady r g = some k)
    (hgroup : d.isFenced 9 g = false) (hcores : ∀ i, i < 16 → d.isFenced 9 (32 + 16 * g + i) = false)
    (htask : r.tasks[k]? = some t) (hband : t.band ≠ 0)
    (hnow : ((d.markStarted r.id).run r.id).bind (fun x => x.tasks[k]?) = some t) (faults : List (Nat × Nat)) :
    d.wave lost g h faults = (((placeWave lost g [] (t.pendingOn g)).foldl
      (fun e p => e.runProblem r k g p.1 (16 * g + p.2) ((d.markStarted r.id).tauOf r.part) h faults) (d.markStarted r.id)).addWrap
        R.SLX_GROUP_STAT.WAVES g 0 1).endSlx r.id k := by
  have hfence : (d.isFenced 9 g || (List.range 16).any (fun i => d.isFenced 9 (32 + 16 * g + i))) = false := by
    rw [hgroup, Bool.false_or, List.any_eq_false]
    intro i hi
    rw [hcores i (List.mem_range.mp hi)]
    exact Bool.false_ne_true
  simp only [Dev.wave, hrun, hready, Dev.unlessFenced, hfence, htask, if_neg hband, hnow, Bool.false_eq_true, if_false]

/-- A walker goes on with a search that has begun. -/
theorem Dev.walkerStep_goesOn {d : Dev} {w k : Nat} {h : HostView} {ue : List (Nat × Nat)} {r : Run} {t : Task} {x : Search}
    (hrun : minBy edf (d.runs.filter (fun r => r.eligible && (d.pseReady r w).isSome)) = some r) (hready : d.pseReady r w = some k)
    (hfence : d.isFenced 10 w = false) (htask : r.tasks[k]? = some t) (hx : (d.markStarted r.id).search r.id k = some x) :
    d.walkerStep w h ue = (((x.pendingOn w).take 32).foldl (fun d i => d.runQuery r k w i (ue.lookup i)) (d.markStarted r.id)).endSearch
      r.id k := by
  simp only [Dev.walkerStep, hrun, hready, Dev.unlessFenced, hfence, htask, hx, Bool.false_eq_true, if_false]

/-- R336: an index that may be written takes the next change, whose kind says what its bytes are. -/
theorem Dev.applyChange_read {d e : Dev} {slot : Nat} {h : HostView} {x : Idx} {r : Req} {bs : List Byte} (hx : d.idx slot = some x)
    (hr : d.nextChange x = some r) (hw : x.writable = true)
    (hread : (d.dropMaint (.hostReq r.id)).read (r.who 10) h (dArg0 r.desc) (dLen r.desc) = (e, .ok bs)) {f : Dev}
    (hf : f = if dOpc r.desc = 0x41 then (if vectorsOk x.blk bs then e.insertVectors r x bs else e.finishReq r 0x13 7 none 0 [])
      else (if idsOk bs then e.deleteVectors r x bs else e.finishReq r 0x13 7 none 0 [])) :
    d.applyChange slot h = f.settleWaits (f.reqs.length + 1) := by
  subst hf
  simp only [Dev.applyChange, hx, hr, hw, hread, Bool.not_true, Bool.false_eq_true, if_false]

theorem answers_indexChangeApply {s : State} {slot : Nat} {h : HostView} {x : Idx} {r : Req} (hslot : slot < 16)
    (hx : s.dev.idx slot = some x) (hr : s.dev.nextChange x = some r) (hturn : s.dev.maintTurn (.hostReq r.id) = true) :
    Answers (.indexChangeApply slot h) s (s.dev.applyChange slot h) := by
  show execIndexChangeApply slot h s = _
  refine onDev_answers (decide_eq_true hslot) ?_
  simp only [hx, Option.bind_some, hr, hturn, if_true]

theorem Dev.retireIdx_due {d : Dev} {slot : Nat} {x : Idx} (hx : d.idx slot = some x) (hnew : x.retired ≠ x.epoch)
    (hended : ∀ r ∈ d.runs, r.id ∉ x.before) :
    d.retireIdx slot = ({ d with mem := (d.mem.store (ixRoot x.blk + 4) (leBytes 4 x.epoch)).sealIx x.blk } : Dev).setIdx slot
      (fun x => { x with retired := x.epoch, gone := x.gone.map (fun (g : Nat × Bool) => (g.1, true)) }) := by
  have hall : d.runs.all (fun r => decide (r.id ∉ x.before)) = true :=
    List.all_eq_true.mpr (fun r hr => decide_eq_true (hended r hr))
  simp only [Dev.retireIdx, hx, if_pos (show x.retired ≠ x.epoch ∧ _ from ⟨hnew, hall⟩)]

theorem Dev.rebuildIdx_goesOn {d : Dev} {slot : Nat} {x : Idx} {r r' : IdxReb} {m : Mem} (hx : d.idx slot = some x)
    (hreb : x.rebuild = some r) (hstep : x.rebuildStep d.shard d.mem r = some (m, r')) :
    d.rebuildIdx slot = (({ d with mem := m } : Dev).setIdx slot (fun x => { x with rebuild := some r' })).warnIdx slot := by
  simp only [Dev.rebuildIdx, hx, hreb, hstep]

/-- Settles O39: the turn picks the task, and each step goes on where its hypotheses leave it. -/
theorem solverAndSearchProceed : Obligations.SolverAndSearchProceed := by
  refine ⟨?_, ?_, ?_, ?_, ?_, ?_, ?_⟩
  · intro s g k h r t hg hrun hready hgroup hcores htask hband hnow
    show execSlxWave g h [] s = _
    exact onDev_answers (by rw [decide_eq_true hg]; rfl) (Dev.wave_goesOn hrun hready hgroup hcores htask hband hnow [])
  · intro s w k h ue r t x hw hrun hready hfence htask hx
    show execPseWalkerStep w h ue s = _
    exact onDev_answers (decide_eq_true hw) (Dev.walkerStep_goesOn hrun hready hfence htask hx)
  · rintro s run x hsearch rfl -
    show execShardWaitExpiry x.run s = _
    refine onDev_answers rfl ?_
    simp only [hsearch, List.foldl_cons, List.foldl_nil]
  · refine fun s slot h x r e bs hslot hx hr hturn hw hread => ⟨fun hopc hok => ⟨_, rfl, ?_⟩, fun hopc hok => ⟨_, rfl, ?_⟩⟩
    · rw [← Dev.applyChange_read hx hr hw hread (by rw [if_pos hopc, if_pos hok])]
      exact answers_indexChangeApply hslot hx hr hturn
    · rw [← Dev.applyChange_read hx hr hw hread (by rw [if_neg (by rw [hopc]; decide), if_pos hok])]
      exact answers_indexChangeApply hslot hx hr hturn
  · intro s slot x hslot hx hnew hended
    show execIndexEpochRetire slot s = _
    exact onDev_answers (decide_eq_true hslot) (Dev.retireIdx_due hx hnew hended)
  · intro s slot x r m r' hslot hturn hx hreb hstep
    show execIndexRebuildStep slot s = _
    exact onDev_answers (decide_eq_true hslot) ((if_pos hturn).trans (Dev.rebuildIdx_goesOn hx hreb hstep))
  · intro s slot x hslot hup _ _
    show execPseIndexRebuild slot s = _
    exact onDev_answers (decide_eq_true hslot) (if_pos hup)

/-! ### The Orrery -/

section
variable {d : Dev} {run t : Nat} {r : Run} {k : Track} (hr : d.run run = some r) (hk : d.track t = some k)
  (hadm : k.admitted = true) (hel : r.eligible = true)
include hr hk hadm hel

section
variable {src hdr ns : Nat} {ins : List (Nat × Nat)} {x : FSrc} {e : Dev} {bs : List Byte} (hx : k.srcs[src]? = some x)
  (happ : r.applied = false) (hpart : r.part = k.part) (hfence : d.isFenced 6 k.island = false)
  (hread : (d.markStarted run).readRanges (r.who 6 k.island none) ((hdr, 64) :: ins) = (e, .ok bs))
include hx happ hpart hfence hread

/-- R266: a correction older than the track's history is counted. -/
theorem Dev.correct_old (hold : ((stampOf x.kind bs : Int) - x.delayNs).toNat + k.histNs < k.grid) :
    d.correct run t src hdr ins false ns =
      (e.setRun run (fun r => { r with applied := true })).addSat R.FTE_TRACK_STAT.OLD t 0 1 := by
  simp only [Dev.correct, hr, hk, hx, hadm, hel, happ, hpart, hfence, hread, if_pos hold, ne_eq, not_true_eq_false, decide_false,
    Bool.not_true, Bool.or_self, Bool.false_eq_true, if_false]

/-- R257: a correction of a source that is no camera, within the track's history. -/
theorem Dev.correct_sample (hcam : x.camera = false) {tm : Nat} (htm : tm = ((stampOf x.kind bs : Int) - x.delayNs).toNat)
    (hnew : k.grid ≤ tm + k.histNs) {args : List Nat}
    (hargs : args = k.nom ++ k.cov ++ x.blk.map (·.toNat) ++ x.model.map (·.toNat) ++ tm :: bs.map (·.toNat)) {pass : Bool}
    (hpass : pass = (decide (1 ≤ (Config.orrery 8 args 0).toNat) && !(x.cause.isNone && decide ((Config.orrery 8 args 1).toNat = 1)))) :
    d.correct run t src hdr ins false ns =
      (let d := e.setRun run (fun r => { r with applied := true })
       let d := if pass && x.cause.isNone then d.setTrack t (fun k => { k with
           nom := (freeNums 2 args 136).take 16
           cov := (freeNums 2 args 136).drop 16
           corrs := k.corrs ++ [⟨r.prom, tm, tm :: bs.map (·.toNat)⟩] }) else d
       let d := d.countGroup t src pass
       if pass && x.cause.isNone then d.checkLost t else d) := by
  subst htm hargs hpass
  simp only [Dev.correct, hr, hk, hx, hadm, hel, happ, hpart, hfence, hread, if_neg (Nat.not_lt.mpr hnew), hcam, ne_eq,
    not_true_eq_false, decide_false, Bool.not_true, Bool.or_self, Bool.and_false, Bool.false_eq_true, if_false]

end

/-- R262: a speculative frame on a free tail segment of the run's workbook. -/
theorem Dev.startSpec_free {seg : Nat} {w : Wb} (hw : d.wb r.wb = some w) (hparts : d.parts = 1) (hpart : r.part = k.part)
    (hroom : k.frames.length < k.depth) (hseg : seg < maxBy (fun (x : Region) => if x.kind = 3 then x.segs else 0) w.place)
    (hcomet : k.cometOff = false) (hspec : r.specFrame = false) (happ : r.applied = false)
    (hfree : ∀ f ∈ k.frames, f.seg ≠ seg ∧ f.run ≠ run) :
    d.startSpec t run seg = ((d.markStarted run).setRun run (fun r => { r with specFrame := true })).setTrack t
      (fun k => { k with frames := k.frames ++ [⟨seg, run, freeNums 3 (k.nom ++ k.cov) 7⟩] }) := by
  have hnone : k.frames.any (fun f => decide (f.seg = seg ∨ f.run = run)) = false := by
    rw [List.any_eq_false]
    intro f hf
    have := hfree f hf
    simpa using this
  simp only [Dev.startSpec, hr, hk, hw, hparts, hpart, hroom, hseg, hcomet, hadm, hel, hspec, happ, hnone, and_self, decide_true,
    Bool.not_false, Bool.and_self, if_true]

/-- R259: the pose of a run outside a twin channel, once its output instant has come. -/
theorem Dev.output_due {start slot to_ : Nat} {jobs : List Nat} {e : Entry} {d1 d2 : Dev} (hsrc : r.src = .entry slot)
    (he : d.entry slot = some e) (hpart : r.part = k.part) (hstart : start ≤ d.schedNow r.part) (hrel : r.rel ≤ start)
    (hstreams : ∀ x ∈ r.streams, x.ended = true) (htasks : ∀ x ∈ r.tasks, x.done = true) (hcorr : d.corrPending r jobs = false)
    (hfence : d.isFenced 6 k.island = false) (hch : e.channel = none) (hd1 : d1 = d.markStarted run)
    (hto : to_ = outInstant r.prom start) (hdue : to_ ≤ d.schedNow r.part) {rec_ : List Byte × Nat}
    (hrec : rec_ = d1.poseRecord k slot (d1.toTrack k r.rel) (d1.toTrack k r.prom) (d1.toTrack k to_))
    (hwrite : d1.write (r.who 6 k.island none) (k.outRing + 128 * (r.k % max 1 k.outSlots)) rec_.1 = (d2, none)) :
    d.output run t start jobs false = ((d2.writeFlag r.occ k.outFlag true).set R.FTE_TRACK_STAT.CONF t 0 rec_.2).finishPose
      r e to_ to_ (k.outRing + 128 * (r.k % max 1 k.outSlots)) := by
  subst hd1 hto hrec
  have hs : r.streams.all (·.ended) = true := List.all_eq_true.mpr hstreams
  have ht : r.tasks.all (·.done) = true := List.all_eq_true.mpr htasks
  have hnow : ¬(r.part ≠ k.part ∨ d.schedNow r.part < start ∨ start < r.rel) := by
    rintro (h | h | h)
    · exact h hpart
    · omega
    · omega
  simp only [Dev.output, hr, hk, hsrc, he, hadm, hel, decide_eq_false hnow, hs, ht, hcorr, hfence, hch, Option.bind_none,
    if_neg (Nat.not_lt.mpr hdue), hwrite, Bool.not_true, Bool.or_self, Bool.false_eq_true, if_false]

end

theorem Dev.extrapOver_due {d : Dev} {t i : Nat} {k : Track} {x : FSrc} (hk : d.track t = some k) (hx : k.srcs[i]? = some x)
    (hadm : k.admitted = true) (hcause : x.cause = none) (hlate : x.newest.getD k.lastPass + x.extrapMax < d.trackNow k) :
    d.extrapOver t i = d.setMask t i (some 4) := by
  simp only [Dev.extrapOver, hk, hx, hadm, hcause, decide_eq_true hlate, Option.isNone_none, Bool.and_self, if_true]

theorem Dev.coast_due {d : Dev} {t : Nat} {k : Track} (hk : d.track t = some k) (hadm : k.admitted = true) (hst : k.state = 1)
    (hlate : k.lastPass + k.coastMax < d.trackNow k) : d.coast t = (d.setTrackState t 2).checkLost t := by
  simp only [Dev.coast, hk, hadm, hst, hlate, and_self, decide_true, Bool.and_self, if_true]

theorem Dev.serveQuery_due {d e : Dev} {id a b : Nat} {q : Req} {r : Run} {k : Track} (hq : d.req id = some q)
    (hr : d.runs.find? (fun r => decide (r.src = .req id)) = some r) (hk : d.track (dArg1 q.desc % 256) = some k)
    (hwin : q.win = some (a, b)) (hopc : dOpc q.desc = 0x60) (hgrid : b ≤ k.grid) (hstreams : ∀ x ∈ r.streams, x.ended = true)
    (htasks : ∀ x ∈ r.tasks, x.done = true) (hcopies : r.copies = [])
    (hwrite : (d.markStarted r.id).write (r.who 6 k.island none) (dArg2 q.desc) (k.windowResult (dArg1 q.desc) a b) = (e, none)) :
    d.serveQuery id = e.finishRun r (e.okStatus r).1 (e.okStatus r).2 (dArg2 q.desc) [] := by
  have hs : r.streams.all (·.ended) = true := List.all_eq_true.mpr hstreams
  have ht : r.tasks.all (·.done) = true := List.all_eq_true.mpr htasks
  simp [Dev.serveQuery, hq, hr, hk, hwin, hopc, hgrid, hs, ht, hcopies, hwrite]

/-- Settles O41: each step passes its admission tests under its hypotheses, then applies its result. -/
theorem orreryProceeds : Obligations.OrreryProceeds := by
  refine ⟨?_, ?_, ?_, ?_, ?_, ?_, ?_, ?_⟩
  · intro s t k l ht _ _ _ _ _
    show execPropagationStep t s = _
    exact onDev_answers (decide_eq_true ht) rfl
  · intro s run t src hdr ins ns r k x e bs ht hsrc hr hk hx hadm hel happ hpart hfence hread hold
    show execVisualCorrection run t src hdr ins false ns s = _
    exact onDev_answers (decide_eq_true ⟨ht, hsrc⟩) (Dev.correct_old hr hk hadm hel hx happ hpart hfence hread hold)
  · intro s run t src hdr ins ns r k x e bs ht hsrc hr hk hx hadm hel happ hpart hfence hcam hread tm htm hnew
    show execVisualCorrection run t src hdr ins false ns s = _
    exact onDev_answers (decide_eq_true ⟨ht, hsrc⟩)
      (Dev.correct_sample hr hk hadm hel hx happ hpart hfence hread hcam htm hnew rfl rfl)
  · intro s t run seg r k w ht hseg3 hr hk hw hparts hpart hroom hseg hcomet hadm hel hspec happ hfree
    show execSpeculativeFrameStart t run seg s = _
    exact onDev_answers (decide_eq_true ⟨ht, hseg3⟩)
      (Dev.startSpec_free hr hk hadm hel hw hparts hpart hroom hseg hcomet hspec happ hfree)
  · intro s run t start slot jobs r k e d1 d2 to_ ht hr hk hsrc he hadm hel hpart hstart hrel hstreams htasks hcorr hfence hch hd1 hto
      hdue rec_ hrec hwrite
    show execPoseOutput run t start jobs false s = _
    exact onDev_answers (decide_eq_true ht)
      (Dev.output_due hr hk hadm hel hsrc he hpart hstart hrel hstreams htasks hcorr hfence hch hd1 hto hdue hrec hwrite)
  · intro s t i k x ht hi hk hx hadm hcause hlate
    show execSourceExtrapTimeout t i s = _
    exact onDev_answers (decide_eq_true ⟨ht, hi⟩) (Dev.extrapOver_due hk hx hadm hcause hlate)
  · intro s t k ht hk hadm hst hlate
    show execCoastTimeout t s = _
    exact onDev_answers (decide_eq_true ht) (Dev.coast_due hk hadm hst hlate)
  · intro s id a b q r k e hq hr hk hwin hopc hgrid hstreams htasks hcopies hwrite
    show execWindowQueryServe id s = _
    exact onDev_answers rfl (Dev.serveQuery_due hq hr hk hwin hopc hgrid hstreams htasks hcopies hwrite)

end Sys2Proof.Machine
end

section
/-! PROOFS. The sequencers' instructions (R374 to R394): the address registers, control, flags and memory, and the issue and
completion of the arrays' operations. -/

namespace Sys2Proof.Machine

/-! ### The instruction that a stream issues -/

/-- A row whose instruction the stream issues now has the instruction's effect on the device with the step begun. -/
theorem seqRow_of_issues {s : State} {a q op : Nat} {i : Ins} {e : Dev} (h : Issues s a q op i e) (f : Ins → Dev → Dev) :
    seqRow a q op f s = .next { s with dev := f i e } := by
  obtain ⟨ha, hq, h⟩ := h
  rw [seqRow, onDev_ok (show streamOk a q = true from decide_eq_true ⟨ha, hq⟩)]
  unfold Dev.issued at h
  split at h
  · cases h
  next r st hcur =>
    split at h
    · cases h
    next hopen =>
      simp only [Bool.or_eq_true, not_or, Bool.not_eq_true] at hopen
      obtain ⟨⟨hblocked, hfence⟩, hvxu⟩ := hopen
      split at h
      next e' i' hfetch =>
        split at h
        next hop =>
          obtain ⟨hop, hhaz⟩ := hop
          cases h
          rw [issue_runs s.dev f hcur hblocked hfence hvxu hfetch hop hhaz]
        · cases h
      · cases h

/-- A command whose row is `f` answers with what `f` makes of the instruction issued. -/
theorem answers_of_issues {c : Instr} {s : State} {a q op : Nat} {i : Ins} {e d : Dev} {f : Ins → Dev → Dev}
    (hrow : exec c s = seqRow a q op f s) (h : Issues s a q op i e) (hd : f i e = d) : Answers c s d := by
  rw [Answers, hrow, seqRow_of_issues h f, hd]

/-! ### Address registers -/

/-- R378: a register keeps its value modulo 2^64. -/
theorem Stream.setReg_mod (st : Stream) (n v : Nat) : st.setReg n (v % 2 ^ 64) = st.setReg n v := by
  have h : BitVec.ofNat 64 (v % 2 ^ 64) = BitVec.ofNat 64 v := by
    apply BitVec.eq_of_toNat_eq
    simp only [BitVec.toNat_ofNat, Nat.mod_mod]
  rw [Stream.setReg, Stream.setReg, h]

theorem Stream.setReg_ofSigned (st : Stream) (n v : Nat) : st.setReg n (ofSigned 64 (v : Int)) = st.setReg n v := by
  have h : ofSigned 64 (v : Int) = v % 2 ^ 64 := by unfold ofSigned; omega
  rw [h, Stream.setReg_mod]

/-- An instruction whose value is a natural number writes it to D, modulo 2^64. -/
theorem answers_seqSet {c : Instr} {s : State} {a q op : Nat} {i : Ins} {e : Dev} {v : Ins → Int} {x : Nat}
    (hrow : exec c s = seqSet a q op v s) (h : Issues s a q op i e) (hx : v i = (x : Int)) :
    Answers c s (e.goOn i (fun st => st.setReg (iD i.w) x)) := by
  refine answers_of_issues hrow h ?_
  simp only [hx, Stream.setReg_ofSigned]

/-- Settles O43: every form is its row of `exec` for the instruction that the stream issues. -/
theorem addressInstructionsWriteD : Obligations.AddressInstructionsWriteD := by
  refine fun s a q i e => ⟨fun h => answers_of_issues rfl h rfl, fun h => answers_of_issues rfl h rfl, fun h hreg => ?_,
    fun h => answers_seqSet rfl h rfl, fun h => ?_, fun h => answers_of_issues rfl h rfl, fun h => answers_of_issues rfl h rfl,
    fun h => answers_of_issues rfl h rfl, fun h => answers_seqSet rfl h rfl, fun h => answers_seqSet rfl h rfl,
    fun h => ⟨fun hk => ?_, fun hk => ?_, fun hk => ?_⟩, fun h => answers_seqSet rfl h rfl⟩
  · exact answers_of_issues rfl h (if_neg (by rw [hreg]; exact Bool.false_ne_true))
  · simp only [Stream.setReg_mod]
    exact answers_seqSet rfl h (Int.natCast_add ..).symm
  · simp only [Stream.setReg_mod]
    exact answers_seqSet rfl h (by rw [hk]; rfl)
  · exact answers_seqSet rfl h (by rw [hk]; rfl)
  · exact answers_of_issues rfl h (by simp only [hk]; rfl)

/-! ### Control -/

theorem Dev.checkpoint_plain {e : Dev} {i : Ins} (hops : i.s.ops = []) {g : Nat × Nat}
    (hseg : e.tailSeg i.run.wb i.s.array (bitsOf i.w 1 0) = some g) (hspec : e.specTrack i.run.id (bitsOf i.w 1 0) = none) :
    Dev.checkpoint i e = (e.undefine g.1 (min 512 g.2)).goOn i (fun st => st.setReg (iD i.w) 0) := by
  simp only [Dev.checkpoint, hops, List.isEmpty_nil, Bool.not_true, Bool.false_eq_true, if_false, hseg, hspec, Option.isSome_none]
  rfl

/-- Settles O44: every form is its row of `exec` for the instruction issued, on the branch its hypotheses select. -/
theorem controlInstructionsGoOn : Obligations.ControlInstructionsGoOn := by
  refine fun s a q i e => ⟨fun h hops hspec => ?_, fun h => answers_of_issues rfl h rfl, fun h hread => ⟨fun hf => ?_, fun hf => ?_⟩,
    fun h => ⟨fun hc => ?_, fun hc => ?_⟩, fun h => answers_of_issues rfl h rfl, fun h hops g hseg ha hspec => ?_,
    fun h hno => ?_, fun h hseg f hf => ?_, fun h hspec c hc => ?_, fun h hops => ?_⟩
  · refine answers_of_issues rfl h ?_
    simp only [Dev.seqEnd, hops, hspec, List.isEmpty_nil, Option.isSome_none, Bool.not_true, Bool.false_eq_true, if_false]
  · exact answers_of_issues rfl h ((if_pos hread).trans (if_pos (beq_iff_eq.mpr hf)))
  · exact answers_of_issues rfl h ((if_pos hread).trans (if_neg (by rwa [beq_iff_eq])))
  · exact answers_of_issues rfl h (if_pos hc)
  · exact answers_of_issues rfl h (if_neg (by rw [hc]; exact Bool.false_ne_true))
  · subst ha
    exact answers_of_issues rfl h (Dev.checkpoint_plain hops hseg hspec)
  · exact answers_of_issues rfl h (if_neg hno)
  · refine answers_of_issues rfl h ?_
    simp only [Dev.rollbackIns, if_pos hseg, hf]
  · refine answers_of_issues rfl h ?_
    simp only [Dev.seqEvent, hspec, hc, Option.isSome_none, Bool.false_eq_true, if_false]
  · exact answers_of_issues rfl h (if_pos (by rw [hops]; rfl))

/-! ### Flags and memory -/

/-- R380, R393: an access that nothing holds back happens now. -/
theorem Dev.guard_of_free {e : Dev} {i : Ins} {reads writes : List (Nat × Nat)} (h : Free e i reads writes) (f : Dev → Dev) :
    e.guard i reads writes f = f e := by
  obtain ⟨hhaz, hspec⟩ := h
  simp only [Dev.guard, hhaz, hspec, Bool.not_true, Bool.false_eq_true, if_false]

theorem Dev.ald_reads {e e' : Dev} {i : Ins} {h : HostView} {bs : List Byte} (hal : i.ea % 8 = 0) (hfree : Free e i [(i.ea, 8)] [])
    (hread : e.read i.who h i.ea 8 = (e', .ok bs)) : Dev.ald h i e = e'.goOn i (fun st => st.setReg (iD i.w) (leNat bs)) := by
  rw [Dev.ald, if_neg (not_not.mpr hal), Dev.guard_of_free hfree, hread]

theorem Dev.store8_writes {e e' : Dev} {i : Ins} {x v : Nat} (hal : x % 8 = 0) (hfree : Free e i [] [(x, 8)])
    (hwrite : e.write i.who x (leBytes 8 v) = (e', none)) (f : Stream → Stream) : e.store8 i x v f = e'.goOn i f := by
  rw [Dev.store8, if_neg (not_not.mpr hal), Dev.guard_of_free hfree, hwrite]

theorem Dev.flagSet_writes {e : Dev} {i : Ins} (hw : e.flagWritable i.run.part i.flagIx = true) (hops : i.s.ops = [])
    (hspec : i.s.spec = none) : Dev.flagSet i e = (e.writeFlag (i.who.occ 0) i.flagIx (iV i.w)).goOn i id := by
  simp only [Dev.flagSet, hw, hops, hspec, List.isEmpty_nil, Bool.not_true, Bool.false_eq_true, if_false]

theorem Dev.flagsAre_iff {d : Dev} {f n : Nat} {v : Bool} : d.flagsAre f n v = true ↔ ∀ k, k < n → d.flag (f + k) = v := by
  simp [Dev.flagsAre]

/-- A wait on readable flags that clears none passes where they stand and stalls where they do not. -/
theorem Dev.waitOn_readable {e : Dev} {i : Ins} {n : Nat} (hread : ∀ k, k < n → e.flagReadable i.run.part (i.flagIx + k) = true)
    (hclr : iClr i.w = false) : e.waitOn i n =
      if e.flagsAre i.flagIx n (iV i.w) then e.goOn i id else e.stall i (.flag i.flagIx n (iV i.w) false) := by
  have hok : (List.range n).all (fun k => e.flagReadable i.run.part (i.flagIx + k) &&
      (!iClr i.w || e.flagWritable i.run.part (i.flagIx + k))) = true := by
    rw [List.all_eq_true]
    intro k hk
    rw [hread k (List.mem_range.mp hk), hclr]
    rfl
  rw [hclr] at hok
  simp only [Dev.waitOn, hok, hclr, Dev.passWait, Bool.not_true, Bool.false_and, Bool.false_eq_true, if_false]

theorem Dev.barrier_arrives {e : Dev} {i : Ins} {as : List Nat} (has : e.treeArrays i.run (bitsOf i.w 5 0) = some as)
    (hmem : i.s.array ∈ as) (hmode : bitsOf i.w 7 6 = 1) (hnew : i.s.array ∉ (e.treeOf i.run (bitsOf i.w 5 0)).arrived)
    (hops : i.s.ops = []) (hspec : i.s.spec = none) :
    Dev.barrier i e = (e.setTree (bitsOf i.w 5 0) { e.treeOf i.run (bitsOf i.w 5 0) with
      arrived := (e.treeOf i.run (bitsOf i.w 5 0)).arrived ++ [i.s.array] }).goOn i (fun st => { st with
        arrived := (bitsOf i.w 5 0, (e.treeOf i.run (bitsOf i.w 5 0)).gen) :: st.arrived.filter (fun x => decide (x.1 ≠ bitsOf i.w 5 0))
      }) := by
  have hmode2 : ¬(1 : Nat) = 2 := by decide
  simp only [Dev.barrier, has, if_neg (not_not.mpr hmem), hmode, if_neg hmode2, if_neg hnew, hops, hspec, List.isEmpty_nil,
    Option.isSome_none, Bool.not_true, Bool.false_eq_true, if_false, if_true]

/-- R381: a wait whose flags stand goes on, and its run notes that it has waited. -/
theorem Dev.flagWaitDone_stands {d : Dev} {a q f n : Nat} {v : Bool} {r : Run} {st : Stream} (hcur : d.current a q = some (r, st))
    (hwait : st.wait = .flag f n v false) (hstand : d.flagsAre f n v = true) :
    d.flagWaitDone a q = (d.setRun r.id (fun r => r.addCause 1)).goOn ⟨r, st, 0, 0⟩ id := by
  simp only [Dev.flagWaitDone, hcur, hwait, hstand, if_true, Dev.passWait, Bool.false_eq_true, if_false]

/-- What a release does to one stream of the run: a waiter of this generation goes on. -/
def Dev.leaveBarrier (r : Run) (t gen : Nat) (d : Dev) (x : Stream) : Dev :=
  match x.wait with
  | .barrier t' g => if t' = t ∧ g = gen then d.goOn ⟨r, x, 0, 0⟩ id else d
  | _ => d

/-- R390: a tree whose participants have all arrived lets every waiter leave. -/
theorem Dev.releaseTree_all {d : Dev} {t : Nat} {r : Run} {as : List Nat} (hrun : (d.tree t).run.bind d.run = some r)
    (has : d.treeArrays r t = some as) (hne : as.filter (fun a => r.streams.any (fun x => decide (x.array = a))) ≠ [])
    (hall : ∀ a ∈ as.filter (fun a => r.streams.any (fun x => decide (x.array = a))), a ∈ (d.tree t).arrived) :
    d.releaseTree t = r.streams.foldl (Dev.leaveBarrier r t (d.tree t).gen)
      ((d.setTree t ⟨(d.tree t).gen + 1, [], (d.tree t).run⟩).count 2 1 1 r.occ) := by
  have hgo : ¬((as.filter (fun a => r.streams.any (fun x => decide (x.array = a)))).isEmpty = true ∨
      (as.filter (fun a => r.streams.any (fun x => decide (x.array = a)))).any (fun a => decide (a ∉ (d.tree t).arrived)) = true) := by
    rw [List.isEmpty_iff, List.any_eq_true]
    rintro (h | ⟨a, ha, h⟩)
    · exact hne h
    · exact of_decide_eq_true h (hall a ha)
  simp only [Dev.releaseTree, hrun, has, if_neg hgo]
  rfl

/-- Settles O45: every form is its row of `exec` for the instruction issued; a wait and a barrier stand, or end when they may. -/
theorem flagsAndMemoryInstructionsGoOn : Obligations.FlagsAndMemoryInstructionsGoOn := by
  refine ⟨fun s a q i e => ⟨fun h hv e' bs hal hfree hread => ?_, fun h e' hal hfree hwrite => ?_, fun h hread => ?_,
    fun h hw hops hspec => ?_, fun h hread hclr => ?_, fun h hread hclr hstand => ?_,
    fun h as has hmem hmode hnew hops hspec => ?_⟩, ?_, ?_⟩
  · exact answers_of_issues rfl h (Dev.ald_reads hal hfree hread)
  · exact answers_of_issues rfl h (Dev.store8_writes hal hfree hwrite id)
  · exact answers_of_issues rfl h (if_pos hread)
  · exact answers_of_issues rfl h (Dev.flagSet_writes hw hops hspec)
  · have hone : ∀ k, k < 1 → e.flagReadable i.run.part (i.flagIx + k) = true := by
      intro k hk
      rwa [Nat.lt_one_iff.mp hk]
    have hstand : e.flagsAre i.flagIx 1 (iV i.w) = true ↔ e.flag i.flagIx = iV i.w := by
      simp [Dev.flagsAre]
    have hwait := Dev.waitOn_readable hone hclr
    exact ⟨fun hf => answers_of_issues rfl h (hwait.trans (if_pos (hstand.mpr hf))),
      fun hf => answers_of_issues rfl h (hwait.trans (if_neg (fun x => hf (hstand.mp x))))⟩
  · have hwait := Dev.waitOn_readable (n := bitsOf i.w 5 0 + 1) (fun k hk => hread k (Nat.le_of_lt_succ hk)) hclr
    exact answers_of_issues rfl h
      (hwait.trans (if_pos (Dev.flagsAre_iff.mpr (fun k hk => hstand k (Nat.le_of_lt_succ hk)))))
  · exact answers_of_issues rfl h (Dev.barrier_arrives has hmem hmode hnew hops hspec)
  · intro s a q f n v r st ha hq hcur hwait hstand
    show execFlagWaitSatisfied a q s = _
    exact onDev_answers (decide_eq_true ⟨ha, hq⟩) (Dev.flagWaitDone_stands hcur hwait hstand)
  · intro s t r as ht hrun has hne hall
    show execBarrierRelease t s = _
    exact onDev_answers (decide_eq_true ht) (Dev.releaseTree_all hrun has hne hall)

/-! ### The operations of the arrays -/

theorem Dev.issueOp_pushes {e : Dev} {i : Ins} {ok : Bool} (hok : ok = true) (h : MayPush e i) : e.issueOp i ok = e.push i none := by
  obtain ⟨hroom, hprot, hfree⟩ := h
  simp only [Dev.issueOp, hok, Bool.not_true, Bool.false_eq_true, if_false, if_neg (Nat.not_le.mpr hroom), hprot,
    Dev.guard_of_free hfree]

theorem Dev.mmaIns_pushes {e : Dev} {i : Ins} (hdpu : e.dpuTaken i = false) (hs : e.tileOk i i.sv (mmaBytes i.w) = true)
    (ht : e.tileOk i i.tv (mmaBytes i.w) = true) (hu : bitOf i.w 25 = true → e.tileOk i i.uv 4096 = true) (h : MayPush e i) :
    Dev.mmaIns i e = e.push i none := by
  have hu' : (!bitOf i.w 25 || e.tileOk i i.uv 4096) = true := by
    cases hb : bitOf i.w 25
    · rfl
    · exact hu hb
  rw [Dev.mmaIns, if_neg (by rw [hdpu]; exact Bool.false_ne_true), Dev.issueOp_pushes (by rw [hs, ht, hu']; rfl) h]

theorem Dev.accLd_loads {e e' : Dev} {i : Ins} (htile : e.tileOk i i.sv 4096 = true) (hdpu : e.dpuBusy i = false)
    (hfree : Free e i [(i.sv, 4096)] [])
    (hcheck : e.checkAll i.who (dedup ((e.outParts i.run.part i.s.array 0 i.sv).map (fun x => x.1 / 64))) = (e', none)) :
    Dev.accLd i e = { e' with
      acc := putAcc e'.acc i.s.array (iAcc i.w)
        ((dpus (e'.columnsOf i.run.part i.s.array)).map (fun (x : Nat × Nat) =>
          (x.1, x.2, BitVec.ofNat 32 (leNat (e'.mem.bytes (i.sv + 128 * x.1 + 4 * x.2) 4))))) }.goOn i id := by
  simp only [Dev.accLd, htile, hdpu, Bool.not_true, Bool.false_eq_true, if_false, Dev.guard_of_free hfree, hcheck]

theorem Dev.accSt_stores {e e' : Dev} {i : Ins} (htile : e.tileOk i i.sv 4096 = true) (hdpu : e.dpuBusy i = false)
    (hfree : Free e i [] [(i.sv, 4096)])
    (hwrite : e.writeList i.who (e.outParts i.run.part i.s.array (iAcc i.w) i.sv) = (e', none)) :
    Dev.accSt i e = e'.goOn i id := by
  simp only [Dev.accSt, htile, hdpu, Bool.not_true, Bool.false_eq_true, if_false, Dev.guard_of_free hfree, hwrite]

/-- The vectors of a VXU operation that fits pass the checks of its issue (Table 14-4). -/
theorem Dev.vxuIns_pushes {e : Dev} {i : Ins} (hfit : e.vxuFits i = true) (h : MayPush e i) : Dev.vxuIns i e = e.push i none := by
  refine Dev.issueOp_pushes ?_ h
  rw [Dev.vxuFits, Bool.and_eq_true] at hfit
  obtain ⟨hsrc, hdst⟩ := hfit
  rw [Bool.and_eq_true]
  refine ⟨?_, hdst⟩
  by_cases hb : iOp i.w = 0x37 ∧ iFn i.w = 0
  · rw [if_pos hb] at hsrc
    simp [hb, hsrc]
  · rw [if_neg hb] at hsrc
    simpa [hb, and_assoc] using hsrc

/-- The rows of the VXU operations. -/
theorem answers_vxuRows {s : State} {a q : Nat} {i : Ins} {e : Dev} :
    ∀ x ∈ [(0x30, Instr.vfp a q), (0x31, .vint a q), (0x32, .vcmp a q), (0x33, .vsel a q), (0x34, .vcvt a q),
      (0x35, .vreq a q), (0x36, .vred a q), (0x37, .vmov a q)], Issues s a q x.1 i e → Answers x.2 s (Dev.vxuIns i e) := by
  simp only [List.forall_mem_cons]
  exact ⟨fun h => answers_of_issues rfl h rfl, fun h => answers_of_issues rfl h rfl, fun h => answers_of_issues rfl h rfl,
    fun h => answers_of_issues rfl h rfl, fun h => answers_of_issues rfl h rfl, fun h => answers_of_issues rfl h rfl,
    fun h => answers_of_issues rfl h rfl, fun h => answers_of_issues rfl h rfl, fun _ h => absurd h List.not_mem_nil⟩

theorem Dev.moveHand_queues {e : Dev} {i : Ins} {b : List Byte} (hgood : e.moverBad i.run.part i.run.ctx b = none)
    (hfree : Free e i (if mvZero b then [] else [footprint b true]) [footprint b false]) :
    e.moveHand i b = (e.queueCopy (bitsOf i.w 35 32) b i.run none).push i (some e.nextId) := by
  simp only [Dev.moveHand, hgood, Dev.guard_of_free hfree]

theorem Dev.moveIns_reads {e e' : Dev} {i : Ins} {h : HostView} {b : List Byte}
    (hres : e.resPart (0x0A * 64 + bitsOf i.w 35 32) = some i.run.part) (hroom : i.s.ops.length < 64) (hspec : i.s.spec = none)
    (hperm : e.permits i.run.part i.run.ctx i.sv 64 false = true) (hpeer : isPeer i.sv = false) (hal : i.sv % 64 = 0)
    (htier : tierOf i.sv ≠ 0) (hfree : Free e i [(i.sv, 64)] []) (hread : e.read i.who h i.sv 64 = (e', .ok b)) :
    Dev.moveIns h i e = e'.moveHand i (moveDesc i b) := by
  have haligned : ¬(i.sv % 64 ≠ 0 ∨ tierOf i.sv = 0) := by omega
  simp only [Dev.moveIns, if_neg (not_not.mpr hres), if_neg (Nat.not_le.mpr hroom), hspec, hperm, hpeer, if_neg haligned,
    Option.isSome_none, Bool.not_true, Bool.or_self, Bool.false_eq_true, if_false, Dev.guard_of_free hfree, hread]

section
variable {e : Dev} {i : Ins} (hroom : i.s.ops.length < 64)
include hroom

theorem Dev.putIns_pushes (hown : e.ownT0 i.run.part i.s.array i.sv (iLen i.w) = true)
    (hperm : e.permits i.run.part i.run.ctx i.tv (iLen i.w) true = true) (hprot : e.isProtected i.tv (iLen i.w) = false)
    (hfree : Free e i [(i.sv, iLen i.w)] [(i.tv, iLen i.w)]) (hpeer : isPeer i.tv = false) : Dev.putIns i e = e.push i none := by
  simp only [Dev.putIns, hown, hperm, hprot, if_neg (Nat.not_le.mpr hroom), hpeer, Bool.not_true, Bool.or_self, Bool.false_eq_true,
    if_false, Dev.guard_of_free hfree]

theorem Dev.getIns_pushes (hown : e.ownT0 i.run.part i.s.array i.tv (iLen i.w) = true)
    (hperm : e.permits i.run.part i.run.ctx i.sv (iLen i.w) false = true) (hprot : e.isProtected i.tv (iLen i.w) = false)
    (hfree : Free e i [(i.sv, iLen i.w)] [(i.tv, iLen i.w)]) (hpeer : isPeer i.sv = false) (ht3 : isT3 i.sv = false) :
    Dev.getIns i e = e.push i none := by
  simp only [Dev.getIns, hown, hperm, hprot, if_neg (Nat.not_le.mpr hroom), hpeer, ht3, Bool.not_true, Bool.or_self,
    Bool.false_eq_true, if_false, Dev.guard_of_free hfree]

theorem Dev.atomicIns_pushes {n : Nat} (hn : n = if bitOf i.w 1 then 8 else 4) (hal : i.sv % n = 0) (ht3 : isT3 i.sv = false)
    (hr : e.permits i.run.part i.run.ctx i.sv n false = true) (hw : e.permits i.run.part i.run.ctx i.sv n true = true)
    (hprot : e.isProtected i.sv n = false) (hspec : i.s.spec = none) (hfree : Free e i [(i.sv, n)] [(i.sv, n)])
    (hpeer : isPeer i.sv = false) (max_ : Bool) : Dev.atomicIns max_ i e = e.push i none := by
  have hrange : ¬(i.sv % n ≠ 0 ∨ isT3 i.sv = true) := by simp [hal, ht3]
  simp only [Dev.atomicIns, ← hn, if_neg hrange, hr, hw, hprot, if_neg (Nat.not_le.mpr hroom), hspec, hpeer, Option.isSome_none,
    Bool.not_true, Bool.or_self, Bool.false_eq_true, if_false, Dev.guard_of_free hfree]

end

/-- The rows of the atomics. -/
theorem answers_atomicRows {s : State} {a q : Nat} {i : Ins} {e d : Dev} (hd : ∀ max_, Dev.atomicIns max_ i e = d) :
    ∀ x ∈ [(0x4A, Instr.atomicAdd a q), (0x4B, .atomicMax a q)], Issues s a q x.1 i e → Answers x.2 s d := by
  simp only [List.forall_mem_cons]
  exact ⟨fun h => answers_of_issues rfl h (hd false), fun h => answers_of_issues rfl h (hd true),
    fun _ h => absurd h List.not_mem_nil⟩

section
variable {d : Dev} {a q k : Nat} {r : Run} {st : Stream} {o : Op} (ho : (d.opsOn a q)[k]? = some (r, st, o)) (htag : o.tag = none)
  (hfirst : iOp o.word = 0x20 → st.ops.find? (fun y => decide (iOp y.word = 0x20)) = some o)
include ho htag hfirst

theorem Dev.completeOp_ends : d.completeOp a q k none = d.endOp r st o := by
  have hturn : ¬(iOp o.word = 0x20 ∧ st.ops.find? (fun y => decide (iOp y.word = 0x20)) ≠ some o) := fun h => h.2 (hfirst h.1)
  simp only [Dev.completeOp, ho, htag, Option.isSome_none, Bool.false_eq_true, if_false, if_neg hturn]

theorem Dev.completeOp_faults {f : CheckFault} (hf : faultFits f o = true) : d.completeOp a q k (some f) = d.opFault r st o f := by
  have hturn : ¬(iOp o.word = 0x20 ∧ st.ops.find? (fun y => decide (iOp y.word = 0x20)) ≠ some o) := fun h => h.2 (hfirst h.1)
  simp only [Dev.completeOp, ho, htag, Option.isSome_none, Bool.false_eq_true, if_false, if_neg hturn, if_pos hf]

end

theorem answers_seqOperationComplete {s : State} {a q : Nat} {fault : Option CheckFault} (ha : a < 4) (hq : q < 16)
    (hf : fault.all checkOk = true) (k : Nat) : Answers (.seqOperationComplete a q k fault) s (s.dev.completeOp a q k fault) :=
  show execSeqOperationComplete a q k fault s = _ from
    onDev_answers (by rw [streamOk, decide_eq_true ⟨ha, hq⟩, hf]; rfl) rfl

/-- Settles O46: issuing pushes the operation behind its checks; completing applies the effect or the fault of the first of its tag. -/
theorem arrayOperationsIssueAndComplete : Obligations.ArrayOperationsIssueAndComplete := by
  refine ⟨fun s a q i e => ⟨?_, ?_, ?_, ?_, ?_, ?_, ?_, ?_⟩, fun s a q k r st o ha hq ho htag hfirst => ⟨?_, fun f hok hfit => ?_⟩⟩
  · intro h hdpu hs ht hu hpush
    exact answers_of_issues rfl h (Dev.mmaIns_pushes hdpu hs ht hu hpush)
  · intro h e' htile hdpu hfree hcheck
    exact answers_of_issues rfl h (Dev.accLd_loads htile hdpu hfree hcheck)
  · intro h e' htile hdpu hfree hwrite
    exact answers_of_issues rfl h (Dev.accSt_stores htile hdpu hfree hwrite)
  · intro op c hrow h hfit hpush
    rw [← Dev.vxuIns_pushes hfit hpush]
    exact answers_vxuRows _ hrow h
  · intro h hv e' b hres hroom hspec hperm hpeer hal htier hfree hread hgood hfree'
    exact answers_of_issues rfl h
      ((Dev.moveIns_reads hres hroom hspec hperm hpeer hal htier hfree hread).trans (Dev.moveHand_queues hgood hfree'))
  · intro h hown hperm hprot hroom hfree hpeer
    exact answers_of_issues rfl h (Dev.putIns_pushes hroom hown hperm hprot hfree hpeer)
  · intro h hown hperm hprot hroom hfree hpeer ht3
    exact answers_of_issues rfl h (Dev.getIns_pushes hroom hown hperm hprot hfree hpeer ht3)
  · intro op c hrow h n hn hal ht3 hr hw hprot hroom hspec hfree hpeer
    exact answers_atomicRows (Dev.atomicIns_pushes hroom hn hal ht3 hr hw hprot hspec hfree hpeer) _ hrow h
  · rw [← Dev.completeOp_ends ho htag hfirst]
    exact answers_seqOperationComplete ha hq rfl k
  · rw [← Dev.completeOp_faults ho htag hfirst hfit]
    exact answers_seqOperationComplete (fault := some f) ha hq hok k

end Sys2Proof.Machine
end

section
/-! PROOFS. The peer link: ports and the group state (R412 to R414, R428), remote operations and relays (R418 to R424), the
group's sleep (R426, R427) and sharded searches (R344, R345). -/

namespace Sys2Proof.Machine

/-! ### Ports -/

/-- R414: the neighbour's identity frame brings up a port that waits for it. -/
theorem Dev.identity_matches {d : Dev} {p : Nat} {i : Identity} (hst : d.portState p = 2) (hok : d.mismatch p i = none) :
    ∀ e : Dev, e = ((d.setPort p 3 0).set R.PLK_PORT_STAT.NEIGHBOUR p 0 i.devId).setPlkPort p
      (fun x => { x with
        upSince := some ((d.setPort p 3 0).set R.PLK_PORT_STAT.NEIGHBOUR p 0 i.devId).now
        neighbour := some i }) →
    d.identity p i = (({ e with
      cal := { e.cal with lostPorts := e.cal.lostPorts.filter (fun x => decide (x.1 ≠ p)) }
      plk := { e.plk with healPend := true } } : Dev).noteMember i).reroute false := by
  rintro e rfl
  simp only [Dev.identity, hst, hok]

/-- R414: a group-state message of another member, on a port that is UP or QUIET. -/
theorem Dev.identity_groupState {d : Dev} {p : Nat} {i : Identity} (hst : d.portState p = 3 ∨ d.portState p = 4)
    (hmem : d.isMember i.devId = true) (hother : i.devId ≠ d.devId) : d.identity p i = (d.noteMember i).reroute false := by
  rcases hst with h | h <;> simp only [Dev.identity, h, hmem, decide_eq_true hother, Bool.and_self, if_true]

/-- R428: a heal sets the map authority as the quorum says. -/
theorem answers_heal {s : State} (h : s.dev.healed = true) : ∃ d : Dev,
    d = ({ s.dev with plk := { s.dev.plk with healPend := false } } : Dev).syncWitness ∧ Answers .heal s (d.setAuth d.quorum) := by
  refine ⟨_, rfl, ?_⟩
  show execHeal s = _
  refine onDev_answers rfl ((if_pos h).trans ?_)
  dsimp only
  split
  next hq => rw [hq]
  next hq => rw [Bool.eq_false_of_not_eq_true hq]

/-- Settles O48: each event is its operation, under the state of the port. -/
theorem peerPortsAct : Obligations.PeerPortsAct := by
  refine ⟨fun s p hp => ⟨fun l hst => ⟨_, rfl, ?_⟩, fun i hst hok => ⟨_, rfl, ?_⟩, fun i hst hmem hother => ?_, fun q hst => ?_,
    fun hst => ?_, fun l hl hst hact => ?_⟩, fun s htopo => ⟨fun hawake => ?_, fun h => answers_heal h⟩⟩
  · show execPortTrained p l s = _
    exact onDev_answers (decide_eq_true hp) (if_pos hst)
  · show execIdentityFrame p i s = _
    exact onDev_answers (decide_eq_true hp) (Dev.identity_matches hst hok _ rfl)
  · show execIdentityFrame p i s = _
    exact onDev_answers (decide_eq_true hp) (Dev.identity_groupState hst hmem hother)
  · show execReplayRequest p q s = _
    exact onDev_answers (decide_eq_true hp) (if_pos hst)
  · show execPortNoFlitTimeout p s = _
    exact onDev_answers (decide_eq_true hp) (if_pos hst)
  · show execLaneLockLoss p l s = _
    exact onDev_answers (by rw [portOk, decide_eq_true hp, decide_eq_true hl]; rfl)
      (if_pos (by rw [decide_eq_true hst, hact]; rfl))
  · show execGroupStateTimer s = _
    exact onDev_answers rfl (if_neg (by rw [decide_eq_false htopo, hawake]; exact Bool.false_ne_true))

/-! ### Remote operations -/

theorem answers_peerMemoryRequest {s : State} {src x : Nat} {op : PeerOp} (hsrc : src < 16) (hx : x < 2 ^ 40)
    (h0 : 0 < (opSpan op).1) (hn : (opSpan op).1 ≤ 65536) (htopo : s.dev.topo ≠ 0) (tag : Nat) :
    Answers (.peerMemoryRequest src x tag op) s (s.dev.peerRequest src x tag op) :=
  show execPeerMemoryRequest src x tag op s = _ from onDev_answers (decide_eq_true ⟨hsrc, hx, h0, hn⟩) (if_neg htopo)

section
variable {d : Dev} {src x : Nat} {op : PeerOp}

/-- R418: another member's request that is aligned and granted is served. -/
theorem Dev.peerRequest_served (hmem : d.isMember src = true) (hother : src ≠ d.devId)
    (hal : (∃ b, op = .put b) ∨ (∃ n, op = .get n) ∨ x % (opSpan op).1 = 0)
    (hgrant : d.granted src x (opSpan op).1 (opSpan op).2 = true) (tag : Nat) :
    ∀ r, r = d.serveOp (Who.device ((d.ownerOf x).getD 0) 0x0B) x op →
      d.peerRequest src x tag op = r.1.peerSend src tag 4 (ackBytes r.2) := by
  rintro r rfl
  cases op with
  | put bs => simp only [Dev.peerRequest, hmem, decide_eq_true hother, hgrant, Bool.and_self, if_true]
  | get n => simp only [Dev.peerRequest, hmem, decide_eq_true hother, hgrant, Bool.and_self, if_true]
  | atomicAdd w v =>
    obtain ⟨_, h⟩ | ⟨_, h⟩ | h := hal
    · cases h
    · cases h
    · simp only [Dev.peerRequest, hmem, decide_eq_true hother, decide_eq_true h, hgrant, Bool.and_self, if_true]
  | atomicMax w sgn v =>
    obtain ⟨_, h⟩ | ⟨_, h⟩ | h := hal
    · cases h
    · cases h
    · simp only [Dev.peerRequest, hmem, decide_eq_true hother, decide_eq_true h, hgrant, Bool.and_self, if_true]

/-- R422: a request of no other member, or one that no window grants, is refused. -/
theorem Dev.peerRequest_refused (h : d.isMember src = false ∨ src = d.devId ∨ d.granted src x (opSpan op).1 (opSpan op).2 = false)
    (tag : Nat) : d.peerRequest src x tag op = d.peerSend src tag 4 (ackBytes .refused) := by
  rcases h with h | h | h <;>
    simp only [Dev.peerRequest, h, ne_eq, not_true_eq_false, decide_false, Bool.false_and, Bool.and_false, Bool.false_eq_true, if_false]

end

section
variable {d : Dev} {tag : Nat} {o o' : L4} (ho : d.plk.ops.find? (fun o => decide (o.tag = tag)) = some o)
  (hold : d.plk.ops.find? (fun x => decide (x.member = o.member)) = some o') (htag : o'.tag = tag)
include ho hold htag

theorem Dev.acked_done (bs : List Byte) : d.acked tag (.done bs) =
    ({ d with plk := { d.plk with ops := d.plk.ops.filter (fun x => decide (x.tag ≠ tag)) } } : Dev).ackDone o bs := by
  simp only [Dev.acked, ho, hold, Option.map_some, htag, ne_eq, not_true_eq_false, if_false]

theorem Dev.acked_failed {a : PeerAck} (ha : ∀ bs, a ≠ .done bs) : d.acked tag a = d.failOp o (ackErr o a) := by
  cases a with
  | done bs => exact absurd rfl (ha bs)
  | refused => simp only [Dev.acked, ho, hold, Option.map_some, htag, ne_eq, not_true_eq_false, if_false]
  | poison y => simp only [Dev.acked, ho, hold, Option.map_some, htag, ne_eq, not_true_eq_false, if_false]
  | tier f t y => simp only [Dev.acked, ho, hold, Option.map_some, htag, ne_eq, not_true_eq_false, if_false]

end

/-- Settles O49: a request is served or refused by one test of the window; the oldest operation of a tag is the one acknowledged. -/
theorem peerOperationsAct : Obligations.PeerOperationsAct := by
  refine ⟨fun s src x tag op hsrc hx h0 hn htopo => ⟨fun hmem hother hal hgrant r hr => ?_, fun h => ?_⟩,
    fun s tag o o' ho hold htag => ⟨fun bs => ?_, fun a ha => ?_⟩,
    fun s src flag hsrc hflag htopo => ⟨fun hmem hgrant => ?_, fun h => ?_⟩⟩
  · rw [← Dev.peerRequest_served hmem hother hal hgrant tag r hr]
    exact answers_peerMemoryRequest hsrc hx h0 hn htopo tag
  · rw [← Dev.peerRequest_refused h tag]
    exact answers_peerMemoryRequest hsrc hx h0 hn htopo tag
  · show execPeerAcknowledgement tag (.done bs) s = _
    exact onDev_answers rfl (Dev.acked_done ho hold htag bs)
  · show execPeerAcknowledgement tag a s = _
    exact onDev_answers rfl (Dev.acked_failed ho hold htag ha)
  · show execFlagRelay src flag s = _
    exact onDev_answers (decide_eq_true ⟨hsrc, hflag⟩) ((if_neg htopo).trans (if_pos (by rw [hmem, hgrant]; rfl)))
  · have hno : ¬(s.dev.isMember src && s.dev.relayGranted src flag) = true := by
      rcases h with h | h <;> simp [h]
    show execFlagRelay src flag s = _
    exact onDev_answers (decide_eq_true ⟨hsrc, hflag⟩) ((if_neg htopo).trans (if_neg hno))

/-! ### Sleep and sharded searches -/

/-- R344: a query that the index can serve waits with the index. -/
theorem Dev.remoteQuery_taken {d : Dev} {q : RemoteQuery} {x : Idx} (hx : d.idxById q.indexId.toNat = some x)
    (hcb : d.mem.word (ixRoot x.blk + 36) 4 = q.cbCrc.toNat) (hroom : x.remote.length < 1024) (hserve : d.serves x q = true) :
    d.remoteQuery q = d.setIdx x.slot (fun x => { x with remote := x.remote ++ [q] }) := by
  simp [Dev.remoteQuery, hx, hcb, hroom, hserve]

/-- R345: a shard's list joins the search that asked for it. -/
theorem Dev.searchAnswer_list {d : Dev} {tag shard : Nat} {x : Search}
    (hx : d.searches.find? (fun s => decide (shard ∈ s.shards ∧ s.tag ≤ tag ∧ tag < s.tag + s.queries.length)) = some x)
    (e : BitVec 32) (l : List Hit) (tr : Bool) : d.searchAnswer tag shard (.list e l tr) =
      (d.setSearch x.run x.task (fun s => { s with replies := s.replies ++ [⟨shard, tag - x.tag, false, e.toNat, l, tr⟩] })).endSearch
        x.run x.task := by
  simp only [Dev.searchAnswer, hx]

/-- R426: what lets the leader begin a lap. -/
theorem Dev.voteDue {d : Dev} (htopo : d.topo ≠ 0) (hawake : d.bit R.PLK_GSTAT.QUIET 0 0 = false) (hlead : d.leader = d.devId)
    (hlap : d.plk.lap = 0) (hvote : d.votesQuiet = true) :
    (decide (d.topo ≠ 0 ∧ d.leader = d.devId ∧ d.plk.lap = 0) && !d.bit R.PLK_GSTAT.QUIET 0 0 && d.votesQuiet) = true := by
  rw [decide_eq_true ⟨htopo, hlead, hlap⟩, hawake, hvote]
  rfl

/-- Settles O50: each message is its operation, under the tests of the leader and of the lap. -/
theorem groupSleepsAndSearches : Obligations.GroupSleepsAndSearches := by
  refine ⟨fun s htopo hawake => ⟨fun hlead hlap hvote => ⟨_, rfl, fun hnext => ?_, fun hnext => ?_⟩, fun t ht => ?_,
    fun hlead hlap => ?_⟩, fun s p hp => ⟨fun hst => ?_, fun hst hvoted => ?_⟩, fun s hup => ?_,
    fun s q x hreq hx hcb hroom hserve => ?_, fun s tag shard x e l tr hshard hx => ?_⟩
  · show execQuietVoteTimer s = _
    exact onDev_answers rfl ((if_pos (Dev.voteDue htopo hawake hlead hlap hvote)).trans (if_neg hnext))
  · show execQuietVoteTimer s = _
    exact onDev_answers rfl ((if_pos (Dev.voteDue htopo hawake hlead hlap hvote)).trans (if_pos hnext))
  · show execQuietToken t s = _
    exact onDev_answers (decide_eq_true ht) (if_neg (by rw [decide_eq_false htopo, hawake]; exact Bool.false_ne_true))
  · show execVetoMessage s = _
    exact onDev_answers rfl (if_pos ⟨hlead, hlap⟩)
  · show execWakePattern p s = _
    exact onDev_answers (decide_eq_true hp) (if_pos hst)
  · show execWakePattern p s = _
    exact onDev_answers (decide_eq_true hp) ((if_neg (by omega)).trans (if_pos ⟨hst, hvoted⟩))
  · show execPlkSleepWake s = _
    exact onDev_answers rfl (if_pos hup)
  · show execSearchQuery q s = _
    exact onDev_answers (decide_eq_true hreq) (Dev.remoteQuery_taken hx hcb hroom hserve)
  · show execSearchReply tag shard (.list e l tr) s = _
    exact onDev_answers (decide_eq_true hshard) (Dev.searchAnswer_list hx e l tr)

end Sys2Proof.Machine
end

section
/-! PROOFS. Safety's channels and pulses (R440, R451, R457 to R459, R537), clearance and the device-wide causes (R454, R455),
wear and sparing (R461 to R470), scrub and self-test (R145, R444). -/

namespace Sys2Proof.Machine

/-! ### Safety channels -/

section
variable {d : Dev} {c : SafChan} {e : Entry} {k : Nat} {a b : List Byte}

theorem Dev.comparePoses_differ (h : slice a 0 128 ≠ slice b 0 128) : d.comparePoses c e k a b =
    (d.setChan c.num (fun c => { c with poseA := none, poseB := none })).dangerous 1 c.num 0 false none := if_pos h

/-- R440: equal poses of a channel that is not cross-compared leave as one frame. -/
theorem Dev.comparePoses_equal (h : slice a 0 128 = slice b 0 128) (hx : c.xcmp = false ∨ c.degraded = true) :
    ∀ f : Dev, f = d.setChan c.num (fun c => { c with poseA := none, poseB := none }) →
    d.comparePoses c e k a b = (f.sendCompared c (f.poseFrame c e k a false) false).countGood c (e.prom k) := by
  rintro f rfl
  have hcross : ¬(c.xcmp && !c.degraded) = true := by
    rcases hx with h | h <;> simp [h]
  exact (if_neg (not_not.mpr h)).trans (if_neg hcross)

end

theorem answers_twinPoseCompare {s : State} {n k : Nat} {c : SafChan} {e : Entry} {a b : List Byte} (hn : n < 16)
    (hc : s.dev.chan n = some c) (ha : c.poseA = some (k, a)) (hb : c.poseB = some (k, b)) (he : s.dev.chanEntry c 0 = some e)
    (hsafe : s.dev.safeNow = false) : Answers (.twinPoseCompare n) s (s.dev.comparePoses c e k a b) := by
  show execTwinPoseCompare n s = _
  refine onDev_answers (decide_eq_true hn) ?_
  simp only [hc, ha, hb, he, hsafe, and_self, if_true]

section
variable {s : State} {src : Nat} (hsrc : src < 16) (htopo : s.dev.topo ≠ 0)
include hsrc htopo

theorem answers_safetyFlit (m : SafetyMsg) : Answers (.safetyFlit src m) s (s.dev.safetyMsg src m) :=
  show execSafetyFlit src m s = _ from onDev_answers (decide_eq_true hsrc) (if_neg htopo)

end

section
variable {d : Dev} {src n : Nat} {c : SafChan} (hc : d.chan n = some c) (hx : c.xcmp = true) (hpeer : c.peer = src)
include hc hx hpeer

theorem Dev.safetyMsg_outTime (prom t : BitVec 64) : d.safetyMsg src (.outTime n prom t) =
    d.setChan n (fun c => { c with partnerTo := keepNew c.partnerTo prom.toNat t.toNat }) := by
  simp only [Dev.safetyMsg, hc, Option.bind_some, hx, hpeer, decide_true, Bool.and_self, if_true]

theorem Dev.safetyMsg_early (hw : c.waiting = none) (prom : BitVec 64) (bs : List Byte) : d.safetyMsg src (.frameBytes n prom bs) =
    d.setChan n (fun c => { c with partnerBytes := keepNew c.partnerBytes prom.toNat bs }) := by
  simp only [Dev.safetyMsg, hc, Option.bind_some, hx, hpeer, decide_true, Bool.and_self, if_true, hw]

theorem Dev.safetyMsg_compares {prom : BitVec 64} {t : Nat} {f : List Byte} (hw : c.waiting = some (prom.toNat, t, f))
    (hsafe : d.safeNow = false) (bs : List Byte) : d.safetyMsg src (.frameBytes n prom bs) = d.crossCompare c f bs := by
  simp only [Dev.safetyMsg, hc, Option.bind_some, hx, hpeer, decide_true, and_self, Bool.and_self, if_true, hw, hsafe]

end

/-- Settles O51: a compare splits on equal data, a time limit and a read-back on what was expected. -/
theorem safetyChannelsAct : Obligations.SafetyChannelsAct := by
  refine ⟨fun s n k c e a b hn hc ha hb he hsafe => ⟨_, rfl, fun hne => ?_, fun heq hx => ?_⟩,
    fun s n c hn hc => ⟨fun hsafe => ?_, fun p t f hw hlate => ?_⟩,
    fun s src n c hsrc htopo hc hx hpeer => ⟨fun prom t => ?_, fun prom bs hw => ?_, fun prom bs t f hw hsafe => ?_⟩,
    fun s hpulse hdue => ?_, fun s a b hdrive hdue => ⟨fun hbad => ?_, fun ha hb => ?_⟩⟩
  · rw [← Dev.comparePoses_differ hne]
    exact answers_twinPoseCompare hn hc ha hb he hsafe
  · rw [← Dev.comparePoses_equal heq hx _ rfl]
    exact answers_twinPoseCompare hn hc ha hb he hsafe
  · show execSafeStateReleaseFrame n s = _
    refine onDev_answers (decide_eq_true hn) ?_
    simp only [hc, hsafe, if_true]
  · show execXcmpPartnerTimeout n s = _
    refine onDev_answers (decide_eq_true hn) ?_
    simp only [hc, hw, if_pos hlate]
  · rw [← Dev.safetyMsg_outTime hc hx hpeer]
    exact answers_safetyFlit hsrc htopo _
  · rw [← Dev.safetyMsg_early hc hx hpeer hw]
    exact answers_safetyFlit hsrc htopo _
  · rw [← Dev.safetyMsg_compares hc hx hpeer hw hsafe]
    exact answers_safetyFlit hsrc htopo _
  · show execSafePulseEdge s = _
    exact onDev_answers rfl (if_pos (by rw [hpulse, decide_eq_true hdue]; rfl))
  · show execSafeReadbackCheck a b s = _
    exact onDev_answers rfl (if_pos (by rw [hdrive, decide_eq_true hdue, decide_eq_true hbad]; rfl))
  · subst ha hb
    have hgood : ¬(s.dev.saf.level ≠ s.dev.saf.level ∨ (!s.dev.saf.level) = s.dev.saf.level) := by simp
    show execSafeReadbackCheck s.dev.saf.level (!s.dev.saf.level) s = _
    exact onDev_answers rfl (if_neg (by rw [decide_eq_false hgood, Bool.and_false]; exact Bool.false_ne_true))

/-! ### Clearance and device-wide causes -/

theorem answers_safeClrEdge {s : State} (hpor : s.dev.pwr.porN = true) (rising : Bool) :
    Answers (.safeClrEdge rising) s (s.dev.clrEdge rising) :=
  show execSafeClrEdge rising s = _ from onDev_answers rfl (if_pos hpor)

theorem Dev.clrEdge_rises {d : Dev} (hlevel : d.saf.clr.level = false) (hfirst : d.saf.clr.first = false) :
    d.clrEdge true = d.setClr (fun c => { c with level := true, rise := some d.now }) := by
  simp only [Dev.clrEdge, hlevel, hfirst, Bool.false_and, Bool.false_eq_true, if_false, if_true]

/-- R454: the end of a first pulse within its bounds. -/
theorem Dev.clrEdge_first {d : Dev} (hlevel : d.saf.clr.level = true) (hlast : d.lasted d.saf.clr.rise 5 50 = true)
    (hfirst : d.saf.clr.first = false) : d.clrEdge false =
      (d.setClr (fun c => { c with level := false, fall := some d.now })).setClr (fun c => { c with first := true }) := by
  simp only [Dev.clrEdge, hlevel, hlast, hfirst, Bool.not_true, Bool.not_false, Bool.true_eq_false, Bool.false_eq_true, if_false,
    if_true]

/-- R455: a clearance self-test passes only where nothing spoilt it. -/
theorem answers_clearanceTestDone {s : State} (hbusy : s.dev.bit R.SAF_STATUS.CLR_BUSY 0 0 = true) (p : Bool) :
    Answers (.clearanceTestDone p) s (if (p && !s.dev.saf.testBad) = true then (s.dev.set R.SAF_STATUS.CLR_BUSY 0 0 0).clearSafe
      else ((s.dev.set R.SAF_STATUS.CLR_BUSY 0 0 0).set R.SAF_STATUS.CLR_FAIL 0 0 1).dangerous 9 0 0 false none) :=
  show execClearanceTestDone p s = _ from onDev_answers rfl (if_pos hbusy)

/-- Settles O52: the edges of the clearance pin, and the verdict of its self-test under both outcomes. -/
theorem clearanceAndDeviceCauses : Obligations.ClearanceAndDeviceCauses := by
  refine ⟨fun s hpor hlevel hfirst => ?_, fun s hpor hlevel hlast hfirst => ⟨_, rfl, ?_⟩,
    fun s hbusy => ⟨fun p hbad => ?_, fun hgood => ?_⟩, fun s c hpor => ?_, fun s hpor => ?_⟩
  · rw [← Dev.clrEdge_rises hlevel hfirst]
    exact answers_safeClrEdge hpor true
  · rw [← Dev.clrEdge_first hlevel hlast hfirst]
    exact answers_safeClrEdge hpor false
  · have hfail : ¬(p && !s.dev.saf.testBad) = true := by
      rcases hbad with h | h <;> simp [h]
    have h := answers_clearanceTestDone hbusy p
    rwa [if_neg hfail] at h
  · have h := answers_clearanceTestDone hbusy true
    rwa [if_pos (by rw [hgood]; rfl)] at h
  · show execSupplyOutOfRange c s = _
    exact onDev_answers rfl (if_pos hpor)
  · show execSafLockstepMismatch s = _
    exact onDev_answers rfl (if_pos hpor)

/-! ### Wear -/

/-- R443, R463: an island below the floor for 1 ms has a hard fault, which in the safety partition is dangerous. -/
theorem belowForLong_due {d : Dev} {i : Island} {t : Nat} (hlow : d.spr.below.lookup i = some t) (hdue : t + 1000000 ≤ d.now)
    (nv : NonVol) : belowForLong nv d i = ((hardFault nv d i).1,
      if (d.islandParts i).any d.isSafe then (hardFault nv d i).2.dangerous 3 0 0 false none else (hardFault nv d i).2) := by
  simp only [belowForLong, hlow, if_pos hdue]

/-- R463: a column in service that no record has retired is fenced, and its eclipse requested. -/
theorem hardFault_column {nv : NonVol} {d : Dev} {i : Island} (hblk : i.blk = 8) (hunit : i.unit < 136) (hfence : i ∉ d.spr.fenced)
    (hrole : d.get R.TA_COL_STAT.ROLE (i.unit / 34) (i.unit % 34) ≠ 3)
    (hmap : nv.spareMap.any (fun r => r.spare.isNone && decide (fencedUnit r.pool r.inst r.unit = some i)) = false) :
    hardFault nv d i = (nv, (({ d with spr := { d.spr with
      below := d.spr.below.filter (fun x => decide (x.1 ≠ i)), fenced := d.spr.fenced ++ [i] } } : Dev).syncSpr.syncWidths
        (i.unit / 34)).requestEclipse 1 (i.unit / 34) (i.unit % 34) true (d.islandPart i)) := by
  have hcol : i.blk = 8 ∧ i.unit < 136 := ⟨hblk, hunit⟩
  simp only [hardFault, decide_eq_false hfence, decide_eq_false hrole, hmap, Bool.and_false, Bool.or_self, Bool.false_eq_true, if_false,
    if_pos hcol]

theorem Dev.canary_first {d : Dev} {i : Island} {m p : Nat} (hp : p ≠ 0)
    (hnew : d.spr.drift.any (fun y => decide (y.1 = i)) = false) :
    d.canary i m p = { d with spr := { d.spr with drift := d.spr.drift ++ [(i, ((m : Int) - p) * 65536 / p, 1)] } } := by
  simp only [Dev.canary, if_neg hp, hnew, Bool.false_eq_true, if_false]

theorem answersBoth_unitBelowFloor1ms {i : Island} (hi : islandOk i = true) (s : State) :
    AnswersBoth (.unitBelowFloor1ms i) s (belowForLong s.nv s.dev i).1 (belowForLong s.nv s.dev i).2 :=
  show execUnitBelowFloor1ms i s = _ from onBoth_answers hi rfl

theorem answersBoth_canaryStall {i : Island} (hi : islandOk i = true) (s : State) :
    AnswersBoth (.canaryStall i) s (hardFault s.nv s.dev i).1 (hardFault s.nv s.dev i).2 :=
  show execCanaryStall i s = _ from onBoth_answers hi rfl

/-- Settles O53: a reading is kept, and a unit too slow for too long splits on the safety partition. -/
theorem wearIsWatched : Obligations.WearIsWatched := by
  refine ⟨fun s i hi => ?_, fun s i t hi hlow hdue hsafe => ?_, fun s i t hi hlow hdue hsafe => ?_, fun s i m p hi hp hnew => ?_,
    fun s => ⟨_, rfl, ?_⟩, fun s i hi hblk hunit hfence hrole hmap => ?_⟩
  · show execRateMonitorBelowFloor i s = _
    exact onDev_answers hi rfl
  · have h := answersBoth_unitBelowFloor1ms hi s
    rwa [belowForLong_due hlow hdue, if_neg (by rw [hsafe]; exact Bool.false_ne_true)] at h
  · have h := answersBoth_unitBelowFloor1ms hi s
    rwa [belowForLong_due hlow hdue, if_pos hsafe] at h
  · show execCanarySample i m p s = _
    exact onDev_answers hi (Dev.canary_first hp hnew)
  · show execWearWindowEnd s = _
    exact onDev_answers rfl rfl
  · have h := answersBoth_canaryStall hi s
    rw [hardFault_column hblk hunit hfence hrole hmap] at h
    exact h

/-! ### Eclipses -/

section
variable {nv : NonVol} {d : Dev} {p id : Nat} {m : Maint} {e : Eclipse} (hm : d.nextMaint p = some m) (hk : m.kind = .eclipse id)
  (he : d.spr.queue.find? (fun e => decide (e.id = id)) = some e)
include hm hk he

/-- R465, R466: the step of an eclipse that has a spare. -/
theorem eclipseStep_spare {sp : Nat} (hsp : e.spare = some sp ∨ e.spare = none ∧ d.takeSpare nv e.pool e.inst e.unit = some sp) :
    eclipseStep nv d p = if eclipseSteps e.pool ≤ e.done + 1 then eclipseDone nv d e sp
      else (nv, { d with spr := { d.spr with queue := d.spr.queue.map (fun x =>
        if x.id = id then { x with done := x.done + 1, spare := some sp } else x) } }) := by
  have htake : (e.spare.orElse (fun _ => d.takeSpare nv e.pool e.inst e.unit)) = some sp := by
    rcases hsp with h | ⟨h, h'⟩
    · rw [h]; rfl
    · rw [h]; exact h'
  simp only [eclipseStep, hm, Option.map_some, hk, he, htake]

/-- R470: a request that finds its pool empty, when the unit is no row. -/
theorem eclipseStep_empty (hsp : e.spare = none) (hno : d.takeSpare nv e.pool e.inst e.unit = none) (h3 : e.pool ≠ 3) (h5 : e.pool ≠ 5) :
    eclipseStep nv d p = retire nv (d.dropEclipse e) e.pool e.inst e.unit := by
  have htake : (e.spare.orElse (fun _ => d.takeSpare nv e.pool e.inst e.unit)) = none := by rw [hsp]; exact hno
  simp only [eclipseStep, hm, Option.map_some, hk, he, htake, eclipseEmpty]

end

theorem answersBoth_eclipseStep {s : State} {p : Nat} (hp : p < 16) (hparts : p < s.dev.parts) :
    AnswersBoth (.eclipseStep p) s (eclipseStep s.nv s.dev p).1 (eclipseStep s.nv s.dev p).2 :=
  show execEclipseStep p s = _ from onBoth_answers (decide_eq_true hp) (if_pos hparts)

/-- Settles O54: the eclipse's step splits on a spare being left, then on the step being its last. -/
theorem eclipsesProceed : Obligations.EclipsesProceed := by
  intro s p id m e hp hparts hm hk he
  have h := answersBoth_eclipseStep hp hparts
  refine ⟨fun sp hsp => ⟨fun hlast => ?_, fun hmore => ?_⟩, fun hsp hno h3 h5 => ?_⟩
  · rw [eclipseStep_spare hm hk he hsp, if_pos hlast] at h
    exact h
  · rw [eclipseStep_spare hm hk he hsp, if_neg (Nat.not_le.mpr hmore)] at h
    exact h
  · rw [eclipseStep_empty hm hk he hsp hno h3 h5] at h
    exact h

/-! ### Scrub and self-test -/

/-- R145: a granule that is not the last of its pass. -/
theorem Dev.scrubStep_one {d : Dev} {p k g : Nat}
    (hg : nthGranule (d.scrubRanges p k) (SMap.read 0 d.scrub (scrubKey p k)) = some g)
    (hnext : (nthGranule (d.scrubRanges p k) (SMap.read 0 d.scrub (scrubKey p k) + 1)).isSome = true) :
    ∀ e, e = d.scrubGranule p g →
    d.scrubStep p k 1 = { e with scrub := SMap.write 0 e.scrub (scrubKey p k) (SMap.read 0 d.scrub (scrubKey p k) + 1) } := by
  rintro e rfl
  have hone : List.range 1 = [0] := rfl
  simp only [Dev.scrubStep, hone, List.foldl_cons, List.foldl_nil, hg, hnext, if_true]

theorem answersBoth_selfTestStep {s : State} {p : Nat} {is : List Island} (hp : p < 16) (his : is.all siteOk = true)
    (hparts : p < s.dev.parts) (failed : Bool) :
    AnswersBoth (.selfTestStep p failed is) s (selfTest s.nv s.dev p failed is).1 (selfTest s.nv s.dev p failed is).2 :=
  show execSelfTestStep p failed is s = _ from
    onBoth_answers (by rw [decide_eq_true hp, his]; rfl) (if_pos hparts)

/-- R463: the one suspect, which the test reproduces, has a hard fault. -/
theorem selfTest_reproduced {d : Dev} {p : Nat} {i : Island} {is : List Island} (hi : i ∈ is) (hsus : d.spr.suspects = [i])
    (hpart : d.islandPart i = p) (nv : NonVol) :
    selfTest nv d p false is = hardFault nv { d with spr := { d.spr with suspects := [] } } i := by
  subst hpart
  simp [selfTest, hsus, hi]

/-- R444: the test of the safety partition fails without a suspect. -/
theorem selfTest_failed {d : Dev} {p : Nat} (hsus : d.spr.suspects = []) (hsafe : d.isSafe p = true) (nv : NonVol) :
    selfTest nv d p true [] = (nv, d.dangerous 9 0 0 false none) := by
  have hsame : ({ d with spr := { d.spr with suspects := [] } } : Dev) = d := by rw [← hsus]
  simp only [selfTest, hsus, List.filter_nil, List.foldl_nil, hsame, hsafe, Bool.and_self, if_true]

/-- Settles O55: a scrub of one granule, and a self-test on what it reproduced and on its failure. -/
theorem testsProceed : Obligations.TestsProceed := by
  refine ⟨fun s p k g hp hk hparts hg hnext => ⟨_, rfl, ?_⟩, fun s p i is hp his hparts hi hsus hpart => ⟨_, rfl, ?_⟩,
    fun s p hp hparts hsus hsafe => ?_⟩
  · show execScrubStep p k 1 s = _
    exact onDev_answers (decide_eq_true ⟨hp, hk⟩) ((if_pos hparts).trans (Dev.scrubStep_one hg hnext _ rfl))
  · have h := answersBoth_selfTestStep hp his hparts false
    rwa [selfTest_reproduced hi hsus hpart] at h
  · have h := answersBoth_selfTestStep hp (is := []) rfl hparts true
    rw [selfTest_failed hsus hsafe] at h
    exact h

end Sys2Proof.Machine
end

section
/-! PROOFS. The annals and power failure (R41, R473, R477 to R479, R516), power states and supplies (R509, R515, R523), domains
and the thermal limit (R512, R518), fuses, JTAG and periodic dumps (R505, R519, R526, R527). -/

namespace Sys2Proof.Machine

/-! ### The annals -/

theorem writeNext_front {nv : NonVol} {d : Dev} {r : AnnRec} {q : List AnnRec} (hq : d.ann.queue = r :: q)
    (hfin : d.ann.final = false) : writeNext nv d = writeRecord nv { d with ann := { d.ann with queue := q } } r := by
  simp only [writeNext, hq, hfin, Bool.false_eq_true, if_false]

/-- What the final record of a power failure says (R477), when the queue is empty. -/
def finalRec (nv : NonVol) (d : Dev) : AnnRec :=
  ⟨8, 1, 0x0E, 0, d.tb0Stamp, d.uptime, leBytes 4 (cellOf d.regs R.SAF_STATUS.reg.base) ++
    leBytes 4 (cellOf d.regs R.CAL_STATUS.reg.base) ++ leBytes 4 d.ann.drops ++ leBytes 4 (nv.lastSeq 1) ++ leBytes 4 (nv.lastSeq 2)⟩

/-- R477: an empty queue loses nothing, and the final record is written. -/
theorem finalRecord_empty {nv : NonVol} {d : Dev} (hclosed : d.ann.closed = true) (hfin : d.ann.final = false)
    (hq : d.ann.queue = []) :
    ∀ x, x = writeRecord nv { d with ann := { d.ann with queue := [], drops := d.ann.drops } } (finalRec nv d) →
    finalRecord nv d = (x.1, ({ x.2 with ann := { x.2.ann with final := true } } : Dev).set R.ANN_STATUS.PF_DONE 0 0 1) := by
  rintro x rfl
  simp only [finalRecord, hclosed, hfin, hq, List.isEmpty_nil, List.length_nil, Nat.add_zero, Bool.not_false, Bool.and_self, if_true]
  rfl

theorem answersBoth_annalsRecordWrite (s : State) :
    AnswersBoth .annalsRecordWrite s (writeNext s.nv s.dev).1 (writeNext s.nv s.dev).2 :=
  show execAnnalsRecordWrite s = _ from onBoth_answers rfl rfl

theorem answersBoth_powerFailFinalRecord (s : State) :
    AnswersBoth .powerFailFinalRecord s (finalRecord s.nv s.dev).1 (finalRecord s.nv s.dev).2 :=
  show execPowerFailFinalRecord s = _ from onBoth_answers rfl rfl

/-- Settles O56: each command is its operation on the front of the annals' queue, under POR_N and the state of the power failure. -/
theorem annalsAreWrittenAndRead : Obligations.AnnalsAreWrittenAndRead := by
  refine ⟨fun s r q hq hfin x hx => ?_, fun s hpor => ⟨fun hpf => ⟨_, rfl, ?_⟩, fun hpf => ?_⟩, fun s hclosed hfin hq x hx => ?_,
    fun s hpor => ⟨?_, ?_, fun off n hal h1 h16 hend => ?_, fun off n hbad => ?_, fun hcmc => ⟨_, rfl, ?_⟩⟩⟩
  · rw [hx, ← writeNext_front hq hfin]
    exact answersBoth_annalsRecordWrite s
  · show execPwrFailFall s = _
    exact onDev_answers rfl (if_pos (by rw [hpor, hpf]; rfl))
  · show execPowerRestored s = _
    exact onDev_answers rfl (if_pos (by rw [hpor, hpf]; rfl))
  · have h := answersBoth_powerFailFinalRecord s
    rw [finalRecord_empty hclosed hfin hq x hx] at h
    exact h
  · show execGetInfo s = _
    exact onDev_answers rfl (if_pos hpor)
  · show execReadSpareMap s = _
    exact onDev_answers rfl (if_pos hpor)
  · rw [← Dev.annRead_served s.nv s.dev hal h1 h16 hend]
    exact execRead_answers hpor off n
  · rw [← Dev.annRead_refused s.nv s.dev hbad]
    exact execRead_answers hpor off n
  · show execCmcUnresponsive s = _
    exact onDev_answers rfl (if_pos (by rw [hpor, hcmc]; rfl))

/-! ### Power states -/

section
variable {d : Dev} (nv : NonVol) (f : Flash)

theorem Dev.supplyGood_next {n t : Nat} (h : d.pwr.await = some (n, t)) (hn : n < 5) : d.supplyGood nv f =
    ({ d with pwr := { d.pwr with
      supplies := modifyAt d.pwr.supplies n (fun _ => true)
      await := some (n + 1, d.now) } } : Dev).emit (.psq (n + 1) true) := by
  simp only [Dev.supplyGood, h, if_pos hn]

theorem Dev.domainsOn_pwr (d : Dev) : d.domainsOn.pwr = d.pwr := by
  rw [Dev.domainsOn, Dev.set_pwr, Dev.set_pwr]

/-- R509: the last supply lets the boot go on. -/
theorem Dev.supplyGood_last {t : Nat} (h : d.pwr.await = some (5, t)) (hhalt : d.pwr.halt = false) : d.supplyGood nv f =
    bootOn nv ((({ d with pwr := { d.pwr with
      supplies := modifyAt d.pwr.supplies 5 (fun _ => true)
      await := none } } : Dev).domainsOn).set R.PWR_STAT.BOOT_STEP 0 0 3) f := by
  simp only [Dev.supplyGood, h, Nat.lt_irrefl, if_false, Dev.domainsOn_pwr, hhalt, Bool.false_eq_true]

end

/-- R514: nothing holds the device from IDLE. -/
theorem Dev.requestIdle_free {d : Dev} (hent : d.cal.entries = []) (hreq : d.reqs = []) (hbind : d.ing.binds = [])
    (hgroup : d.topo = 0 ∨ d.bit R.PLK_GSTAT.QUIET 0 0 = true) :
    d.requestIdle = ({ d with pwr := { d.pwr with idleFrom := d.pwr.state, state := .idle } } : Dev).set R.PWR_STAT.STATE 0 0 2 := by
  have hquiet : (decide (d.topo = 0) || d.bit R.PLK_GSTAT.QUIET 0 0) = true := by
    rcases hgroup with h | h <;> simp [h]
  simp only [Dev.requestIdle, hent, hreq, hbind, hquiet, List.isEmpty_nil, Bool.and_self, if_true]

/-- R515: nothing holds the device from STANDBY. -/
theorem Dev.requestStandby_free {d : Dev} (hwbs : d.wbs.all (fun w => d.isSafe w.part) = true) (hbind : d.ing.binds = [])
    (hsafe : d.bit R.SAF_STATUS.OPER 0 0 = false ∨ d.bit R.SAF_STATUS.SAFE 0 0 = true) :
    ∀ e x : Dev, e = (d.wbs.foldl (fun d w => d.unload w) d).resetHost .linkDown →
      x = (e.set R.PWR_DOM_LO.ON 0 0 3).set R.PWR_DOM_HI.ON 0 0 (if e.bit R.PWR_CFG.T2_RET 0 0 then 0xC00 else 0) →
      d.requestStandby = { x with pwr := { x.pwr with state := .standby } } := by
  rintro e x rfl rfl
  have hoff : (!d.bit R.SAF_STATUS.OPER 0 0 || d.bit R.SAF_STATUS.SAFE 0 0) = true := by
    rcases hsafe with h | h <;> simp [h]
  simp only [Dev.requestStandby, hwbs, hbind, hoff, List.isEmpty_nil, Bool.and_self, if_true]

/-- Settles O58: each command is its operation, behind the test of the state that it leaves. -/
theorem powerStatesChange : Obligations.PowerStatesChange := by
  refine ⟨fun s => ?_, fun s f hpor => ?_, fun s f n t hw hn => ?_, fun s f t hw hhalt => ?_, fun s n t hw hlate => ?_,
    fun s e hup he => ⟨fun hent hreq hbind hgroup => ?_, fun hwbs hbind hsafe => ⟨_, rfl, _, rfl, ?_⟩⟩, fun s f hst => ?_⟩
  · show execPorNAssert s = _
    exact onBoth_answers rfl rfl
  · show execPorNRelease f s = _
    exact onBoth_answers rfl (if_neg (by rw [hpor]; exact Bool.false_ne_true))
  · show execSupplyPowerGood f s = _
    exact onDev_answers rfl (Dev.supplyGood_next s.nv f hw hn)
  · show execSupplyPowerGood f s = _
    exact onDev_answers rfl (Dev.supplyGood_last s.nv f hw hhalt)
  · show execSupplyGoodTimeout s = _
    refine onDev_answers rfl ?_
    simp only [hw, if_pos hlate]
  · subst he
    show execPwrReqIdle s = _
    exact onDev_answers rfl ((if_pos hup).trans (Dev.requestIdle_free hent hreq hbind hgroup))
  · subst he
    show execPwrReqStandby s = _
    exact onDev_answers rfl ((if_pos hup).trans (Dev.requestStandby_free hwbs hbind hsafe _ _ rfl rfl))
  · show execStandbyWake f s = _
    exact onDev_answers rfl (if_pos hst)

/-! ### Domains and the thermal limit -/

theorem answersBoth_domainPowerUpDone {s : State} {n : Nat} {l : List Island} (hn : n < 48) (hl : l.all siteOk = true) :
    AnswersBoth (.domainPowerUpDone n l) s (domainUp s.nv s.dev n l).1 (domainUp s.nv s.dev n l).2 :=
  show execDomainPowerUpDone n l s = _ from onBoth_answers (by rw [decide_eq_true hn, hl]; rfl) rfl

theorem domainUp_waited {d : Dev} {n : Nat} (hn : n ∈ d.pwr.waking) (nv : NonVol) (l : List Island) :
    ∀ e x : Dev, e = { d with pwr := { d.pwr with waking := d.pwr.waking.filter (fun x => decide (x ≠ n)) } } →
      x = (if 2 ≤ n ∧ n < 18 then { e with mem := e.mem.wipe (sliceBase ((n - 2) / 4) ((n - 2) % 4)) sliceSize } else e) →
      domainUp nv d n l = hardFaults nv (x.setDomain n true).syncPower l := by
  rintro e x rfl rfl
  exact if_pos hn

theorem answers_thermalSample {s : State} (hpor : s.dev.pwr.porN = true) (tj : Int) :
    Answers (.thermalSample tj) s (s.dev.thermal tj) :=
  show execThermalSample tj s = _ from onDev_answers rfl (if_pos hpor)

section
variable {d : Dev} {tj : Int}

theorem Dev.thermalAct_cool (h : tj < 118) : d.thermalAct tj = d.noteCool tj := by
  simp only [Dev.thermalAct, if_neg (show ¬118 ≤ tj by omega), if_neg (show ¬125 < tj by omega)]

theorem Dev.thermalAct_trips (h : 118 ≤ tj) (h' : tj ≤ 125) : d.thermalAct tj = (d.noteCool tj).trip := by
  simp only [Dev.thermalAct, if_pos h, if_neg (show ¬125 < tj by omega)]

theorem Dev.thermalAct_dangerous (h : 125 < tj) : d.thermalAct tj = (d.noteCool tj).trip.dangerous 0xF 0 0 true none := by
  simp only [Dev.thermalAct, if_pos (show 118 ≤ tj by omega), if_pos h]

end

/-- An instant that lies far enough back. -/
theorem Dev.since_some {d : Dev} {t n : Nat} (h : t + n ≤ d.now) : d.since (some t) n = true := decide_eq_true h

/-- Settles O59: the domain that was waited for comes up, and the limit splits on the hottest temperature. -/
theorem domainsAndThermalLimit : Obligations.DomainsAndThermalLimit := by
  refine ⟨fun s n l hn hl hwait d x hd hx y hy => ?_, fun s tj d hpor hd => ?_,
    fun s hpor => ⟨fun hhot hlevel hsince => ?_, fun t hcool hlate hlevel hsince => ?_⟩⟩
  · rw [hy, ← domainUp_waited hwait s.nv l d x hd hx]
    exact answersBoth_domainPowerUpDone hn hl
  · subst hd
    have h := answers_thermalSample hpor tj
    rw [Dev.thermal] at h
    refine ⟨fun hlow => ?_, fun hlo hhi => ?_, fun hhigh => ?_⟩
    · rwa [Dev.thermalAct_cool hlow] at h
    · rwa [Dev.thermalAct_trips hlo hhi] at h
    · rwa [Dev.thermalAct_dangerous hhigh] at h
  · show execThermalHwRaise s = _
    exact onDev_answers rfl (if_pos (by rw [hpor, decide_eq_true ⟨hhot, hlevel⟩, hsince]; rfl))
  · show execThermalHwLower s = _
    exact onDev_answers rfl (if_pos (by rw [hpor, hcool, decide_eq_true hlevel, Dev.since_some hlate, hsince]; rfl))

/-! ### Fuses, JTAG, dumps -/

/-- What GO does while no word is being programmed (R527). -/
theorem Dev.program_idle {d : Dev} (h : d.pwr.prog = none) (nv : NonVol) : d.program nv =
    if d.pwr.fusing = false then d.set R.FUS_PROG_CTRL.ERR 0 0 3
    else if d.fuseLocked (d.get R.FUS_PROG_ADDR.WORD 0 0) (d.get R.FUS_PROG_DATA.DATA 0 0) = true then d.set R.FUS_PROG_CTRL.ERR 0 0 1
    else if 32 ≤ nv.fuseRows then d.set R.FUS_PROG_CTRL.ERR 0 0 2
    else ((({ d with pwr := { d.pwr with
        prog := some (d.get R.FUS_PROG_ADDR.WORD 0 0, d.get R.FUS_PROG_DATA.DATA 0 0) } } : Dev).set R.FUS_PROG_CTRL.ERR 0 0 0).set
          R.FUS_PROG_CTRL.DONE 0 0 0).set R.FUS_PROG_CTRL.BUSY 0 0 1 := by
  simp only [Dev.program, h, Option.isSome_none, Bool.false_eq_true, if_false, Bool.not_eq_true']

theorem answers_fuseProgram {s : State} (hup : s.dev.hostUp = true) : Answers .fuseProgram s (s.dev.wakeIdle.program s.nv) :=
  show execFuseProgram s = _ from onDev_answers rfl (if_pos hup)

/-- R527: a word whose bits all read 1 where they should stays in its row. -/
theorem programDone_good {nv : NonVol} {d : Dev} {w data rb : Nat} (h : d.pwr.prog = some (w, data))
    (hgood : Nat.land rb (Nat.lor (nv.fuseNow w) data) = Nat.lor (nv.fuseNow w) data) : programDone nv d rb =
      ({ nv with fuses := SMap.write 0 nv.fuses w (BitVec.ofNat 32 (Nat.lor rb (nv.fuseNow w))) },
        (({ d with pwr := { d.pwr with prog := none } } : Dev).set R.FUS_PROG_CTRL.BUSY 0 0 0).set R.FUS_PROG_CTRL.DONE 0 0 1
          |>.set R.FUS_PROG_DATA.DATA 0 0 (Nat.lor rb (nv.fuseNow w))) := by
  simp only [programDone, h, hgood, decide_true, if_true]
  rfl

theorem answersBoth_fuseProgramDone (s : State) (x : W32) :
    AnswersBoth (.fuseProgramDone x) s (programDone s.nv s.dev x.toNat).1 (programDone s.nv s.dev x.toNat).2 :=
  show execFuseProgramDone x s = _ from onBoth_answers rfl rfl

/-- A dump that falls due answers the request that still waits for it (R505). -/
theorem Dev.dumpDue_falls {d : Dev} {c : Nat} {p : Dump} (hp : (d.ctx c).dump = some p) (hdue : p.next ≤ d.ctxNow c) :
    ∀ f e : Dev, f = d.writeDump c p.base p.len p.count (decide (p.next + p.period ≤ d.ctxNow c)) →
      e = f.setCtx c (fun x => { x with dump := some { p with
        count := (p.count + 1) % 2 ^ 32
        next := p.next + ((d.ctxNow c - p.next) / max 1 p.period + 1) * p.period
        req := none } }) →
      (p.req.bind e.req = none → d.dumpDue c = e) ∧
      (∀ r, p.req.bind e.req = some r → d.dumpDue c = e.finishReq r 0 0 none 0 []) := by
  rintro f e rfl rfl
  refine ⟨fun h => ?_, fun r h => ?_⟩ <;> simp only [Dev.dumpDue, hp, if_neg (Nat.not_lt.mpr hdue), h]

theorem answers_counterDumpTimer {c : Nat} (hc : c < 2048) (s : State) : Answers (.counterDumpTimer c) s (s.dev.dumpDue c) :=
  show execCounterDumpTimer c s = _ from onDev_answers (decide_eq_true hc) rfl

/-- Settles O60: the refusals of GO in their order, and each authorised act on the state that allows it. -/
theorem fusesAndDebugAct : Obligations.FusesAndDebugAct := by
  refine ⟨?_, ?_, fun s => ?_, fun s hpor hmode => ⟨fun hsafe => ?_, fun hoper hsafe => ?_⟩, fun s f hup => ?_,
    fun s c p hc hp hdue => ⟨_, rfl, _, rfl, fun hreq => ?_, fun q r hreq hr => ?_⟩⟩
  · rintro s e w data hup rfl rfl rfl hidle
    have h := answers_fuseProgram hup
    rw [Dev.program_idle hidle] at h
    refine ⟨fun hfus hlock hrows => ?_, fun hfus => ?_, fun hfus hlock => ?_, fun hfus hlock hrows => ?_⟩
    · rwa [if_neg (by rw [hfus]; decide), if_neg (by rw [hlock]; decide), if_neg (Nat.not_le.mpr hrows)] at h
    · rwa [if_pos hfus] at h
    · rwa [if_neg (by rw [hfus]; decide), if_pos hlock] at h
    · rwa [if_neg (by rw [hfus]; decide), if_neg (by rw [hlock]; decide), if_pos hrows] at h
  · rintro s w old data v x hprog rfl hgood rfl
    have h := answersBoth_fuseProgramDone s x
    rw [programDone_good hprog hgood] at h
    exact h
  · show execTrstNReset s = _
    exact onDev_answers rfl rfl
  · have hopen : (!(s.dev.bit R.SAF_STATUS.OPER 0 0 && !s.dev.safeNow)) = true := by
      rcases hsafe with h | h <;> simp [h]
    show execJtagChallenge true s = _
    exact onDev_answers rfl (if_pos (by rw [hpor, decide_eq_true hmode, hopen]; rfl))
  · show execJtagChallenge true s = _
    exact onDev_answers rfl (if_neg (by rw [hoper, hsafe, Bool.not_false, Bool.and_self, Bool.not_true, Bool.and_false]; exact Bool.false_ne_true))
  · show execPmcFreeze f s = _
    exact onDev_answers rfl (if_pos hup)
  · rw [← (Dev.dumpDue_falls hp hdue _ _ rfl rfl).1 (by rw [hreq]; rfl)]
    exact answers_counterDumpTimer hc s
  · rw [← (Dev.dumpDue_falls hp hdue _ _ rfl rfl).2 r (by rw [hreq]; exact hr)]
    exact answers_counterDumpTimer hc s

end Sys2Proof.Machine
end
